-- ==== Sys2Proof/Word.lean ====
section
/-! DEFINITION. The word types of the Twizer: bytes, the 64-bit scalar word, the 512-bit vector
register, and the sparse byte memory every store of the device is written in (R1, R14, R78, R146). -/

namespace Sys2Proof

/-- One byte (R1). -/
abbrev Byte := BitVec 8

/-- A 64-bit scalar register or control register value (R78). -/
abbrev Word := BitVec 64

/-- A 32-bit bundle word or PC (R21, R26). -/
abbrev Word32 := BitVec 32

/-- A 512-bit vector register (R146). -/
abbrev VReg := BitVec 512

end Sys2Proof
end

