-- ==== Sys2Proof/Syntax.lean ====
section
/-! DEFINITION. The syntax of the Twizer: operand formats of both words of a bundle (R22, R30, R37), the payloads
that events carry between units, and `Instr`, one constructor per row of the opcode table. -/

namespace Sys2Proof

/-! Heads and operand formats. -/

/-- STALL, NEG and GUARD of a C-word (R22). STALL belongs to the bundle (R24). -/
structure CHead where
  stall : BitVec 3
  neg : Bool
  grd : BitVec 3
  deriving DecidableEq, Repr

/-- NEG and GUARD of an A-word (R22). -/
structure AHead where
  neg : Bool
  grd : BitVec 3
  deriving DecidableEq, Repr

/-- The A-word literal of a LONE bundle (R25, R34). -/
abbrev Lit := Option (BitVec 32)

/-- A displacement of format CJ: DISP18, or DISP32 when LONE = 1 (R30). -/
inductive Disp where
  | short (d : BitVec 18)
  | long (d : BitVec 32)
  deriving DecidableEq, Repr

/-- Format CM (R30). -/
structure CM where
  reg : BitVec 5
  sg : BitVec 3
  ty : BitVec 3
  ix : Bool
  idx : BitVec 4
  dc : BitVec 2
  lit : Lit
  deriving DecidableEq, Repr

/-- Format CM of `gst`, whose DC is 0 (R262), and of nothing else. -/
structure CMS where
  reg : BitVec 5
  sg : BitVec 3
  ty : BitVec 3
  ix : Bool
  idx : BitVec 4
  lit : Lit
  deriving DecidableEq, Repr

/-- Format CM of `segld` and `segst`: REG is sg[K], TY is 0 (R131). -/
structure CSeg where
  k : BitVec 3
  sg : BitVec 3
  ix : Bool
  idx : BitVec 4
  dc : BitVec 2
  lit : Lit
  deriving DecidableEq, Repr

/-- Format CV (R30). -/
structure CV where
  vr : BitVec 5
  sg : BitVec 3
  g : BitVec 2
  ix : Bool
  idx : BitVec 4
  dc : BitVec 2
  lit : Lit
  deriving DecidableEq, Repr

/-- Format CP (R30). -/
structure CP where
  reg : BitVec 5
  ty : BitVec 3
  off : BitVec 8
  deriving DecidableEq, Repr

/-- Format CG (R30). -/
structure CG where
  reg : BitVec 5
  sg : BitVec 3
  w : BitVec 2
  idx : BitVec 4
  bar : BitVec 4
  lit : Lit
  deriving DecidableEq, Repr

/-- Format CA with its required literal (R30, R34). -/
structure CA where
  a : BitVec 5
  sg : BitVec 3
  ix : Bool
  idx : BitVec 4
  b : BitVec 4
  op : BitVec 4
  ty : BitVec 2
  disp : BitVec 26
  deriving DecidableEq, Repr

/-- Format CA of `gred`: A is 0 (R265). -/
structure CARed where
  sg : BitVec 3
  ix : Bool
  idx : BitVec 4
  b : BitVec 4
  op : BitVec 4
  ty : BitVec 2
  disp : BitVec 26
  deriving DecidableEq, Repr

/-- Format CE (R30, R210); the literal is a message type (R34). -/
structure CE where
  ey : BitVec 4
  reg : BitVec 5
  pk : BitVec 2
  ord : Bool
  st : Bool
  ps : BitVec 3
  lit : Option (BitVec 8)
  deriving DecidableEq, Repr

/-- A memory operand `[sgN + sK]` of formats CR and CW with its displacement literal (R33, R36). -/
structure MemR where
  sg : BitVec 3
  idx : BitVec 5
  lit : Lit
  deriving DecidableEq, Repr

/-- Format CY (R30). -/
structure CY where
  tok : BitVec 4
  sgd : BitVec 3
  idxd : BitVec 4
  sgs : BitVec 3
  idxs : BitVec 4
  deriving DecidableEq, Repr

/-- The length of a `copy` (R34): a literal length or a length register. -/
inductive CopyLen where
  | imm (n : BitVec 25)
  | reg (r : BitVec 4)
  deriving DecidableEq, Repr

/-- Format AR (R37). -/
structure AR where
  d : BitVec 5
  a : BitVec 5
  b : BitVec 5
  deriving DecidableEq, Repr

/-- Format AR of a unary form: B is 0 (R41). -/
structure AU where
  d : BitVec 5
  a : BitVec 5
  deriving DecidableEq, Repr

/-- Format AF (R37). -/
structure AF where
  d : BitVec 5
  a : BitVec 5
  pos : BitVec 6
  len : BitVec 6
  deriving DecidableEq, Repr

/-- Format AP (R37). -/
structure AP where
  pd : BitVec 3
  pa : BitVec 3
  na : Bool
  pb : BitVec 3
  nb : Bool
  deriving DecidableEq, Repr

/-- Format AFP (R37). -/
structure AFP where
  d : BitVec 5
  a : BitVec 5
  b : BitVec 5
  rm : BitVec 3
  ft : BitVec 2
  deriving DecidableEq, Repr

/-- Format AFP with RM 0 (R90). -/
structure AFS where
  d : BitVec 5
  a : BitVec 5
  b : BitVec 5
  ft : BitVec 2
  deriving DecidableEq, Repr

/-- Formats ACV and VCV (R37). -/
structure ACV where
  d : BitVec 5
  a : BitVec 5
  frm : BitVec 4
  dst : BitVec 4
  rm : BitVec 3
  deriving DecidableEq, Repr

/-- Format VR (R37). -/
structure VR where
  vd : BitVec 5
  va : BitVec 5
  vb : BitVec 5
  vm : BitVec 3
  g : BitVec 2
  w : BitVec 2
  deriving DecidableEq, Repr

/-- Format VU: VR whose VB is the unary code (R37). -/
structure VU where
  vd : BitVec 5
  va : BitVec 5
  vm : BitVec 3
  g : BitVec 2
  w : BitVec 2
  deriving DecidableEq, Repr

/-- Format VC (R37). -/
structure VC where
  md : BitVec 3
  va : BitVec 5
  vb : BitVec 5
  cc : BitVec 4
  vm : BitVec 3
  w : BitVec 2
  deriving DecidableEq, Repr

/-- Format VRD (R37). -/
structure VRD where
  vd : BitVec 5
  va : BitVec 5
  op : BitVec 5
  vm : BitVec 3
  g : BitVec 2
  w : BitVec 2
  deriving DecidableEq, Repr

/-- Format VR with G = 0 (R162). -/
structure VP where
  vd : BitVec 5
  va : BitVec 5
  vb : BitVec 5
  vm : BitVec 3
  w : BitVec 2
  deriving DecidableEq, Repr

/-- Format VR with G = 0 and VB = 0 (R163). -/
structure VCE where
  vd : BitVec 5
  va : BitVec 5
  vm : BitVec 3
  w : BitVec 2
  deriving DecidableEq, Repr

/-- Format VX (R37). -/
structure VX where
  v : BitVec 5
  s : BitVec 5
  lane : BitVec 6
  w : BitVec 2
  deriving DecidableEq, Repr

/-- Format VBX (R37). -/
structure VBX where
  vd : BitVec 5
  va : BitVec 5
  bx : BitVec 2
  rm : BitVec 3
  ft : BitVec 2
  deriving DecidableEq, Repr

/-- `tmma` and `tmmas` operands of format AT (R42). -/
structure TMM where
  td : BitVec 3
  ta : BitVec 3
  tb : BitVec 3
  acc : Bool
  scl : Bool
  deriving DecidableEq, Repr

/-! Payloads of events. -/

/-- A thread in a slot: physical core, slot, and the thread's identity (origin device index × 2^32 + thread
number, R286), so that what reaches a slot after its thread has gone finds no thread (R283). -/
structure SlotRef where
  core : Nat
  slot : Nat
  tid : Nat
  deriving DecidableEq, Repr

/-- Where a tracked or fixed-latency result goes (R79, R81, R107). A queue entry is named by the number it was
reserved under; `creg` is a control register of the core whose write takes effect a cycle after issue (R96, R101); `vpart`
and `vgroup` are a register of a group that is loaded, and its last, with which the group from `first` on is full (R130). -/
inductive RegDst where
  | none
  | creg (n : Nat)
  | sreg (r : Nat)
  | preg (r : Nat)
  | vreg (r : Nat)
  | mreg (r : Nat)
  | vpart (r : Nat)
  | vgroup (first n : Nat)
  | queue (q : Nat) (entry : Nat)
  deriving DecidableEq, Repr

/-- A trap: cause and subcode (R358), ADDR and DETAIL (R356). -/
structure TrapInfo where
  cause : Nat
  sub : Nat
  addr : Word := 0
  detail : Word := 0
  deriving DecidableEq, Repr

/-- The bundle that caused something after issue: its address, its 64 bits, and the word (R356), with a mark whether it
issued as a repetition (R155). -/
structure Origin where
  pc : Word32
  bundle : Word
  aWord : Bool
  rep : Bool
  deriving DecidableEq, Repr

/-- A tracked result on its way to its register (R79, R121). -/
structure Wb where
  who : SlotRef
  dst : RegDst
  val : Nat
  dc : Option Nat
  deriving DecidableEq, Repr

/-- Where a vector received into a write stream goes: the register, the granule's offset, NOUNDO and the tag it must have
(R153, R154). -/
structure Push where
  reg : Nat
  off : Nat
  noundo : Bool
  tag : Option (BitVec 4)
  deriving DecidableEq, Repr

/-- Where a push writes: its scratchpad offset, the NOUNDO of its segment, and the tag its granule must have (R153). -/
structure PushAt where
  off : Nat
  noundo : Bool
  tag : Option (BitVec 4)
  deriving DecidableEq, Repr

/-- The segment register a lace was loaded through (R204). -/
structure SegAt where
  base : Word
  attr : Word
  deriving DecidableEq, Repr

/-- What one granule of a local access does at its bank (R120, R121). -/
inductive LocalOp where
  | read (size : Nat) (signed : Bool) (dst : RegDst) (dc : Option Nat)
  | readV (reg : Nat) (last : Option (Nat × Nat)) (dc : Option Nat)
  | write (cells : List (Nat × Byte)) (last : Bool) (dc : Option Nat)
  | segld (k : Nat) (dc : Option Nat)
  | segst (base attr : Word) (dc : Option Nat)
  | tagset (tag : BitVec 4)
  | tagget (addr : Word) (dst : RegDst)
  | hsift (addr : Word) (limit : Nat) (cand : Word) (tagx : Bool)
  | streamRead (reg idx : Nat)
  | streamWrite (reg : Nat) (val : VReg) (mask : Word) (tag : Option (BitVec 4))
  | loadPath (op : Nat) (len : Nat) (last : Bool)
  | arm (mon : Nat)
  | barinit (addr count : Word)
  | bararr (addr : Word)
  | scale (op : Nat) (second last : Bool) (len : Nat) (tag : BitVec 4)
  | lace (ey : Nat)
  | ringRead (ey : Nat) (dst : RegDst) (wide : Bool) (push : Option Push)
  deriving DecidableEq, Repr

/-- One granule access of the local access queue (R120): the thread, the causing bundle, the scratchpad offset. -/
structure LocalAcc where
  who : SlotRef
  org : Origin
  off : Nat
  noundo : Bool
  op : LocalOp
  deriving DecidableEq, Repr

/-- What a request asks of its home (R262–R267, R270, R324, R366); the last four are a light thread's `segld`, `tagget`,
`tagset` and `hsift` at the port that is its home (R290). -/
inductive ReqKind where
  | read | write | atomic | reduce | flush | launchRec | copyRead | copyWrite | amsg | codeRead
  | segRead | tagRead | tagWrite | heap
  deriving DecidableEq, Repr

/-- A request sent through the network interface (R258), with the node of its home, which the issuing core's table gave
as it was sent (R16). -/
structure Req where
  node : Nat
  who : SlotRef
  org : Origin
  kind : ReqKind
  addr : Word
  size : Nat
  data : List Byte
  cmp : Word
  op : Nat
  ty : Nat
  signed : Bool
  dst : RegDst
  dc : Option Nat
  bar : Option Nat
  tagx : Bool
  noundo : Bool
  pdid : Nat
  rin : Nat
  cls : Nat
  seq : Nat
  copyId : Nat
  gran : Nat
  deriving DecidableEq, Repr

/-- The answer to a request (R257, R258). -/
inductive Reply where
  | ok (data : List Byte)
  | failed (cause sub : Nat) (detail : Word)
  deriving DecidableEq, Repr

/-- A channel endpoint's location: device index, core, eyelet; or a port endpoint (R205, R206). -/
structure EyLoc where
  dev : Nat
  core : Nat
  ey : Nat
  port : Bool
  deriving DecidableEq, Repr

/-- What a channel message carries (R210, R211, R219). -/
inductive ChKind where
  | data | label | record
  deriving DecidableEq, Repr

/-- A channel message: type or label, carried TOPX, payload bytes (R61, R200), and the thread that sent it (R18). -/
structure ChMsg where
  kind : ChKind
  type : Nat
  topx : Bool
  payload : List Byte
  tid : Nat
  deriving DecidableEq, Repr

/-- A connection request (R205): who asks whom, digests, canonical form, PDID, TOPX, ring slots and grant. -/
structure ConnReq where
  src : EyLoc
  dst : EyLoc
  holder : SlotRef
  org : Origin
  connid : Nat
  own : Word
  dual : Word
  form : List Byte
  pdid : Nat
  topx : Bool
  ring : Nat
  grant : Option Nat
  heldAt : Nat
  deriving DecidableEq, Repr

/-- The outcome of `econn` (R205). -/
inductive ConnOut where
  | accepted (ring connid pdid : Nat)
  | notDual
  | grantMissing
  | refused
  deriving DecidableEq, Repr

/-- A close notice (R215): sender, the receiver's CONNID and the sender's, reason, the sender's STATE unless PSU, a port's
cause and subcode (R224), and the thread that closes (R18). -/
structure CloseN where
  src : EyLoc
  connid : Nat
  mine : Nat
  reason : Nat
  state : Nat
  psu : Bool
  detail : Word
  tid : Nat
  deriving DecidableEq, Repr

/-- A remote matrix command (R189, R190). -/
structure RCmd where
  who : SlotRef
  org : Origin
  dst : RegDst
  target : Nat
  addr : Word
  word : Word32
  idx : Nat
  key : Word32
  pdid : Nat
  topx : Bool
  deriving DecidableEq, Repr

/-- The result of a remote matrix command: the flags, or the refusing subcode (R190). -/
inductive RRes where
  | done (flags : BitVec 5)
  | refused (sub : Nat)
  deriving DecidableEq, Repr

/-- An active message (R267). -/
structure AMsg where
  who : SlotRef
  org : Origin
  dst : RegDst
  home : Nat
  pc : Word32
  arg : Word
  addr : Word
  ident : Word
  pdid : Nat
  task : Nat
  status : Word
  seq : Nat
  cls : Nat
  tagx : Bool
  deriving DecidableEq, Repr

/-- A context packet with its transport fields (R286), and the parent of a `tspawn` child; `via` is the global address whose
home it goes to, and `ships` says that a core without its segment places it all the same (R297, R299). -/
structure Packet where
  pc : Word32
  live : BitVec 16
  pred : BitVec 8
  pdid : Nat
  seq : BitVec 32
  budget : BitVec 8
  task : Nat
  fflags : BitVec 5
  topx : Bool
  rm : BitVec 3
  mode : Bool
  kind : Nat
  regs : List Word
  tid : Nat
  src : SlotRef
  org : Origin
  spawnCls : Nat
  rin : Nat
  travels : Nat
  parent : Option (Nat × Nat)
  resv : Bool
  addr : Word
  via : Word
  ships : Bool
  deriving DecidableEq, Repr

/-- What the destination of a packet reports (R292). -/
inductive ArrRep where
  | admitted
  | refused (cause sub : Nat)
  | recorded
  | listFull
  deriving DecidableEq, Repr

/-- A combiner's message to a barrier home (R241); the home checks the tag where `check` says so (R128). -/
structure CombMsg where
  core : Nat
  home : Nat
  entry : Nat
  addr : Word
  count : Nat
  check : Bool
  deriving DecidableEq, Repr

/-- What the barrier home answers a combiner (R241, R242). -/
inductive CombRep where
  | found (epoch gen : Nat)
  | tagMismatch (detail : Word)
  deriving DecidableEq, Repr

/-- A launch record, decoded from its 64 bytes (R306). -/
structure LaunchRec where
  mode : Nat
  steal : Nat
  prio : Nat
  psize : Nat
  group : Nat
  code : Word
  params : Word
  first : Nat
  last : Nat
  pwoff : Nat
  twinp : Nat
  twinv : Nat
  nsucc : Nat
  depidx : Nat
  npred : Nat
  iorg : Nat
  succ : List Nat
  zeroOk : Bool
  deriving DecidableEq, Repr

/-- The host's answer to a page-request group (R256). -/
inductive PrgResp where
  | success | invalid | failure
  deriving DecidableEq, Repr

/-- A unit that takes part in a cut (R334). -/
inductive CutUnit where
  | core (k : Nat) | port (p : Nat) | launch | device (d : Nat)
  deriving DecidableEq, Repr

/-- A forked record (R322). -/
structure ForkRec where
  tid : Nat
  task : Nat
  pdid : Nat
  pc : Word32
  regs : List Word
  pred : BitVec 8
  status : Word
  parent : Nat × Nat
  originCore : Nat
  deriving DecidableEq, Repr

/-- The unit a step of the device concerns, for the constructors of `Instr` that carry no field: a core, a slot, and
up to two numbers, a word, a flag and a forked record whose meaning the step's own definition says. -/
structure Subj where
  core : Nat := 0
  slot : Nat := 0
  n : Nat := 0
  m : Nat := 0
  w : Word := 0
  b : Bool := false
  fork : Option ForkRec := none
  deriving DecidableEq, Repr

/-- One row of the opcode table per constructor: C-words, A-words, then the device's other steps. -/
inductive Instr where
  -- control (R111–R117)
  | nopC (h : CHead)
  | br (h : CHead) (d : Disp)
  | call (h : CHead) (d : Disp)
  | ret (h : CHead)
  | jr (h : CHead) (a : BitVec 5)
  | loop (h : CHead) (cnt : BitVec 4) (d : BitVec 14)
  | yield (h : CHead)
  | halt (h : CHead)
  -- scratchpad, segments, tags (R129–R143)
  | ld (h : CHead) (m : CM)
  | st (h : CHead) (m : CM)
  | ldv (h : CHead) (m : CV)
  | stv (h : CHead) (m : CV)
  | ldp (h : CHead) (m : CP)
  | segld (h : CHead) (m : CSeg)
  | segst (h : CHead) (m : CSeg)
  | tagset (h : CHead) (a : BitVec 5) (m : MemR)
  | tagget (h : CHead) (a : BitVec 5) (m : MemR)
  | tlook (h : CHead) (a b : BitVec 5)
  | tfill (h : CHead) (a b c : BitVec 5)
  | hsift (h : CHead) (m : MemR) (c : BitVec 5)
  | waitd (h : CHead) (n : BitVec 2)
  -- tile movement (R182–R191)
  | tcfg (h : CHead) (t : BitVec 3) (b : BitVec 5)
  | tld (h : CHead) (t : BitVec 3) (m : MemR)
  | tst (h : CHead) (t : BitVec 3) (m : MemR)
  | tsave (h : CHead) (t : BitVec 3) (m : MemR)
  | trest (h : CHead) (t : BitVec 3) (m : MemR)
  | tcmd (h : CHead) (a b c : BitVec 5)
  -- channels (R204–R227)
  | elace (h : CHead) (e : BitVec 4) (m : MemR)
  | econn (h : CHead) (e : BitVec 4) (b : BitVec 5)
  | elisten (h : CHead) (e : BitVec 4)
  | eaccept (h : CHead) (e : BitVec 4) (b : BitVec 5)
  | egrant (h : CHead) (a b : BitVec 5)
  | eclose (h : CHead) (e : BitVec 4)
  | estat (h : CHead) (a : BitVec 5) (e : BitVec 4)
  | eslot (h : CHead) (a b : BitVec 5)
  | esend (h : CHead) (m : CE)
  | erecv (h : CHead) (m : CE)
  | esel (h : CHead) (e : BitVec 4) (n : BitVec 2)
  | eoffer (h : CHead) (e : BitVec 4) (b : BitVec 5)
  | ealt (h : CHead) (a b : BitVec 5)
  | edeleg (h : CHead) (e : BitVec 4) (b : BitVec 5)
  | ecatch (h : CHead) (e : BitVec 4) (b : BitVec 5)
  | route (h : CHead) (a b : BitVec 5)
  -- slots, queues, waits (R233–R242)
  | qcfg (h : CHead) (q : BitVec 4) (b : BitVec 5)
  | spawn (h : CHead) (a b c : BitVec 5)
  | wake (h : CHead) (a : BitVec 5)
  | marm (h : CHead) (n : BitVec 2) (m : MemR)
  | mwait (h : CHead) (a b : BitVec 5)
  | mdisarm (h : CHead) (n : BitVec 2)
  | barinit (h : CHead) (m : MemR) (c : BitVec 5)
  | bararr (h : CHead) (m : MemR)
  | barwait (h : CHead) (a : BitVec 5) (m : MemR) (pd : BitVec 3)
  -- global memory (R262–R272)
  | gld (h : CHead) (m : CM)
  | gst (h : CHead) (m : CMS)
  | gstc (h : CHead) (m : CG)
  | gatom (h : CHead) (m : CA)
  | gred (h : CHead) (m : CARed)
  | amsg (h : CHead) (a : BitVec 5) (sg : BitVec 3) (lit : BitVec 32)
  | frd (h : CHead) (a : BitVec 5) (m : MemR)
  | copy (h : CHead) (y : CY) (len : CopyLen)
  | copyg (h : CHead) (y : CY) (lst cnt : BitVec 4) (rowb : BitVec 16)
  | cpref (h : CHead) (m : MemR) (c : BitVec 5)
  | fence (h : CHead) (scope : BitVec 2)
  -- travel (R298–R301)
  | travel (h : CHead) (m : MemR)
  | tspawn (h : CHead) (m : MemR) (c : BitVec 5)
  | tseg (h : CHead) (a : BitVec 5)
  -- tasks (R322–R327)
  | fork (h : CHead) (a b : BitVec 5)
  | join (h : CHead) (a : BitVec 5)
  | launch (h : CHead) (m : MemR)
  | grow (h : CHead) (a : BitVec 5)
  | commit (h : CHead)
  | done (h : CHead)
  -- recovery (R346)
  | sealCut (h : CHead)
  | sealw (h : CHead)
  | rin (h : CHead) (a : BitVec 5)
  | xsync (h : CHead)
  -- system (R361–R366)
  | crd (h : CHead) (a : BitVec 5) (r : BitVec 12)
  | cwr (h : CHead) (a : BitVec 5) (r : BitVec 12)
  | trap (h : CHead) (imm : BitVec 12)
  | syscall (h : CHead) (imm : BitVec 12)
  | brk (h : CHead) (imm : BitVec 12)
  | iload (h : CHead) (m : MemR) (c : BitVec 5)
  | eret (h : CHead)
  -- scalar (R82–R86)
  | nopA (h : AHead)
  | add (h : AHead) (o : AR)
  | sub (h : AHead) (o : AR)
  | mul (h : AHead) (o : AR)
  | mulh (h : AHead) (o : AR)
  | mulhn (h : AHead) (o : AR)
  | div (h : AHead) (o : AR)
  | divn (h : AHead) (o : AR)
  | rem (h : AHead) (o : AR)
  | remn (h : AHead) (o : AR)
  | and (h : AHead) (o : AR)
  | or (h : AHead) (o : AR)
  | xor (h : AHead) (o : AR)
  | andn (h : AHead) (o : AR)
  | shl (h : AHead) (o : AR)
  | shr (h : AHead) (o : AR)
  | sra (h : AHead) (o : AR)
  | rot (h : AHead) (o : AR)
  | clz (h : AHead) (o : AU)
  | ctz (h : AHead) (o : AU)
  | popc (h : AHead) (o : AU)
  | min (h : AHead) (o : AR)
  | max (h : AHead) (o : AR)
  | minn (h : AHead) (o : AR)
  | maxn (h : AHead) (o : AR)
  | mov (h : AHead) (o : AU)
  | sext8 (h : AHead) (o : AU)
  | sext16 (h : AHead) (o : AU)
  | sext32 (h : AHead) (o : AU)
  | zext8 (h : AHead) (o : AU)
  | zext16 (h : AHead) (o : AU)
  | zext32 (h : AHead) (o : AU)
  | lea (h : AHead) (o : AR) (k : BitVec 2)
  | sel (h : AHead) (o : AR) (k : BitVec 3)
  | addi (h : AHead) (d a : BitVec 5) (imm : BitVec 12)
  | movImm (h : AHead) (d : BitVec 5) (imm : BitVec 17)
  | movK (h : AHead) (d : BitVec 4) (k : BitVec 2) (imm : BitVec 16)
  | bfx (h : AHead) (o : AF)
  | bfi (h : AHead) (o : AF)
  | cmp (h : AHead) (pt pf : BitVec 3) (a b : BitVec 5) (cc : BitVec 4)
  | cmpi (h : AHead) (pt pf : BitVec 3) (a : BitVec 5) (cc : BitVec 4) (imm : BitVec 7)
  | pand (h : AHead) (o : AP)
  | por (h : AHead) (o : AP)
  | pxor (h : AHead) (o : AP)
  | pmov (h : AHead) (pd pa : BitVec 3) (na : Bool)
  | fadd (h : AHead) (o : AFP)
  | fsub (h : AHead) (o : AFP)
  | fmul (h : AHead) (o : AFP)
  | fma (h : AHead) (o : AFP)
  | fmin (h : AHead) (o : AFS)
  | fmax (h : AHead) (o : AFS)
  | fsgn (h : AHead) (o : AFS)
  | fsgnN (h : AHead) (o : AFS)
  | fcmp (h : AHead) (pt pf : BitVec 3) (a b : BitVec 5) (fc : BitVec 3) (ft : BitVec 2)
  | cvt (h : AHead) (o : ACV)
  -- vector (R156–R166)
  | vaddF (h : AHead) (o : VR)
  | vaddI (h : AHead) (o : VR)
  | vsubF (h : AHead) (o : VR)
  | vsubI (h : AHead) (o : VR)
  | vmulF (h : AHead) (o : VR)
  | vmulI (h : AHead) (o : VR)
  | vfma (h : AHead) (o : VR)
  | vfms (h : AHead) (o : VR)
  | vminF (h : AHead) (o : VR)
  | vminS (h : AHead) (o : VR)
  | vminN (h : AHead) (o : VR)
  | vmaxF (h : AHead) (o : VR)
  | vmaxS (h : AHead) (o : VR)
  | vmaxN (h : AHead) (o : VR)
  | vabsF (h : AHead) (o : VU)
  | vnegF (h : AHead) (o : VU)
  | vabsI (h : AHead) (o : VU)
  | vnegI (h : AHead) (o : VU)
  | vrcp (h : AHead) (o : VU)
  | vrsq (h : AHead) (o : VU)
  | vexp2 (h : AHead) (o : VU)
  | vlog2 (h : AHead) (o : VU)
  | vmov (h : AHead) (o : VU)
  | vand (h : AHead) (o : VR)
  | vor (h : AHead) (o : VR)
  | vxor (h : AHead) (o : VR)
  | vshl (h : AHead) (o : VR)
  | vshr (h : AHead) (o : VR)
  | vsra (h : AHead) (o : VR)
  | vcmpF (h : AHead) (o : VC)
  | vcmpI (h : AHead) (o : VC)
  | vsel (h : AHead) (o : VR)
  | vperm (h : AHead) (o : VP)
  | vbcast (h : AHead) (v s : BitVec 5) (w : BitVec 2)
  | vext (h : AHead) (s v : BitVec 5) (lane : BitVec 6) (w : BitVec 2)
  | vins (h : AHead) (o : VX)
  | vcompress (h : AHead) (o : VCE)
  | vexpand (h : AHead) (o : VCE)
  | vred (h : AHead) (o : VRD)
  | vcvt (h : AHead) (o : ACV)
  | vpackbx (h : AHead) (o : VBX)
  | vunpbx (h : AHead) (o : VBX)
  | mand (h : AHead) (md ma mb : BitVec 3)
  | mor (h : AHead) (md ma mb : BitVec 3)
  | mnot (h : AHead) (md ma : BitVec 3)
  | mpop (h : AHead) (sd : BitVec 5) (ma : BitVec 3)
  | sbind (h : AHead) (v s : BitVec 5)
  | srep (h : AHead) (s : BitVec 5)
  -- tile arithmetic (R180–R188)
  | tzero (h : AHead) (td : BitVec 3)
  | tmma (h : AHead) (o : TMM)
  | tmmas (h : AHead) (o : TMM) (tm : BitVec 3) (n : BitVec 4)
  | ttrans (h : AHead) (td ta : BitVec 3)
  | tadd (h : AHead) (td ta tb : BitVec 3)
  | tcvt (h : AHead) (td ta : BitVec 3) (fmt : BitVec 4) (rm : BitVec 3)
  | tsel (h : AHead) (td ta : BitVec 3) (k : BitVec 6)
  -- the device's other steps that carry a message, request or result
  | divideComplete (w : Wb)
  | localAccessPerformed (core : Nat) (a : LocalAcc)
  | localLoadWriteback (w : Wb)
  | trackedRegisterWrite (w : Wb)
  | segldComplete (who : SlotRef) (org : Origin) (k : Nat) (base attr : Word) (dc : Option Nat)
  | elaceComplete (who : SlotRef) (org : Origin) (ey : Nat) (addr : Word) (seg : SegAt)
  | streamReadAvailable (who : SlotRef) (reg idx : Nat)
  | streamPushQueued (who : SlotRef) (org : Origin) (reg : Nat) (off : PushAt) (val : VReg) (mask : Word)
  | remoteCommandArrival (c : RCmd)
  | remoteCommandReply (c : RCmd) (r : RRes)
  | connectRequestArrival (r : ConnReq)
  | connectOutcome (r : ConnReq) (o : ConnOut)
  | portEndpointConnect (r : ConnReq)
  | channelMessageArrival (src dst : EyLoc) (connid : Nat) (m : ChMsg)
  | allowanceReturn (src dst : EyLoc) (connid : Nat)
  | closeNoticeArrival (dst : EyLoc) (n : CloseN)
  | closeAcknowledge (src dst : EyLoc) (connid : Nat)
  | moveNotice (src dst : EyLoc) (connid : Nat)
  | markArrival (src dst : EyLoc) (connid : Nat)
  | rehome (old new dst : EyLoc) (connid : Nat)
  | globalRead (r : Req)
  | globalWrite (r : Req)
  | atomicAtHome (r : Req)
  | flushReadAtHome (r : Req)
  | acknowledgementArrival (r : Req) (rep : Reply)
  | countedAckArrival (r : Req)
  | amsgArrival (m : AMsg)
  | amsgReply (m : AMsg) (val : Word)
  | filterRefusalRetry (r : Req)
  | faultNotice (who : SlotRef) (port : Nat)
  | packetArrival (dst : Nat) (p : Packet)
  | arrivalReport (p : Packet) (dst : Nat) (rep : ArrRep)
  | reservationGrant (p : Packet) (dst : Nat)
  | reservationRetry (p : Packet) (dst : Nat)
  | packetResendTimeout (p : Packet) (dst : Nat)
  | lateReplyForward (core : Nat) (r : Req) (rep : Reply)
  | combinedArrival (m : CombMsg)
  | combinerReply (m : CombMsg) (r : CombRep)
  | trapReportAfterIssue (who : SlotRef) (org : Origin) (t : TrapInfo)
  | commitRequest (who : SlotRef) (task : Nat)
  | growRequest (who : SlotRef) (org : Origin) (task : Nat) (n : Word) (dst : RegDst)
  | launchSubmit (who : SlotRef) (org : Origin) (task pdid : Nat) (r : LaunchRec)
  | durableReport (unit : CutUnit) (n : Nat)
  | stealRequest
  | prgResponse (group : Nat) (resp : PrgResp)
  | hostWrite (pdid : Nat) (addr : Word) (data : List Byte)
  | hostRead (pdid : Nat) (addr : Word) (len : Nat)
  | attestationRequest (fn : Nat) (nonce : List Byte)
  -- the device's other steps that name a unit: the unit is State.subj (Subj)
  | fixedLatencyWrite
  | hsiftComplete
  | vectorUnitFree
  | matrixStep
  | matrixOpFinish
  | scaleReadComplete
  | tselFinish
  | loadPathFinish
  | heldRequestTimeout
  | portStreamSend
  | portStreamWrite
  | portStreamStop
  | portEndpointClosed
  | channelWatchdog
  | amsgHandlerStart
  | requestResendTimeout
  | replyConfirm
  | pageWalkComplete
  | wakeNotice
  | pageRequestGroup
  | faultRecordReoffer
  | copyGranule
  | departure
  | reservationWatchdog
  | threadPlacement
  | forwardingExpiry
  | thermalDisplacement
  | thermslotUpdate
  | powerSample
  | queueTimerTick
  | mwaitDeadline
  | combinerReread
  | snagScan
  | slotWatchdog
  | heldTrapRecordRelease
  | undoOverflow
  | workQueueTake
  | hostRingPoll
  | dependenceDecrement
  | taskPlacement
  | dispatchRequest
  | stealRetry
  | childEnd
  | taskFinish
  | taskDiscard
  | cutRequest
  | sealTimer
  | cutMessage
  | coreCut
  | sealRecordAck
  | sealMarker
  | sealedMessage
  | uncorrectableError
  | rollback
  | linkFailure
  | portTraining
  | save
  | restore
  | resume
  | endThread
  | segsync
  | tlbsync
  | remove
  | domsync
  | prienable
  | wqcfgWrite
  | cassignWrite
  | sealctlWrite
  | undocfgWrite
  | registerWrite
  | deviceReset
  | healthUpdate
  | illegalEncodingIssue
  | codeMissFetch
  | placementTableWrite
  | portCoreCodePlacement
  | tilePayloadComplete
  | hbmRefresh
  deriving DecidableEq, Repr

/-- A step of the device to come: which, and the unit it concerns. -/
structure Ev where
  ins : Instr
  subj : Subj := {}
  deriving DecidableEq, Repr

end Sys2Proof
end

