-- ==== Sys2Proof/WellFormed.lean ====
section
/-! DEFINITION. Which instructions are well formed: the field values the decoding rules of R43 accept beyond what the
fields' types already say (reserved TY, RM, FT, CC, FC, PK, OP codes, group and pair alignment, lane ranges). -/

namespace Sys2Proof

/-- The control register numbers of R364. -/
def cregAssigned (n : Nat) : Bool :=
  n ≤ 0x06 || 0x10 ≤ n && n ≤ 0x12 || 0x20 ≤ n && n ≤ 0x23 || 0x28 ≤ n && n ≤ 0x2F || n == 0x30 || n == 0x31 ||
  0x40 ≤ n && n ≤ 0x44 || 0x50 ≤ n && n ≤ 0x52 || 0x60 ≤ n && n ≤ 0x62 || 0x70 ≤ n && n ≤ 0x84

/-- RM codes 5 and 6 are reserved (R38). -/
def rmOk (rm : BitVec 3) : Bool := rm != 5 && rm != 6
/-- FT code 3 is reserved (R38). -/
def ftOk (ft : BitVec 2) : Bool := ft != 3
/-- TY code 7 is reserved (R32). -/
def tyOk (ty : BitVec 3) : Bool := ty != 7
/-- IX = 0 requires IDX = 0 (R31). -/
def ixOk (ix : Bool) (idx : BitVec 4) : Bool := ix || idx == 0
/-- POS + LEN ≤ 64, where LEN 0 means 64 (R37, R86). -/
def afOk (o : AF) : Bool := o.pos.toNat + (if o.len == 0 then 64 else o.len.toNat) ≤ 64
/-- Formats 13–15 are no scalar values (R73). -/
def cvtPairOk (o : ACV) : Bool := o.frm.toNat < 13 && o.dst.toNat < 13

/-- A `tcvt` to a format code that stands in no pair of R187 decodes to no instruction (R43). -/
def tcvtToOk (dst : BitVec 4) : Bool := dst != 8 && dst != 12

/-- Registers of one group unit: a pair for integer width 64 (R146, R148). -/
def unitRegs (w : BitVec 2) : Nat := if w == 3 then 2 else 1
/-- A group begins at a multiple of its register count (R39, R148). -/
def groupOk (v : BitVec 5) (n : Nat) : Bool := v.toNat % n == 0
/-- A pair begins at an even register (R39). -/
def pairOk (v : BitVec 5) (w : BitVec 2) : Bool := groupOk v (unitRegs w)
/-- LANE is below the lane count 64, 32, 16 or 8 (R39). -/
def laneOk (l : BitVec 6) (w : BitVec 2) : Bool := l.toNat < 64 / 2 ^ w.toNat
/-- Float forms of VR (R148, R157). -/
def vrFloatOk (o : VR) : Bool :=
  ftOk o.w && groupOk o.vd (2 ^ o.g.toNat) && groupOk o.va (2 ^ o.g.toNat) && groupOk o.vb (2 ^ o.g.toNat)
/-- Integer forms of VR (R148). -/
def vrIntOk (o : VR) : Bool :=
  let n := unitRegs o.w * 2 ^ o.g.toNat
  groupOk o.vd n && groupOk o.va n && groupOk o.vb n
/-- Float forms of VU. -/
def vuFloatOk (o : VU) : Bool := ftOk o.w && groupOk o.vd (2 ^ o.g.toNat) && groupOk o.va (2 ^ o.g.toNat)
/-- Integer forms of VU. -/
def vuIntOk (o : VU) : Bool :=
  let n := unitRegs o.w * 2 ^ o.g.toNat
  groupOk o.vd n && groupOk o.va n
/-- Float `vcmp` accepts CC 0–5 and 10 (R38, R159). -/
def vcFloatOk (o : VC) : Bool := ftOk o.w && (o.cc.toNat ≤ 5 || o.cc.toNat == 10)
/-- Integer `vcmp` accepts CC 0–9 (R38, R159). -/
def vcIntOk (o : VC) : Bool := o.cc.toNat ≤ 9 && pairOk o.va o.w && pairOk o.vb o.w
/-- `vperm` (R162). -/
def vpOk (o : VP) : Bool := pairOk o.vd o.w && pairOk o.va o.w && pairOk o.vb o.w
/-- `vcompress`, `vexpand` (R163). -/
def vceOk (o : VCE) : Bool := pairOk o.vd o.w && pairOk o.va o.w
/-- `vred`: OP 0–2 read W as FT, OP 3–10 as an integer width (R165). -/
def vrdOk (o : VRD) : Bool :=
  o.op.toNat ≤ 10 &&
  (if o.op.toNat ≤ 2 then ftOk o.w && groupOk o.va (2 ^ o.g.toNat)
   else pairOk o.vd o.w && groupOk o.va (unitRegs o.w * 2 ^ o.g.toNat))
/-- Width in bits of a format code 0–12 (R38). -/
def fmtBits (f : BitVec 4) : Nat :=
  match f.toNat with
  | 0 | 7 | 11 => 32
  | 1 | 2 | 6 | 10 => 16
  | 3 | 4 | 5 | 9 => 8
  | 8 | 12 => 64
  | _ => 0
/-- Elements that `vcvt` converts (R74). -/
def vcvtCount (o : ACV) : Nat :=
  let m := Nat.min (fmtBits o.frm) (fmtBits o.dst)
  if m < 64 then 512 / m else 16
/-- Registers of one side of `vcvt` (R74). -/
def vcvtRegs (o : ACV) (f : BitVec 4) : Nat := vcvtCount o * fmtBits f / 512
/-- Both groups of `vcvt` are aligned to their size (R74). -/
def vcvtGroupsOk (o : ACV) : Bool := groupOk o.a (vcvtRegs o o.frm) && groupOk o.d (vcvtRegs o o.dst)
/-- Registers of the unpacked side of a block pack (R75). -/
def bxRegs (ft : BitVec 2) : Nat := if ft == 0 then 4 else 2
/-- `vpackbx` (R75, R77). -/
def vpackOk (o : VBX) : Bool := o.bx != 3 && ftOk o.ft && rmOk o.rm && groupOk o.va (bxRegs o.ft)
/-- `vunpbx` (R76, R77). -/
def vunpOk (o : VBX) : Bool := o.bx != 3 && ftOk o.ft && rmOk o.rm && groupOk o.vd (bxRegs o.ft)
/-- `tmmas` takes N from 1 to 8 (R42, R185). -/
def tmmasNOk (n : BitVec 4) : Bool := 1 ≤ n.toNat && n.toNat ≤ 8
/-- Format CE (R32, R210). -/
def ceOk (m : CE) : Bool := (m.st || m.ps == 0) && m.pk != 3 && (m.pk != 2 || m.reg.toNat < 8)

/-- Well-formedness of an instruction (R43). The device's other steps carry no encoded field. -/
def Instr.wf : Instr → Bool
  | .ld _ m => ixOk m.ix m.idx && tyOk m.ty
  | .st _ m => ixOk m.ix m.idx && tyOk m.ty
  | .ldv _ m => ixOk m.ix m.idx && groupOk m.vr (2 ^ m.g.toNat)
  | .stv _ m => ixOk m.ix m.idx && groupOk m.vr (2 ^ m.g.toNat)
  | .ldp _ m => tyOk m.ty
  | .segld _ m => ixOk m.ix m.idx
  | .segst _ m => ixOk m.ix m.idx
  | .esend _ m => ceOk m
  | .erecv _ m => ceOk m
  | .gld _ m => ixOk m.ix m.idx && tyOk m.ty
  | .gst _ m => ixOk m.ix m.idx && tyOk m.ty
  | .gatom _ m => ixOk m.ix m.idx && m.op.toNat < 8 && !(m.op == 7 && 16 ≤ m.a.toNat)
  | .gred _ m => ixOk m.ix m.idx && m.op.toNat < 6
  | .copy _ _ len => (match len with | .imm n => n.toNat ≤ 16777216 | .reg _ => true)
  | .copyg _ _ _ _ rowb => rowb != 0
  | .crd _ _ r => cregAssigned r.toNat
  | .cwr _ _ r => cregAssigned r.toNat
  | .bfx _ o => afOk o
  | .bfi _ o => afOk o && o.d.toNat < 16
  | .cmp _ _ _ _ _ cc => cc.toNat < 10
  | .cmpi _ _ _ _ cc _ => cc.toNat < 10
  | .fadd _ o => rmOk o.rm && ftOk o.ft
  | .fsub _ o => rmOk o.rm && ftOk o.ft
  | .fmul _ o => rmOk o.rm && ftOk o.ft
  | .fma _ o => rmOk o.rm && ftOk o.ft && o.d.toNat < 16
  | .fmin _ o => ftOk o.ft
  | .fmax _ o => ftOk o.ft
  | .fsgn _ o => ftOk o.ft
  | .fsgnN _ o => ftOk o.ft
  | .fcmp _ _ _ _ _ fc ft => fc.toNat < 4 && ftOk ft
  | .cvt _ o => rmOk o.rm && cvtPairOk o
  | .vaddF _ o => vrFloatOk o
  | .vaddI _ o => vrIntOk o
  | .vsubF _ o => vrFloatOk o
  | .vsubI _ o => vrIntOk o
  | .vmulF _ o => vrFloatOk o
  | .vmulI _ o => vrIntOk o
  | .vfma _ o => vrFloatOk o
  | .vfms _ o => vrFloatOk o
  | .vminF _ o => vrFloatOk o
  | .vminS _ o => vrIntOk o
  | .vminN _ o => vrIntOk o
  | .vmaxF _ o => vrFloatOk o
  | .vmaxS _ o => vrIntOk o
  | .vmaxN _ o => vrIntOk o
  | .vabsF _ o => vuFloatOk o
  | .vnegF _ o => vuFloatOk o
  | .vabsI _ o => vuIntOk o
  | .vnegI _ o => vuIntOk o
  | .vrcp _ o => vuFloatOk o
  | .vrsq _ o => vuFloatOk o
  | .vexp2 _ o => vuFloatOk o
  | .vlog2 _ o => vuFloatOk o
  | .vmov _ o => vuIntOk o
  | .vand _ o => vrIntOk o
  | .vor _ o => vrIntOk o
  | .vxor _ o => vrIntOk o
  | .vshl _ o => vrIntOk o
  | .vshr _ o => vrIntOk o
  | .vsra _ o => vrIntOk o
  | .vcmpF _ o => vcFloatOk o
  | .vcmpI _ o => vcIntOk o
  | .vsel _ o => vrIntOk o
  | .vperm _ o => vpOk o
  | .vbcast _ v _ w => pairOk v w
  | .vext _ _ v lane w => pairOk v w && laneOk lane w
  | .vins _ o => pairOk o.v o.w && laneOk o.lane o.w
  | .vcompress _ o => vceOk o
  | .vexpand _ o => vceOk o
  | .vred _ o => vrdOk o
  | .vcvt _ o => rmOk o.rm && cvtPairOk o && vcvtGroupsOk o
  | .vpackbx _ o => vpackOk o
  | .vunpbx _ o => vunpOk o
  | .sbind _ v _ => 28 ≤ v.toNat
  | .tmmas _ _ _ n => tmmasNOk n
  | .tcvt _ _ _ dst rm => rmOk rm && tcvtToOk dst
  | .nopC _
  | .br _ _
  | .call _ _
  | .ret _
  | .jr _ _
  | .loop _ _ _
  | .yield _
  | .halt _
  | .tagset _ _ _
  | .tagget _ _ _
  | .tlook _ _ _
  | .tfill _ _ _ _
  | .hsift _ _ _
  | .waitd _ _
  | .tcfg _ _ _
  | .tld _ _ _
  | .tst _ _ _
  | .tsave _ _ _
  | .trest _ _ _
  | .tcmd _ _ _ _
  | .elace _ _ _
  | .econn _ _ _
  | .elisten _ _
  | .eaccept _ _ _
  | .egrant _ _ _
  | .eclose _ _
  | .estat _ _ _
  | .eslot _ _ _
  | .esel _ _ _
  | .eoffer _ _ _
  | .ealt _ _ _
  | .edeleg _ _ _
  | .ecatch _ _ _
  | .route _ _ _
  | .qcfg _ _ _
  | .spawn _ _ _ _
  | .wake _ _
  | .marm _ _ _
  | .mwait _ _ _
  | .mdisarm _ _
  | .barinit _ _ _
  | .bararr _ _
  | .barwait _ _ _ _
  | .gstc _ _
  | .amsg _ _ _ _
  | .frd _ _ _
  | .cpref _ _ _
  | .fence _ _
  | .travel _ _
  | .tspawn _ _ _
  | .tseg _ _
  | .fork _ _ _
  | .join _ _
  | .launch _ _
  | .grow _ _
  | .commit _
  | .done _
  | .sealCut _
  | .sealw _
  | .rin _ _
  | .xsync _
  | .trap _ _
  | .syscall _ _
  | .brk _ _
  | .iload _ _ _
  | .eret _
  | .nopA _
  | .add _ _
  | .sub _ _
  | .mul _ _
  | .mulh _ _
  | .mulhn _ _
  | .div _ _
  | .divn _ _
  | .rem _ _
  | .remn _ _
  | .and _ _
  | .or _ _
  | .xor _ _
  | .andn _ _
  | .shl _ _
  | .shr _ _
  | .sra _ _
  | .rot _ _
  | .clz _ _
  | .ctz _ _
  | .popc _ _
  | .min _ _
  | .max _ _
  | .minn _ _
  | .maxn _ _
  | .mov _ _
  | .sext8 _ _
  | .sext16 _ _
  | .sext32 _ _
  | .zext8 _ _
  | .zext16 _ _
  | .zext32 _ _
  | .lea _ _ _
  | .sel _ _ _
  | .addi _ _ _ _
  | .movImm _ _ _
  | .movK _ _ _ _
  | .pand _ _
  | .por _ _
  | .pxor _ _
  | .pmov _ _ _ _
  | .mand _ _ _ _
  | .mor _ _ _ _
  | .mnot _ _ _
  | .mpop _ _ _
  | .srep _ _
  | .tzero _ _
  | .tmma _ _
  | .ttrans _ _ _
  | .tadd _ _ _ _
  | .tsel _ _ _ _
  | .divideComplete _
  | .localAccessPerformed _ _
  | .localLoadWriteback _
  | .trackedRegisterWrite _
  | .segldComplete _ _ _ _ _ _
  | .elaceComplete _ _ _ _ _
  | .streamReadAvailable _ _ _
  | .streamPushQueued _ _ _ _ _ _
  | .remoteCommandArrival _
  | .remoteCommandReply _ _
  | .connectRequestArrival _
  | .connectOutcome _ _
  | .portEndpointConnect _
  | .channelMessageArrival _ _ _ _
  | .allowanceReturn _ _ _
  | .closeNoticeArrival _ _
  | .closeAcknowledge _ _ _
  | .moveNotice _ _ _
  | .markArrival _ _ _
  | .rehome _ _ _ _
  | .globalRead _
  | .globalWrite _
  | .atomicAtHome _
  | .flushReadAtHome _
  | .acknowledgementArrival _ _
  | .countedAckArrival _
  | .amsgArrival _
  | .amsgReply _ _
  | .filterRefusalRetry _
  | .faultNotice _ _
  | .packetArrival _ _
  | .arrivalReport _ _ _
  | .reservationGrant _ _
  | .reservationRetry _ _
  | .packetResendTimeout _ _
  | .lateReplyForward _ _ _
  | .combinedArrival _
  | .combinerReply _ _
  | .trapReportAfterIssue _ _ _
  | .commitRequest _ _
  | .growRequest _ _ _ _ _
  | .launchSubmit _ _ _ _ _
  | .durableReport _ _
  | .prgResponse _ _
  | .hostWrite _ _ _
  | .hostRead _ _ _
  | .attestationRequest _ _
  | .fixedLatencyWrite
  | .hsiftComplete
  | .vectorUnitFree
  | .matrixStep
  | .matrixOpFinish
  | .scaleReadComplete
  | .tselFinish
  | .loadPathFinish
  | .heldRequestTimeout
  | .portStreamSend
  | .portStreamWrite
  | .portStreamStop
  | .portEndpointClosed
  | .channelWatchdog
  | .amsgHandlerStart
  | .requestResendTimeout
  | .replyConfirm
  | .pageWalkComplete
  | .wakeNotice
  | .pageRequestGroup
  | .faultRecordReoffer
  | .copyGranule
  | .departure
  | .reservationWatchdog
  | .threadPlacement
  | .forwardingExpiry
  | .thermalDisplacement
  | .thermslotUpdate
  | .powerSample
  | .queueTimerTick
  | .mwaitDeadline
  | .combinerReread
  | .snagScan
  | .slotWatchdog
  | .heldTrapRecordRelease
  | .undoOverflow
  | .workQueueTake
  | .hostRingPoll
  | .dependenceDecrement
  | .taskPlacement
  | .dispatchRequest
  | .stealRequest
  | .stealRetry
  | .childEnd
  | .taskFinish
  | .taskDiscard
  | .cutRequest
  | .sealTimer
  | .cutMessage
  | .coreCut
  | .sealRecordAck
  | .sealMarker
  | .sealedMessage
  | .uncorrectableError
  | .rollback
  | .linkFailure
  | .portTraining
  | .save
  | .restore
  | .resume
  | .endThread
  | .segsync
  | .tlbsync
  | .remove
  | .domsync
  | .prienable
  | .wqcfgWrite
  | .cassignWrite
  | .sealctlWrite
  | .undocfgWrite
  | .registerWrite
  | .deviceReset
  | .healthUpdate
  | .illegalEncodingIssue
  | .codeMissFetch
  | .placementTableWrite
  | .portCoreCodePlacement
  | .tilePayloadComplete
  | .hbmRefresh => true

end Sys2Proof
end

