-- ==== Sys2Proof/Decode.lean ====
section
/-! DEFINITION. The decoder of both words of a bundle (R21–R44), total, answering the decoding trap of R43 where a
word is no instruction, and the encoder written from the same tables (R30–R42). -/

namespace Sys2Proof

/-- A decoding trap: cause and subcode (R43, R358). -/
structure DErr where
  cause : Nat
  sub : Nat
  deriving DecidableEq, Repr

/-- IllegalInstruction with a subcode (R43). -/
def DErr.ill (n : Nat) : DErr := ⟨1, n⟩
/-- ReservedField with a subcode (R43). -/
def DErr.rsv (n : Nat) : DErr := ⟨2, n⟩

/-- Bits [lo+n-1:lo] of a word (R1). -/
def fieldOf (w : BitVec 32) (lo n : Nat) : BitVec n := w.extractLsb' lo n

/-- Is bit `i` set? -/
def bitOf (w : BitVec 32) (i : Nat) : Bool := w.getLsbD i

/-- The first failing check of R43's order, or the instruction. -/
def checked (cs : List (Bool × DErr)) (i : Instr) : Except DErr Instr :=
  match cs.find? (·.1) with
  | some c => .error c.2
  | none => .ok i

/-- A field that must be zero (R43, ReservedField 1). -/
def mustZero {n : Nat} (b : BitVec n) : Bool × DErr := (b != 0, .rsv 1)
/-- A field value outside its range (R43, ReservedField 2). -/
def outRange (b : Bool) : Bool × DErr := (b, .rsv 2)
/-- The rule of a word that takes no literal (R43, IllegalInstruction 3). -/
def noLit (w : BitVec 32) : Bool × DErr := (bitOf w 31, .ill 3)
/-- The rule of a word that needs its literal (R43, IllegalInstruction 4). -/
def needLit (w : BitVec 32) : Bool × DErr := (!bitOf w 31, .ill 4)

/-- The head of a C-word (R22). -/
def cHead (w : BitVec 32) : CHead := ⟨fieldOf w 28 3, bitOf w 27, fieldOf w 24 3⟩
/-- The head of an A-word (R22). -/
def aHead (w : BitVec 32) : AHead := ⟨bitOf w 31, fieldOf w 28 3⟩
/-- The literal of a LONE bundle (R25). -/
def litOf (w l : BitVec 32) : Lit := if bitOf w 31 then some l else none
/-- The displacement of format CJ (R30). -/
def dispOf (w l : BitVec 32) : Disp := if bitOf w 31 then .long l else .short (fieldOf w 0 18)
/-- Format CM (R30). -/
def cmOf (w l : BitVec 32) : CM :=
  ⟨fieldOf w 13 5, fieldOf w 10 3, fieldOf w 7 3, bitOf w 6, fieldOf w 2 4, fieldOf w 0 2, litOf w l⟩
/-- Format CR's memory operand in fields B and C (R33). -/
def memBC (w l : BitVec 32) : MemR := ⟨fieldOf w 8 3, fieldOf w 3 5, litOf w l⟩
/-- Format CR's memory operand in fields A and B (R33). -/
def memAB (w l : BitVec 32) : MemR := ⟨fieldOf w 13 3, fieldOf w 8 5, litOf w l⟩
/-- IX = 0 requires IDX = 0 (R31). -/
def ixRule (w : BitVec 32) (ixBit lo : Nat) : Bool × DErr :=
  (!bitOf w ixBit && fieldOf w lo 4 != 0, .rsv 1)
/-- A 5-bit field of format CR. -/
def fA (w : BitVec 32) : BitVec 5 := fieldOf w 13 5
/-- Field B of format CR. -/
def fB (w : BitVec 32) : BitVec 5 := fieldOf w 8 5
/-- Field C of format CR. -/
def fC (w : BitVec 32) : BitVec 5 := fieldOf w 3 5
/-- A segment code in a 5-bit field is below 8 (R27, R145). -/
def sgRule (f : BitVec 5) : Bool × DErr := outRange (8 ≤ f.toNat)

/-- The local group 0x0F (R36, R145). -/
def decodeLocal (w l : BitVec 32) : Except DErr Instr :=
  let h := cHead w
  match (fieldOf w 0 3).toNat with
  | 0 => checked [sgRule (fB w)] (.tagset h (fA w) (memBC w l))
  | 1 => checked [sgRule (fB w)] (.tagget h (fA w) (memBC w l))
  | 2 => checked [noLit w, mustZero (fC w)] (.tlook h (fA w) (fB w))
  | 3 => checked [noLit w] (.tfill h (fA w) (fB w) (fC w))
  | 4 => checked [sgRule (fA w)] (.hsift h (memAB w l) (fC w))
  | 5 => checked [noLit w, mustZero (fieldOf w 3 10), outRange (4 ≤ (fA w).toNat)] (.waitd h (fieldOf w 13 2))
  | _ => .error (.ill 2)

/-- The tile-movement group 0x10 (R36, R193). -/
def decodeTileMove (w l : BitVec 32) : Except DErr Instr :=
  let h := cHead w
  let t : BitVec 3 := fieldOf w 13 3
  let tr := outRange (8 ≤ (fA w).toNat)
  match (fieldOf w 0 3).toNat with
  | 0 => checked [noLit w, mustZero (fC w), tr] (.tcfg h t (fB w))
  | 1 => checked [tr, sgRule (fB w)] (.tld h t (memBC w l))
  | 2 => checked [tr, sgRule (fB w)] (.tst h t (memBC w l))
  | 3 => checked [tr, sgRule (fB w)] (.tsave h t (memBC w l))
  | 4 => checked [tr, sgRule (fB w)] (.trest h t (memBC w l))
  | 5 => checked [noLit w] (.tcmd h (fA w) (fB w) (fC w))
  | _ => .error (.ill 2)

/-- The channel set-up group 0x11 (R36, R204–R208, R227). -/
def decodeChanSetup (w l : BitVec 32) : Except DErr Instr :=
  let h := cHead w
  let e : BitVec 4 := fieldOf w 13 4
  let er := outRange (16 ≤ (fA w).toNat)
  match (fieldOf w 0 3).toNat with
  | 0 => checked [er, sgRule (fB w)] (.elace h e (memBC w l))
  | 1 => checked [noLit w, mustZero (fC w), er] (.econn h e (fB w))
  | 2 => checked [noLit w, mustZero (fieldOf w 3 10), er] (.elisten h e)
  | 3 => checked [noLit w, mustZero (fC w), er] (.eaccept h e (fB w))
  | 4 => checked [noLit w, mustZero (fC w)] (.egrant h (fA w) (fB w))
  | 5 => checked [noLit w, mustZero (fieldOf w 3 10), er] (.eclose h e)
  | 6 => checked [noLit w, mustZero (fC w), outRange (16 ≤ (fB w).toNat)] (.estat h (fA w) (fieldOf w 8 4))
  | _ => checked [noLit w, mustZero (fC w)] (.eslot h (fA w) (fB w))

/-- The channel flow group 0x14 (R36, R211–R226). -/
def decodeChanFlow (w : BitVec 32) : Except DErr Instr :=
  let h := cHead w
  let e : BitVec 4 := fieldOf w 13 4
  let er := outRange (16 ≤ (fA w).toNat)
  match (fieldOf w 0 3).toNat with
  | 0 => checked [noLit w, mustZero (fC w), er, outRange (4 ≤ (fB w).toNat)] (.esel h e (fieldOf w 8 2))
  | 1 => checked [noLit w, mustZero (fC w), er] (.eoffer h e (fB w))
  | 2 => checked [noLit w, mustZero (fC w)] (.ealt h (fA w) (fB w))
  | 3 => checked [noLit w, mustZero (fC w), er] (.edeleg h e (fB w))
  | 4 => checked [noLit w, mustZero (fC w), er] (.ecatch h e (fB w))
  | 5 => checked [noLit w, mustZero (fC w)] (.route h (fA w) (fB w))
  | _ => .error (.ill 2)

/-- The slot group 0x15 (R36, R248). -/
def decodeSlot (w l : BitVec 32) : Except DErr Instr :=
  let h := cHead w
  let n : BitVec 2 := fieldOf w 13 2
  let nr := outRange (4 ≤ (fA w).toNat)
  match (fieldOf w 0 3).toNat with
  | 0 => checked [noLit w, mustZero (fC w), outRange ((fA w).toNat < 16)] (.qcfg h (fieldOf w 13 4) (fB w))
  | 1 => checked [noLit w] (.spawn h (fA w) (fB w) (fC w))
  | 2 => checked [noLit w, mustZero (fieldOf w 3 10)] (.wake h (fA w))
  | 3 => checked [nr, sgRule (fB w)] (.marm h n (memBC w l))
  | 4 => checked [noLit w, mustZero (fC w)] (.mwait h (fA w) (fB w))
  | 5 => checked [noLit w, mustZero (fieldOf w 3 10), nr] (.mdisarm h n)
  | 6 => checked [sgRule (fA w)] (.barinit h (memAB w l) (fC w))
  | _ => checked [mustZero (fC w), sgRule (fA w)] (.bararr h (memAB w l))

/-- The travel group 0x22 (R36, R303). -/
def decodeTravel (w l : BitVec 32) : Except DErr Instr :=
  let h := cHead w
  match (fieldOf w 0 3).toNat with
  | 0 => checked [mustZero (fC w), sgRule (fA w)] (.travel h (memAB w l))
  | 1 => checked [sgRule (fA w)] (.tspawn h (memAB w l) (fC w))
  | 2 => checked [noLit w, mustZero (fieldOf w 3 10)] (.tseg h (fA w))
  | _ => .error (.ill 2)

/-- The task group 0x23 (R36, R321). -/
def decodeTask (w l : BitVec 32) : Except DErr Instr :=
  let h := cHead w
  match (fieldOf w 0 3).toNat with
  | 0 => checked [noLit w, mustZero (fC w)] (.fork h (fA w) (fB w))
  | 1 => checked [noLit w, mustZero (fieldOf w 3 10)] (.join h (fA w))
  | 2 => checked [mustZero (fC w), sgRule (fA w)] (.launch h (memAB w l))
  | 3 => checked [noLit w, mustZero (fieldOf w 3 10)] (.grow h (fA w))
  | 4 => checked [noLit w, mustZero (fieldOf w 3 15)] (.commit h)
  | 5 => checked [noLit w, mustZero (fieldOf w 3 15)] (.done h)
  | _ => .error (.ill 2)

/-- The recovery group 0x24 (R346). -/
def decodeRecovery (w : BitVec 32) : Except DErr Instr :=
  let h := cHead w
  match (fieldOf w 0 3).toNat with
  | 0 => checked [noLit w, mustZero (fieldOf w 3 15)] (.sealCut h)
  | 1 => checked [noLit w, mustZero (fieldOf w 3 15)] (.sealw h)
  | 2 => checked [noLit w, mustZero (fieldOf w 3 10)] (.rin h (fA w))
  | 3 => checked [noLit w, mustZero (fieldOf w 3 15)] (.xsync h)
  | _ => .error (.ill 2)

/-- Decode a C-word `w` beside the A-word or literal `l` (R35, R36, R43). -/
def decodeC (w l : BitVec 32) : Except DErr Instr :=
  let h := cHead w
  let zAll := mustZero (fieldOf w 0 18)
  let jz : Bool × DErr := (bitOf w 31 && fieldOf w 0 18 != 0, .rsv 1)
  let tyR := outRange ((fieldOf w 7 3).toNat == 7)
  let sg3 : BitVec 3 := fieldOf w 10 3
  let aZero := mustZero (fieldOf w 13 5)
  let fn0 : Bool × DErr := (fieldOf w 0 3 != 0, .ill 2)
  match (fieldOf w 18 6).toNat with
  | 0x00 => checked [noLit w, zAll] (.nopC h)
  | 0x01 => checked [jz] (.br h (dispOf w l))
  | 0x02 => checked [jz] (.call h (dispOf w l))
  | 0x03 => checked [noLit w, zAll] (.ret h)
  | 0x04 => checked [fn0, noLit w, mustZero (fieldOf w 3 10)] (.jr h (fA w))
  | 0x05 => checked [noLit w] (.loop h (fieldOf w 14 4) (fieldOf w 0 14))
  | 0x06 => checked [noLit w, zAll] (.yield h)
  | 0x07 => checked [noLit w, zAll] (.halt h)
  | 0x08 => checked [ixRule w 6 2, tyR] (.ld h (cmOf w l))
  | 0x09 => checked [ixRule w 6 2, tyR] (.st h (cmOf w l))
  | 0x0A => checked [mustZero (fieldOf w 7 1), ixRule w 6 2,
      outRange ((fA w).toNat % 2 ^ (fieldOf w 8 2).toNat != 0)]
      (.ldv h ⟨fA w, sg3, fieldOf w 8 2, bitOf w 6, fieldOf w 2 4, fieldOf w 0 2, litOf w l⟩)
  | 0x0B => checked [mustZero (fieldOf w 7 1), ixRule w 6 2,
      outRange ((fA w).toNat % 2 ^ (fieldOf w 8 2).toNat != 0)]
      (.stv h ⟨fA w, sg3, fieldOf w 8 2, bitOf w 6, fieldOf w 2 4, fieldOf w 0 2, litOf w l⟩)
  | 0x0C => checked [noLit w, mustZero (fieldOf w 8 2), outRange ((fieldOf w 10 3).toNat == 7)]
      (.ldp h ⟨fA w, fieldOf w 10 3, fieldOf w 0 8⟩)
  | 0x0D => checked [ixRule w 6 2, outRange (8 ≤ (fA w).toNat || fieldOf w 7 3 != 0)]
      (.segld h ⟨fieldOf w 13 3, sg3, bitOf w 6, fieldOf w 2 4, fieldOf w 0 2, litOf w l⟩)
  | 0x0E => checked [ixRule w 6 2, outRange (8 ≤ (fA w).toNat || fieldOf w 7 3 != 0)]
      (.segst h ⟨fieldOf w 13 3, sg3, bitOf w 6, fieldOf w 2 4, fieldOf w 0 2, litOf w l⟩)
  | 0x0F => decodeLocal w l
  | 0x10 => decodeTileMove w l
  | 0x11 => decodeChanSetup w l
  | 0x12 => checked (ceChecks w l) (.esend h (ceOf w l))
  | 0x13 => checked (ceChecks w l) (.erecv h (ceOf w l))
  | 0x14 => decodeChanFlow w
  | 0x15 => decodeSlot w l
  | 0x16 => checked [sgRule (fB w)] (.barwait h (fA w) (memBC w l) (fieldOf w 0 3))
  | 0x17 => checked [ixRule w 6 2, tyR] (.gld h (cmOf w l))
  | 0x18 => checked [mustZero (fieldOf w 0 2), ixRule w 6 2, tyR]
      (.gst h ⟨fA w, sg3, fieldOf w 7 3, bitOf w 6, fieldOf w 2 4, litOf w l⟩)
  | 0x19 => checked [] (.gstc h ⟨fA w, sg3, fieldOf w 8 2, fieldOf w 4 4, fieldOf w 0 4, litOf w l⟩)
  | 0x1A => checked [needLit w, mustZero (fieldOf w 0 1), ixRule w 9 5,
      outRange (8 ≤ (fieldOf l 28 4).toNat || (fieldOf l 28 4).toNat == 7 && 16 ≤ (fA w).toNat)]
      (.gatom h ⟨fA w, sg3, bitOf w 9, fieldOf w 5 4, fieldOf w 1 4, fieldOf l 28 4, fieldOf l 26 2, fieldOf l 0 26⟩)
  | 0x1B => checked [needLit w, aZero, mustZero (fieldOf w 0 1), ixRule w 9 5,
      outRange (6 ≤ (fieldOf l 28 4).toNat)]
      (.gred h ⟨sg3, bitOf w 9, fieldOf w 5 4, fieldOf w 1 4, fieldOf l 28 4, fieldOf l 26 2, fieldOf l 0 26⟩)
  | 0x1C => checked [fn0, needLit w, mustZero (fC w), sgRule (fB w)] (.amsg h (fA w) (fieldOf w 8 3) l)
  | 0x1D => checked [fn0, sgRule (fB w)] (.frd h (fA w) (memBC w l))
  | 0x1E => checked [needLit w,
      (if bitOf l 31 then mustZero (fieldOf l 4 27) else mustZero (fieldOf l 25 6)),
      outRange (!bitOf l 31 && 16777216 < (fieldOf l 0 25).toNat)]
      (.copy h (cyOf w) (if bitOf l 31 then .reg (fieldOf l 0 4) else .imm (fieldOf l 0 25)))
  | 0x1F => checked [needLit w, mustZero (fieldOf l 16 8), outRange (fieldOf l 0 16 == 0)]
      (.copyg h (cyOf w) (fieldOf l 28 4) (fieldOf l 24 4) (fieldOf l 0 16))
  | 0x20 => checked [fn0, sgRule (fA w)] (.cpref h (memAB w l) (fC w))
  | 0x21 => checked [noLit w, mustZero (fieldOf w 3 15), outRange (4 ≤ (fieldOf w 0 3).toNat)] (.fence h (fieldOf w 0 2))
  | 0x22 => decodeTravel w l
  | 0x23 => decodeTask w l
  | 0x24 => decodeRecovery w
  | 0x25 => checked [noLit w, mustZero (fieldOf w 12 1), outRange (!cregAssigned (fieldOf w 0 12).toNat)]
      (.crd h (fA w) (fieldOf w 0 12))
  | 0x26 => checked [noLit w, mustZero (fieldOf w 12 1), outRange (!cregAssigned (fieldOf w 0 12).toNat)]
      (.cwr h (fA w) (fieldOf w 0 12))
  | 0x27 => checked [noLit w, aZero, mustZero (fieldOf w 12 1)] (.trap h (fieldOf w 0 12))
  | 0x28 => checked [noLit w, aZero, mustZero (fieldOf w 12 1)] (.syscall h (fieldOf w 0 12))
  | 0x29 => checked [noLit w, aZero, mustZero (fieldOf w 12 1)] (.brk h (fieldOf w 0 12))
  | 0x2A =>
    match (fieldOf w 0 3).toNat with
    | 0 => checked [sgRule (fA w)] (.iload h (memAB w l) (fC w))
    | 1 => checked [noLit w, mustZero (fieldOf w 3 15)] (.eret h)
    | _ => .error (.ill 2)
  | _ => .error (.ill 1)
where
  ceOf (w l : BitVec 32) : CE :=
    ⟨fieldOf w 14 4, fieldOf w 9 5, fieldOf w 7 2, bitOf w 6, bitOf w 5, fieldOf w 2 3,
      if bitOf w 31 then some (fieldOf l 0 8) else none⟩
  ceChecks (w l : BitVec 32) : List (Bool × DErr) :=
    [mustZero (fieldOf w 0 2), (bitOf w 31 && fieldOf l 8 24 != 0, .rsv 1),
      (!bitOf w 5 && fieldOf w 2 3 != 0, .rsv 1),
      outRange ((fieldOf w 7 2).toNat == 3 || (fieldOf w 7 2).toNat == 2 && 8 ≤ (fieldOf w 9 5).toNat)]
  cyOf (w : BitVec 32) : CY := ⟨fieldOf w 14 4, fieldOf w 11 3, fieldOf w 7 4, fieldOf w 4 3, fieldOf w 0 4⟩

/-- Format AR (R37). -/
def arOf (w : BitVec 32) : AR := ⟨fieldOf w 17 5, fieldOf w 12 5, fieldOf w 7 5⟩
/-- Format AR of a unary form. -/
def auOf (w : BitVec 32) : AU := ⟨fieldOf w 17 5, fieldOf w 12 5⟩
/-- Unary forms require B = 0 (R41). -/
def bZero (w : BitVec 32) : Bool × DErr := mustZero (fieldOf w 7 5)

/-- The scalar ALU, major 0x01 (R41). -/
def decodeAlu (w : BitVec 32) : Except DErr Instr :=
  let h := aHead w
  let o := arOf w
  let u := auOf w
  match (fieldOf w 0 7).toNat with
  | 0x00 => .ok (.add h o)
  | 0x01 => .ok (.sub h o)
  | 0x02 => .ok (.mul h o)
  | 0x03 => .ok (.mulh h o)
  | 0x04 => .ok (.mulhn h o)
  | 0x05 => .ok (.div h o)
  | 0x06 => .ok (.divn h o)
  | 0x07 => .ok (.rem h o)
  | 0x08 => .ok (.remn h o)
  | 0x09 => .ok (.and h o)
  | 0x0A => .ok (.or h o)
  | 0x0B => .ok (.xor h o)
  | 0x0C => .ok (.andn h o)
  | 0x0D => .ok (.shl h o)
  | 0x0E => .ok (.shr h o)
  | 0x0F => .ok (.sra h o)
  | 0x10 => .ok (.rot h o)
  | 0x11 => checked [bZero w] (.clz h u)
  | 0x12 => checked [bZero w] (.ctz h u)
  | 0x13 => checked [bZero w] (.popc h u)
  | 0x14 => .ok (.min h o)
  | 0x15 => .ok (.max h o)
  | 0x16 => .ok (.minn h o)
  | 0x17 => .ok (.maxn h o)
  | 0x18 => checked [bZero w] (.mov h u)
  | 0x19 => checked [bZero w] (.sext8 h u)
  | 0x1A => checked [bZero w] (.sext16 h u)
  | 0x1B => checked [bZero w] (.sext32 h u)
  | 0x1C => checked [bZero w] (.zext8 h u)
  | 0x1D => checked [bZero w] (.zext16 h u)
  | 0x1E => checked [bZero w] (.zext32 h u)
  | 0x20 => .ok (.lea h o 0)
  | 0x21 => .ok (.lea h o 1)
  | 0x22 => .ok (.lea h o 2)
  | 0x23 => .ok (.lea h o 3)
  | 0x28 => .ok (.sel h o 0)
  | 0x29 => .ok (.sel h o 1)
  | 0x2A => .ok (.sel h o 2)
  | 0x2B => .ok (.sel h o 3)
  | 0x2C => .ok (.sel h o 4)
  | 0x2D => .ok (.sel h o 5)
  | 0x2E => .ok (.sel h o 6)
  | 0x2F => .ok (.sel h o 7)
  | _ => .error (.ill 2)

/-- Format VR (R37). -/
def vrOf (w : BitVec 32) : VR :=
  ⟨fieldOf w 17 5, fieldOf w 12 5, fieldOf w 7 5, fieldOf w 4 3, fieldOf w 2 2, fieldOf w 0 2⟩
/-- Format VU (R37). -/
def vuOf (w : BitVec 32) : VU := ⟨fieldOf w 17 5, fieldOf w 12 5, fieldOf w 4 3, fieldOf w 2 2, fieldOf w 0 2⟩
/-- Format VC (R37). -/
def vcOf (w : BitVec 32) : VC :=
  ⟨fieldOf w 19 3, fieldOf w 14 5, fieldOf w 9 5, fieldOf w 5 4, fieldOf w 2 3, fieldOf w 0 2⟩
/-- Format AT (R37). -/
def tmmOf (w : BitVec 32) : TMM := ⟨fieldOf w 19 3, fieldOf w 16 3, fieldOf w 13 3, bitOf w 8, bitOf w 7⟩

/-- Vector unary, major 0x1E (R40, R156). -/
def decodeVu (w : BitVec 32) : Except DErr Instr :=
  let h := aHead w
  let o := vuOf w
  let f := outRange (!vuFloatOk o)
  let n := outRange (!vuIntOk o)
  match (fieldOf w 7 5).toNat with
  | 0 => checked [f] (.vabsF h o)
  | 1 => checked [f] (.vnegF h o)
  | 2 => checked [n] (.vabsI h o)
  | 3 => checked [n] (.vnegI h o)
  | 4 => checked [f] (.vrcp h o)
  | 5 => checked [f] (.vrsq h o)
  | 6 => checked [f] (.vexp2 h o)
  | 7 => checked [f] (.vlog2 h o)
  | 8 => checked [n] (.vmov h o)
  | _ => .error (.ill 2)

/-- Tile arithmetic, major 0x31 (R42). -/
def decodeTile (w : BitVec 32) : Except DErr Instr :=
  let h := aHead w
  let td : BitVec 3 := fieldOf w 19 3
  let ta : BitVec 3 := fieldOf w 16 3
  let tb : BitVec 3 := fieldOf w 13 3
  let z9 := mustZero (fieldOf w 0 9)
  match (fieldOf w 9 4).toNat with
  | 0 => checked [mustZero ta, mustZero tb, z9] (.tzero h td)
  | 1 => checked [mustZero (fieldOf w 0 7)] (.tmma h (tmmOf w))
  | 2 => checked [outRange (!tmmasNOk (fieldOf w 0 4))] (.tmmas h (tmmOf w) (fieldOf w 4 3) (fieldOf w 0 4))
  | 3 => checked [mustZero tb, z9] (.ttrans h td ta)
  | 4 => checked [z9] (.tadd h td ta tb)
  | 5 => checked [mustZero tb, mustZero (fieldOf w 0 2), outRange (!rmOk (fieldOf w 2 3)),
      (!tcvtToOk (fieldOf w 5 4), .ill 6)]
      (.tcvt h td ta (fieldOf w 5 4) (fieldOf w 2 3))
  | 6 => checked [mustZero tb, mustZero (fieldOf w 0 3)] (.tsel h td ta (fieldOf w 3 6))
  | _ => .error (.ill 2)

/-- Decode an A-word (R40–R43). -/
def decodeA (w : BitVec 32) : Except DErr Instr :=
  let h := aHead w
  let rF (i : VR → Instr) : Except DErr Instr := checked [outRange (!vrFloatOk (vrOf w))] (i (vrOf w))
  let rI (i : VR → Instr) : Except DErr Instr := checked [outRange (!vrIntOk (vrOf w))] (i (vrOf w))
  let z2 := mustZero (fieldOf w 0 2)
  let ap : AP := ⟨fieldOf w 19 3, fieldOf w 16 3, bitOf w 15, fieldOf w 12 3, bitOf w 11⟩
  let afp : AFP := ⟨fieldOf w 17 5, fieldOf w 12 5, fieldOf w 7 5, fieldOf w 4 3, fieldOf w 2 2⟩
  let afs : AFS := ⟨fieldOf w 17 5, fieldOf w 12 5, fieldOf w 7 5, fieldOf w 2 2⟩
  let acv : ACV := ⟨fieldOf w 17 5, fieldOf w 12 5, fieldOf w 8 4, fieldOf w 4 4, fieldOf w 1 3⟩
  let af : AF := ⟨fieldOf w 17 5, fieldOf w 12 5, fieldOf w 6 6, fieldOf w 0 6⟩
  let vce : VCE := ⟨fieldOf w 17 5, fieldOf w 12 5, fieldOf w 4 3, fieldOf w 0 2⟩
  let vbx : VBX := ⟨fieldOf w 17 5, fieldOf w 12 5, fieldOf w 8 2, fieldOf w 5 3, fieldOf w 3 2⟩
  let gNz := (fieldOf w 2 2 : BitVec 2) != 0
  match (fieldOf w 22 6).toNat with
  | 0x00 => checked [mustZero (fieldOf w 0 22)] (.nopA h)
  | 0x01 => decodeAlu w
  | 0x02 => .ok (.addi h (fieldOf w 17 5) (fieldOf w 12 5) (fieldOf w 0 12))
  | 0x03 => .ok (.movImm h (fieldOf w 17 5) (fieldOf w 0 17))
  | 0x04 => .ok (.movK h (fieldOf w 18 4) (fieldOf w 16 2) (fieldOf w 0 16))
  | 0x05 => checked [outRange (!afOk af)] (.bfx h af)
  | 0x06 => checked [outRange (!afOk af || 16 ≤ af.d.toNat)] (.bfi h af)
  | 0x07 => checked [z2, outRange (10 ≤ (fieldOf w 2 4).toNat)]
      (.cmp h (fieldOf w 19 3) (fieldOf w 16 3) (fieldOf w 11 5) (fieldOf w 6 5) (fieldOf w 2 4))
  | 0x08 => checked [outRange (10 ≤ (fieldOf w 7 4).toNat)]
      (.cmpi h (fieldOf w 19 3) (fieldOf w 16 3) (fieldOf w 11 5) (fieldOf w 7 4) (fieldOf w 0 7))
  | 0x09 =>
    let z := mustZero (fieldOf w 2 9)
    match (fieldOf w 0 2).toNat with
    | 0 => checked [z] (.pand h ap)
    | 1 => checked [z] (.por h ap)
    | 2 => checked [z] (.pxor h ap)
    | _ => checked [z, mustZero (fieldOf w 11 4)] (.pmov h (fieldOf w 19 3) (fieldOf w 16 3) (bitOf w 15))
  | 0x0A =>
    let c := outRange (!rmOk afp.rm || !ftOk afp.ft)
    match (fieldOf w 0 2).toNat with
    | 0 => checked [c] (.fadd h afp)
    | 1 => checked [c] (.fsub h afp)
    | 2 => checked [c] (.fmul h afp)
    | _ => checked [c, outRange (16 ≤ afp.d.toNat)] (.fma h afp)
  | 0x0B =>
    let z := mustZero (fieldOf w 4 3)
    let c := outRange (!ftOk afs.ft)
    match (fieldOf w 0 2).toNat with
    | 0 => checked [z, c] (.fmin h afs)
    | 1 => checked [z, c] (.fmax h afs)
    | 2 => checked [z, c] (.fsgn h afs)
    | _ => checked [z, c] (.fsgnN h afs)
  | 0x0C => checked [mustZero (fieldOf w 0 1), outRange (4 ≤ (fieldOf w 3 3).toNat || !ftOk (fieldOf w 1 2))]
      (.fcmp h (fieldOf w 19 3) (fieldOf w 16 3) (fieldOf w 11 5) (fieldOf w 6 5) (fieldOf w 3 3) (fieldOf w 1 2))
  | 0x0D => checked [mustZero (fieldOf w 0 1), outRange (!rmOk acv.rm), (!cvtPairOk acv, .ill 6)] (.cvt h acv)
  | 0x10 => rF (.vaddF h)
  | 0x11 => rI (.vaddI h)
  | 0x12 => rF (.vsubF h)
  | 0x13 => rI (.vsubI h)
  | 0x14 => rF (.vmulF h)
  | 0x15 => rI (.vmulI h)
  | 0x16 => rF (.vfma h)
  | 0x17 => rF (.vfms h)
  | 0x18 => rF (.vminF h)
  | 0x19 => rI (.vminS h)
  | 0x1A => rI (.vminN h)
  | 0x1B => rF (.vmaxF h)
  | 0x1C => rI (.vmaxS h)
  | 0x1D => rI (.vmaxN h)
  | 0x1E => decodeVu w
  | 0x1F => rI (.vand h)
  | 0x20 => rI (.vor h)
  | 0x21 => rI (.vxor h)
  | 0x22 => rI (.vshl h)
  | 0x23 => rI (.vshr h)
  | 0x24 => rI (.vsra h)
  | 0x25 => checked [outRange (!vcFloatOk (vcOf w))] (.vcmpF h (vcOf w))
  | 0x26 => checked [outRange (!vcIntOk (vcOf w))] (.vcmpI h (vcOf w))
  | 0x27 => rI (.vsel h)
  | 0x28 =>
    let o : VP := ⟨fieldOf w 17 5, fieldOf w 12 5, fieldOf w 7 5, fieldOf w 4 3, fieldOf w 0 2⟩
    checked [outRange (gNz || !vpOk o)] (.vperm h o)
  | 0x29 =>
    let wd : BitVec 2 := fieldOf w 4 2
    let o : VX := ⟨fieldOf w 17 5, fieldOf w 12 5, fieldOf w 6 6, wd⟩
    match (fieldOf w 2 2).toNat with
    | 0 => checked [z2, mustZero (fieldOf w 6 6), outRange (!pairOk o.v wd)] (.vbcast h o.v o.s wd)
    | 1 => checked [z2, outRange (!pairOk o.v wd || !laneOk o.lane wd)] (.vext h o.s o.v o.lane wd)
    | 2 => checked [z2, outRange (!pairOk o.v wd || !laneOk o.lane wd)] (.vins h o)
    | _ => .error (.ill 2)
  | 0x2A => checked [mustZero (fieldOf w 7 5), outRange (gNz || !vceOk vce)] (.vcompress h vce)
  | 0x2B => checked [mustZero (fieldOf w 7 5), outRange (gNz || !vceOk vce)] (.vexpand h vce)
  | 0x2C =>
    let o : VRD := ⟨fieldOf w 17 5, fieldOf w 12 5, fieldOf w 7 5, fieldOf w 4 3, fieldOf w 2 2, fieldOf w 0 2⟩
    checked [(11 ≤ o.op.toNat, .ill 2), outRange (!vrdOk o)] (.vred h o)
  | 0x2D => checked [mustZero (fieldOf w 0 1), outRange (!rmOk acv.rm || cvtPairOk acv && !vcvtGroupsOk acv),
      (!cvtPairOk acv, .ill 6)] (.vcvt h acv)
  | 0x2E =>
    match (fieldOf w 10 2).toNat with
    | 0 => checked [mustZero (fieldOf w 0 3), outRange (!vpackOk vbx)] (.vpackbx h vbx)
    | 1 => checked [mustZero (fieldOf w 0 3), outRange (!vunpOk vbx)] (.vunpbx h vbx)
    | _ => .error (.ill 2)
  | 0x2F =>
    let z6 := mustZero (fieldOf w 0 6)
    let sdz := mustZero (fieldOf w 6 5)
    let md : BitVec 3 := fieldOf w 19 3
    let ma : BitVec 3 := fieldOf w 16 3
    let mb : BitVec 3 := fieldOf w 13 3
    match (fieldOf w 11 2).toNat with
    | 0 => checked [z6, sdz] (.mand h md ma mb)
    | 1 => checked [z6, sdz] (.mor h md ma mb)
    | 2 => checked [z6, mustZero mb, sdz] (.mnot h md ma)
    | _ => checked [z6, mustZero md, mustZero mb] (.mpop h (fieldOf w 6 5) ma)
  | 0x30 =>
    let z10 := mustZero (fieldOf w 0 10)
    match (fieldOf w 10 2).toNat with
    | 0 => checked [z10, outRange ((fieldOf w 17 5).toNat < 28)] (.sbind h (fieldOf w 17 5) (fieldOf w 12 5))
    | 1 => checked [z10, mustZero (fieldOf w 17 5)] (.srep h (fieldOf w 12 5))
    | _ => .error (.ill 2)
  | 0x31 => decodeTile w
  | _ => .error (.ill 1)

/-! The encoder (R30–R42). -/

/-- An encoded word: which word of the bundle, its bits, and the literal when LONE = 1. -/
structure Enc where
  aWord : Bool
  word : BitVec 32
  lit : Lit
  deriving DecidableEq, Repr

/-- A field at bit `lo`. -/
def put {n : Nat} (v : BitVec n) (lo : Nat) : BitVec 32 := v.setWidth 32 <<< lo
/-- A flag at bit `lo`. -/
def putB (b : Bool) (lo : Nat) : BitVec 32 := if b then (1 : BitVec 32) <<< lo else 0

/-- A C-word: head, LONE from the literal, major and operands (R22). -/
def encC (h : CHead) (lit : Lit) (major : BitVec 6) (ops : BitVec 32) : Option Enc :=
  some ⟨false, putB lit.isSome 31 ||| put h.stall 28 ||| putB h.neg 27 ||| put h.grd 24 ||| put major 18 ||| ops, lit⟩
/-- An A-word: head, major and operands (R22). -/
def encA (h : AHead) (major : BitVec 6) (ops : BitVec 32) : Option Enc :=
  some ⟨true, putB h.neg 31 ||| put h.grd 28 ||| put major 22 ||| ops, none⟩
/-- Format CJ. -/
def encJ (h : CHead) (major : BitVec 6) : Disp → Option Enc
  | .short d => encC h none major (put d 0)
  | .long l => encC h (some l) major 0
/-- Format CM. -/
def encM (h : CHead) (major : BitVec 6) (m : CM) : Option Enc :=
  encC h m.lit major (put m.reg 13 ||| put m.sg 10 ||| put m.ty 7 ||| putB m.ix 6 ||| put m.idx 2 ||| put m.dc 0)
/-- Format CV. -/
def encV (h : CHead) (major : BitVec 6) (m : CV) : Option Enc :=
  encC h m.lit major (put m.vr 13 ||| put m.sg 10 ||| put m.g 8 ||| putB m.ix 6 ||| put m.idx 2 ||| put m.dc 0)
/-- Format CM of `segld` and `segst`. -/
def encSeg (h : CHead) (major : BitVec 6) (m : CSeg) : Option Enc :=
  encC h m.lit major (put m.k 13 ||| put m.sg 10 ||| putB m.ix 6 ||| put m.idx 2 ||| put m.dc 0)
/-- Format CE. -/
def encE (h : CHead) (major : BitVec 6) (m : CE) : Option Enc :=
  encC h (m.lit.map (·.setWidth 32)) major
    (put m.ey 14 ||| put m.reg 9 ||| put m.pk 7 ||| putB m.ord 6 ||| putB m.st 5 ||| put m.ps 2)
/-- Format CR with three register fields. -/
def encR {k n m : Nat} (h : CHead) (major : BitVec 6) (fn : BitVec 3) (a : BitVec k) (b : BitVec n) (c : BitVec m) :
    Option Enc :=
  encC h none major (put a 13 ||| put b 8 ||| put c 3 ||| put fn 0)
/-- Format CR with the memory operand in fields B and C. -/
def encRBC {k : Nat} (h : CHead) (major : BitVec 6) (fn : BitVec 3) (a : BitVec k) (m : MemR) : Option Enc :=
  encC h m.lit major (put a 13 ||| put m.sg 8 ||| put m.idx 3 ||| put fn 0)
/-- Format CR with the memory operand in fields A and B. -/
def encRAB {k : Nat} (h : CHead) (major : BitVec 6) (fn : BitVec 3) (m : MemR) (c : BitVec k) : Option Enc :=
  encC h m.lit major (put m.sg 13 ||| put m.idx 8 ||| put c 3 ||| put fn 0)
/-- Format CI. -/
def encI {k : Nat} (h : CHead) (major : BitVec 6) (a : BitVec k) (imm : BitVec 12) : Option Enc :=
  encC h none major (put a 13 ||| put imm 0)
/-- Format CY. -/
def encY (h : CHead) (major : BitVec 6) (y : CY) (lit : BitVec 32) : Option Enc :=
  encC h (some lit) major (put y.tok 14 ||| put y.sgd 11 ||| put y.idxd 7 ||| put y.sgs 4 ||| put y.idxs 0)
/-- Format AR. -/
def encAR (h : AHead) (fn : BitVec 7) (o : AR) : Option Enc :=
  encA h 1 (put o.d 17 ||| put o.a 12 ||| put o.b 7 ||| put fn 0)
/-- Format AR, unary. -/
def encAU (h : AHead) (fn : BitVec 7) (o : AU) : Option Enc := encA h 1 (put o.d 17 ||| put o.a 12 ||| put fn 0)
/-- Format AP. -/
def encAP (h : AHead) (fn : BitVec 2) (o : AP) : Option Enc :=
  encA h 9 (put o.pd 19 ||| put o.pa 16 ||| putB o.na 15 ||| put o.pb 12 ||| putB o.nb 11 ||| put fn 0)
/-- Format AFP. -/
def encFP (h : AHead) (fn : BitVec 2) (o : AFP) : Option Enc :=
  encA h 0x0A (put o.d 17 ||| put o.a 12 ||| put o.b 7 ||| put o.rm 4 ||| put o.ft 2 ||| put fn 0)
/-- Format AFP with RM 0. -/
def encFS (h : AHead) (fn : BitVec 2) (o : AFS) : Option Enc :=
  encA h 0x0B (put o.d 17 ||| put o.a 12 ||| put o.b 7 ||| put o.ft 2 ||| put fn 0)
/-- Formats ACV and VCV. -/
def encCV (h : AHead) (major : BitVec 6) (o : ACV) : Option Enc :=
  encA h major (put o.d 17 ||| put o.a 12 ||| put o.frm 8 ||| put o.dst 4 ||| put o.rm 1)
/-- Format VR. -/
def encVR (h : AHead) (major : BitVec 6) (o : VR) : Option Enc :=
  encA h major (put o.vd 17 ||| put o.va 12 ||| put o.vb 7 ||| put o.vm 4 ||| put o.g 2 ||| put o.w 0)
/-- Format VU. -/
def encVU (h : AHead) (code : BitVec 5) (o : VU) : Option Enc :=
  encA h 0x1E (put o.vd 17 ||| put o.va 12 ||| put code 7 ||| put o.vm 4 ||| put o.g 2 ||| put o.w 0)
/-- Format VC. -/
def encVC (h : AHead) (major : BitVec 6) (o : VC) : Option Enc :=
  encA h major (put o.md 19 ||| put o.va 14 ||| put o.vb 9 ||| put o.cc 5 ||| put o.vm 2 ||| put o.w 0)
/-- Format VBX. -/
def encBX (h : AHead) (fn : BitVec 2) (o : VBX) : Option Enc :=
  encA h 0x2E (put o.vd 17 ||| put o.va 12 ||| put fn 10 ||| put o.bx 8 ||| put o.rm 5 ||| put o.ft 3)
/-- Format VX. -/
def encVX {n : Nat} (h : AHead) (fn : BitVec 2) (v s : BitVec 5) (lane : BitVec n) (w : BitVec 2) : Option Enc :=
  encA h 0x29 (put v 17 ||| put s 12 ||| put lane 6 ||| put w 4 ||| put fn 2)
/-- Format AT. -/
def encT (h : AHead) (fn : BitVec 4) (td ta tb : BitVec 3) (opt : BitVec 32) : Option Enc :=
  encA h 0x31 (put td 19 ||| put ta 16 ||| put tb 13 ||| put fn 9 ||| opt)
/-- The atomic literal (R34). -/
def atomLit (op : BitVec 4) (ty : BitVec 2) (d : BitVec 26) : BitVec 32 := put op 28 ||| put ty 26 ||| put d 0

/-- The word of an instruction of a bundle, and its literal; none for the device's other steps, which have no
encoding. -/
def encode : Instr → Option Enc
  | .nopC h => encC h none 0x00 0
  | .br h d => encJ h 0x01 d
  | .call h d => encJ h 0x02 d
  | .ret h => encC h none 0x03 0
  | .jr h a => encC h none 0x04 (put a 13)
  | .loop h cnt d => encC h none 0x05 (put cnt 14 ||| put d 0)
  | .yield h => encC h none 0x06 0
  | .halt h => encC h none 0x07 0
  | .ld h m => encM h 0x08 m
  | .st h m => encM h 0x09 m
  | .ldv h m => encV h 0x0A m
  | .stv h m => encV h 0x0B m
  | .ldp h m => encC h none 0x0C (put m.reg 13 ||| put m.ty 10 ||| put m.off 0)
  | .segld h m => encSeg h 0x0D m
  | .segst h m => encSeg h 0x0E m
  | .tagset h a m => encRBC h 0x0F 0 a m
  | .tagget h a m => encRBC h 0x0F 1 a m
  | .tlook h a b => encR h 0x0F 2 a b (0 : BitVec 1)
  | .tfill h a b c => encR h 0x0F 3 a b c
  | .hsift h m c => encRAB h 0x0F 4 m c
  | .waitd h n => encR h 0x0F 5 n (0 : BitVec 1) (0 : BitVec 1)
  | .tcfg h t b => encR h 0x10 0 t b (0 : BitVec 1)
  | .tld h t m => encRBC h 0x10 1 t m
  | .tst h t m => encRBC h 0x10 2 t m
  | .tsave h t m => encRBC h 0x10 3 t m
  | .trest h t m => encRBC h 0x10 4 t m
  | .tcmd h a b c => encR h 0x10 5 a b c
  | .elace h e m => encRBC h 0x11 0 e m
  | .econn h e b => encR h 0x11 1 e b (0 : BitVec 1)
  | .elisten h e => encR h 0x11 2 e (0 : BitVec 1) (0 : BitVec 1)
  | .eaccept h e b => encR h 0x11 3 e b (0 : BitVec 1)
  | .egrant h a b => encR h 0x11 4 a b (0 : BitVec 1)
  | .eclose h e => encR h 0x11 5 e (0 : BitVec 1) (0 : BitVec 1)
  | .estat h a e => encR h 0x11 6 a e (0 : BitVec 1)
  | .eslot h a b => encR h 0x11 7 a b (0 : BitVec 1)
  | .esend h m => encE h 0x12 m
  | .erecv h m => encE h 0x13 m
  | .esel h e n => encR h 0x14 0 e n (0 : BitVec 1)
  | .eoffer h e b => encR h 0x14 1 e b (0 : BitVec 1)
  | .ealt h a b => encR h 0x14 2 a b (0 : BitVec 1)
  | .edeleg h e b => encR h 0x14 3 e b (0 : BitVec 1)
  | .ecatch h e b => encR h 0x14 4 e b (0 : BitVec 1)
  | .route h a b => encR h 0x14 5 a b (0 : BitVec 1)
  | .qcfg h q b => encC h none 0x15 (putB true 17 ||| put q 13 ||| put b 8)
  | .spawn h a b c => encR h 0x15 1 a b c
  | .wake h a => encR h 0x15 2 a (0 : BitVec 1) (0 : BitVec 1)
  | .marm h n m => encRBC h 0x15 3 n m
  | .mwait h a b => encR h 0x15 4 a b (0 : BitVec 1)
  | .mdisarm h n => encR h 0x15 5 n (0 : BitVec 1) (0 : BitVec 1)
  | .barinit h m c => encRAB h 0x15 6 m c
  | .bararr h m => encRAB h 0x15 7 m (0 : BitVec 1)
  | .barwait h a m pd => encRBC h 0x16 pd a m
  | .gld h m => encM h 0x17 m
  | .gst h m => encM h 0x18 ⟨m.reg, m.sg, m.ty, m.ix, m.idx, 0, m.lit⟩
  | .gstc h m => encC h m.lit 0x19 (put m.reg 13 ||| put m.sg 10 ||| put m.w 8 ||| put m.idx 4 ||| put m.bar 0)
  | .gatom h m => encC h (some (atomLit m.op m.ty m.disp)) 0x1A (put m.a 13 ||| put m.sg 10 ||| putB m.ix 9 ||| put m.idx 5 ||| put m.b 1)
  | .gred h m => encC h (some (atomLit m.op m.ty m.disp)) 0x1B (put m.sg 10 ||| putB m.ix 9 ||| put m.idx 5 ||| put m.b 1)
  | .amsg h a sg lit => encC h (some lit) 0x1C (put a 13 ||| put sg 8)
  | .frd h a m => encRBC h 0x1D 0 a m
  | .copy h y len => encY h 0x1E y (match len with | .imm n => put n 0 | .reg r => putB true 31 ||| put r 0)
  | .copyg h y lst cnt rowb => encY h 0x1F y (put lst 28 ||| put cnt 24 ||| put rowb 0)
  | .cpref h m c => encRAB h 0x20 0 m c
  | .fence h scope => encC h none 0x21 (put scope 0)
  | .travel h m => encRAB h 0x22 0 m (0 : BitVec 1)
  | .tspawn h m c => encRAB h 0x22 1 m c
  | .tseg h a => encR h 0x22 2 a (0 : BitVec 1) (0 : BitVec 1)
  | .fork h a b => encR h 0x23 0 a b (0 : BitVec 1)
  | .join h a => encR h 0x23 1 a (0 : BitVec 1) (0 : BitVec 1)
  | .launch h m => encRAB h 0x23 2 m (0 : BitVec 1)
  | .grow h a => encR h 0x23 3 a (0 : BitVec 1) (0 : BitVec 1)
  | .commit h => encR h 0x23 4 (0 : BitVec 1) (0 : BitVec 1) (0 : BitVec 1)
  | .done h => encR h 0x23 5 (0 : BitVec 1) (0 : BitVec 1) (0 : BitVec 1)
  | .sealCut h => encR h 0x24 0 (0 : BitVec 1) (0 : BitVec 1) (0 : BitVec 1)
  | .sealw h => encR h 0x24 1 (0 : BitVec 1) (0 : BitVec 1) (0 : BitVec 1)
  | .rin h a => encR h 0x24 2 a (0 : BitVec 1) (0 : BitVec 1)
  | .xsync h => encR h 0x24 3 (0 : BitVec 1) (0 : BitVec 1) (0 : BitVec 1)
  | .crd h a r => encI h 0x25 a r
  | .cwr h a r => encI h 0x26 a r
  | .trap h imm => encI h 0x27 (0 : BitVec 1) imm
  | .syscall h imm => encI h 0x28 (0 : BitVec 1) imm
  | .brk h imm => encI h 0x29 (0 : BitVec 1) imm
  | .iload h m c => encRAB h 0x2A 0 m c
  | .eret h => encR h 0x2A 1 (0 : BitVec 1) (0 : BitVec 1) (0 : BitVec 1)
  | .nopA h => encA h 0x00 0
  | .add h o => encAR h 0x00 o
  | .sub h o => encAR h 0x01 o
  | .mul h o => encAR h 0x02 o
  | .mulh h o => encAR h 0x03 o
  | .mulhn h o => encAR h 0x04 o
  | .div h o => encAR h 0x05 o
  | .divn h o => encAR h 0x06 o
  | .rem h o => encAR h 0x07 o
  | .remn h o => encAR h 0x08 o
  | .and h o => encAR h 0x09 o
  | .or h o => encAR h 0x0A o
  | .xor h o => encAR h 0x0B o
  | .andn h o => encAR h 0x0C o
  | .shl h o => encAR h 0x0D o
  | .shr h o => encAR h 0x0E o
  | .sra h o => encAR h 0x0F o
  | .rot h o => encAR h 0x10 o
  | .clz h o => encAU h 0x11 o
  | .ctz h o => encAU h 0x12 o
  | .popc h o => encAU h 0x13 o
  | .min h o => encAR h 0x14 o
  | .max h o => encAR h 0x15 o
  | .minn h o => encAR h 0x16 o
  | .maxn h o => encAR h 0x17 o
  | .mov h o => encAU h 0x18 o
  | .sext8 h o => encAU h 0x19 o
  | .sext16 h o => encAU h 0x1A o
  | .sext32 h o => encAU h 0x1B o
  | .zext8 h o => encAU h 0x1C o
  | .zext16 h o => encAU h 0x1D o
  | .zext32 h o => encAU h 0x1E o
  | .lea h o k => encA h 1 (put o.d 17 ||| put o.a 12 ||| put o.b 7 ||| 0x20 ||| put k 0)
  | .sel h o k => encA h 1 (put o.d 17 ||| put o.a 12 ||| put o.b 7 ||| 0x28 ||| put k 0)
  | .addi h d a imm => encA h 0x02 (put d 17 ||| put a 12 ||| put imm 0)
  | .movImm h d imm => encA h 0x03 (put d 17 ||| put imm 0)
  | .movK h d k imm => encA h 0x04 (put d 18 ||| put k 16 ||| put imm 0)
  | .bfx h o => encA h 0x05 (put o.d 17 ||| put o.a 12 ||| put o.pos 6 ||| put o.len 0)
  | .bfi h o => encA h 0x06 (put o.d 17 ||| put o.a 12 ||| put o.pos 6 ||| put o.len 0)
  | .cmp h pt pf a b cc => encA h 0x07 (put pt 19 ||| put pf 16 ||| put a 11 ||| put b 6 ||| put cc 2)
  | .cmpi h pt pf a cc imm => encA h 0x08 (put pt 19 ||| put pf 16 ||| put a 11 ||| put cc 7 ||| put imm 0)
  | .pand h o => encAP h 0 o
  | .por h o => encAP h 1 o
  | .pxor h o => encAP h 2 o
  | .pmov h pd pa na => encAP h 3 ⟨pd, pa, na, 0, false⟩
  | .fadd h o => encFP h 0 o
  | .fsub h o => encFP h 1 o
  | .fmul h o => encFP h 2 o
  | .fma h o => encFP h 3 o
  | .fmin h o => encFS h 0 o
  | .fmax h o => encFS h 1 o
  | .fsgn h o => encFS h 2 o
  | .fsgnN h o => encFS h 3 o
  | .fcmp h pt pf a b fc ft => encA h 0x0C (put pt 19 ||| put pf 16 ||| put a 11 ||| put b 6 ||| put fc 3 ||| put ft 1)
  | .cvt h o => encCV h 0x0D o
  | .vaddF h o => encVR h 0x10 o
  | .vaddI h o => encVR h 0x11 o
  | .vsubF h o => encVR h 0x12 o
  | .vsubI h o => encVR h 0x13 o
  | .vmulF h o => encVR h 0x14 o
  | .vmulI h o => encVR h 0x15 o
  | .vfma h o => encVR h 0x16 o
  | .vfms h o => encVR h 0x17 o
  | .vminF h o => encVR h 0x18 o
  | .vminS h o => encVR h 0x19 o
  | .vminN h o => encVR h 0x1A o
  | .vmaxF h o => encVR h 0x1B o
  | .vmaxS h o => encVR h 0x1C o
  | .vmaxN h o => encVR h 0x1D o
  | .vabsF h o => encVU h 0 o
  | .vnegF h o => encVU h 1 o
  | .vabsI h o => encVU h 2 o
  | .vnegI h o => encVU h 3 o
  | .vrcp h o => encVU h 4 o
  | .vrsq h o => encVU h 5 o
  | .vexp2 h o => encVU h 6 o
  | .vlog2 h o => encVU h 7 o
  | .vmov h o => encVU h 8 o
  | .vand h o => encVR h 0x1F o
  | .vor h o => encVR h 0x20 o
  | .vxor h o => encVR h 0x21 o
  | .vshl h o => encVR h 0x22 o
  | .vshr h o => encVR h 0x23 o
  | .vsra h o => encVR h 0x24 o
  | .vcmpF h o => encVC h 0x25 o
  | .vcmpI h o => encVC h 0x26 o
  | .vsel h o => encVR h 0x27 o
  | .vperm h o => encVR h 0x28 ⟨o.vd, o.va, o.vb, o.vm, 0, o.w⟩
  | .vbcast h v s w => encVX h 0 v s (0 : BitVec 1) w
  | .vext h s v lane w => encVX h 1 v s lane w
  | .vins h o => encVX h 2 o.v o.s o.lane o.w
  | .vcompress h o => encVR h 0x2A ⟨o.vd, o.va, 0, o.vm, 0, o.w⟩
  | .vexpand h o => encVR h 0x2B ⟨o.vd, o.va, 0, o.vm, 0, o.w⟩
  | .vred h o => encVR h 0x2C ⟨o.vd, o.va, o.op, o.vm, o.g, o.w⟩
  | .vcvt h o => encCV h 0x2D o
  | .vpackbx h o => encBX h 0 o
  | .vunpbx h o => encBX h 1 o
  | .mand h md ma mb => encA h 0x2F (put md 19 ||| put ma 16 ||| put mb 13)
  | .mor h md ma mb => encA h 0x2F (put md 19 ||| put ma 16 ||| put mb 13 ||| 0x800)
  | .mnot h md ma => encA h 0x2F (put md 19 ||| put ma 16 ||| 0x1000)
  | .mpop h sd ma => encA h 0x2F (put ma 16 ||| 0x1800 ||| put sd 6)
  | .sbind h v s => encA h 0x30 (put v 17 ||| put s 12)
  | .srep h s => encA h 0x30 (put s 12 ||| 0x400)
  | .tzero h td => encT h 0 td 0 0 0
  | .tmma h o => encT h 1 o.td o.ta o.tb (putB o.acc 8 ||| putB o.scl 7)
  | .tmmas h o tm n => encT h 2 o.td o.ta o.tb (putB o.acc 8 ||| putB o.scl 7 ||| put tm 4 ||| put n 0)
  | .ttrans h td ta => encT h 3 td ta 0 0
  | .tadd h td ta tb => encT h 4 td ta tb 0
  | .tcvt h td ta fmt rm => encT h 5 td ta 0 (put fmt 5 ||| put rm 2)
  | .tsel h td ta k => encT h 6 td ta 0 (put k 3)
  | .divideComplete _
  | .localAccessPerformed _ _
  | .localLoadWriteback _
  | .trackedRegisterWrite _
  | .segldComplete _ _ _ _ _ _
  | .elaceComplete _ _ _ _ _
  | .streamReadAvailable _ _ _
  | .streamPushQueued _ _ _ _ _ _
  | .remoteCommandArrival _
  | .remoteCommandReply _ _
  | .connectRequestArrival _
  | .connectOutcome _ _
  | .portEndpointConnect _
  | .channelMessageArrival _ _ _ _
  | .allowanceReturn _ _ _
  | .closeNoticeArrival _ _
  | .closeAcknowledge _ _ _
  | .moveNotice _ _ _
  | .markArrival _ _ _
  | .rehome _ _ _ _
  | .globalRead _
  | .globalWrite _
  | .atomicAtHome _
  | .flushReadAtHome _
  | .acknowledgementArrival _ _
  | .countedAckArrival _
  | .amsgArrival _
  | .amsgReply _ _
  | .filterRefusalRetry _
  | .faultNotice _ _
  | .packetArrival _ _
  | .arrivalReport _ _ _
  | .reservationGrant _ _
  | .reservationRetry _ _
  | .packetResendTimeout _ _
  | .lateReplyForward _ _ _
  | .combinedArrival _
  | .combinerReply _ _
  | .trapReportAfterIssue _ _ _
  | .commitRequest _ _
  | .growRequest _ _ _ _ _
  | .launchSubmit _ _ _ _ _
  | .durableReport _ _
  | .prgResponse _ _
  | .hostWrite _ _ _
  | .hostRead _ _ _
  | .attestationRequest _ _
  | .fixedLatencyWrite
  | .hsiftComplete
  | .vectorUnitFree
  | .matrixStep
  | .matrixOpFinish
  | .scaleReadComplete
  | .tselFinish
  | .loadPathFinish
  | .heldRequestTimeout
  | .portStreamSend
  | .portStreamWrite
  | .portStreamStop
  | .portEndpointClosed
  | .channelWatchdog
  | .amsgHandlerStart
  | .requestResendTimeout
  | .replyConfirm
  | .pageWalkComplete
  | .wakeNotice
  | .pageRequestGroup
  | .faultRecordReoffer
  | .copyGranule
  | .departure
  | .reservationWatchdog
  | .threadPlacement
  | .forwardingExpiry
  | .thermalDisplacement
  | .thermslotUpdate
  | .powerSample
  | .queueTimerTick
  | .mwaitDeadline
  | .combinerReread
  | .snagScan
  | .slotWatchdog
  | .heldTrapRecordRelease
  | .undoOverflow
  | .workQueueTake
  | .hostRingPoll
  | .dependenceDecrement
  | .taskPlacement
  | .dispatchRequest
  | .stealRequest
  | .stealRetry
  | .childEnd
  | .taskFinish
  | .taskDiscard
  | .cutRequest
  | .sealTimer
  | .cutMessage
  | .coreCut
  | .sealRecordAck
  | .sealMarker
  | .sealedMessage
  | .uncorrectableError
  | .rollback
  | .linkFailure
  | .portTraining
  | .save
  | .restore
  | .resume
  | .endThread
  | .segsync
  | .tlbsync
  | .remove
  | .domsync
  | .prienable
  | .wqcfgWrite
  | .cassignWrite
  | .sealctlWrite
  | .undocfgWrite
  | .registerWrite
  | .deviceReset
  | .healthUpdate
  | .illegalEncodingIssue
  | .codeMissFetch
  | .placementTableWrite
  | .portCoreCodePlacement
  | .tilePayloadComplete
  | .hbmRefresh => none

/-- Read one row's word as the opcode table numbers it (DESIGN CHOICE, log 2): a row of the table is one word of a bundle, and the
table does not say which. The C-word map is tried first when bits [30:24] are zero, the A-word map first otherwise;
the other map is tried where the first refuses. Bits from `nbits` up are zero; bits [63:32] are the literal of a
C-word. -/
def decodeTableWord (nbits w : Nat) : Option Instr :=
  let v := w % 2 ^ nbits
  let lo := BitVec.ofNat 32 v
  let hi := BitVec.ofNat 32 (v / 2 ^ 32)
  let c := (decodeC lo hi).toOption
  let a := (decodeA lo).toOption
  if fieldOf lo 24 7 == 0 then c.orElse fun _ => a else a.orElse fun _ => c

end Sys2Proof
end

