-- ==== Sys2Proof/Config.lean ====
section
/-! DEFINITION. What the spec leaves open (free values: opaque constants without a body) and the
figures of the part that the spec fixes. -/

namespace Sys2Proof.Config

/-- Free value (DESIGN CHOICE, log 3): which deliverable message, if any, is taken next. The spec puts no order
between events of different sources (R19) and gives no message latency. Applied to the draw counter
`State.draws`. -/
opaque choose : Nat → Nat

/-- Free value (DESIGN CHOICE, log 4): the signature of an attestation report (R392), a function of the signed
bytes; the key is the device's own (R391). -/
opaque sign : List Byte → List Byte

/-- Free value (DESIGN CHOICE, log 4): the 57-byte identity public key derived at boot number `n` (R391, R392). -/
opaque identityKey : Nat → List Byte

/-- Free value (DESIGN CHOICE, log 4): SHAKE256 digests (64 bytes) of the firmware image and of the configuration
image in flash (R390, R392). -/
opaque imageDigest : Bool → List Byte

/-- Free value (DESIGN CHOICE, log 4): outcome of checking the firmware copies and the configuration image at boot
number `n` (R390): (a copy of the firmware is good, the configuration is good). -/
opaque bootCheck : Nat → Bool × Bool

/-- Free value (DESIGN CHOICE, log 5): months of predicted end of life that firmware computes at draw `n` (R393). -/
opaque endOfLife : Nat → Nat

/-- Free value (DESIGN CHOICE, log 5): the health indicator `i` (R393) as it stands at health update `n`. -/
opaque healthReading : Nat → Nat → Nat

/-- Free value (DESIGN CHOICE, log 5): the spare rows of a stack for row repair (R389, R393). -/
opaque spareRows : Nat → Nat

/-- Free values (DESIGN CHOICE, log 47): what the configuration image of boot number `n` sets (R390 step 5): PWRLIM, the
undo fraction, the enabled fabric ports, and the link width of a port. -/
opaque bootPower : Nat → Nat
@[inherit_doc bootPower] opaque bootUndo : Nat → BitVec 3
@[inherit_doc bootPower] opaque bootPorts : Nat → BitVec 8
@[inherit_doc bootPower] opaque bootWidth : Nat → Nat → Nat

/-- Free value (DESIGN CHOICE, log 47): the fabric ports that train at boot number `n` (R388, R390 step 6). -/
opaque portsTrained : Nat → BitVec 8

/-- Free value (DESIGN CHOICE, log 5): the VCORE current in amperes that the regulators report at draw `n` (R385). -/
opaque vcoreCurrent : Nat → Nat

/-- Free value (DESIGN CHOICE, log 6): cores whose thermal ranking entry is listed, coolest first, for `n` the
cycle × 8 + the die (R247: the table's contents are the thermal controller's). -/
opaque thermalRank : Nat → List Nat

/-- Cores of the package (R7). -/
def numCores : Nat := 2304
/-- Cores of one die (R7). -/
def dieCores : Nat := 288
/-- Scratchpad bytes per core (R7, R119). -/
def spadBytes : Nat := 786432
/-- Slots of a core (R7). -/
def numSlots : Nat := 16
/-- Memory ports of the package (R7). -/
def numPorts : Nat := 256
/-- Core clock cycles per microsecond at the nominal clock (R2). -/
def cyclesPerUs : Nat := 2700

end Sys2Proof.Config
end

