-- ==== Sys2Proof/Machine/State.lean ====
section
/-! DEFINITION. The state of the device as plain data: threads in slots, cores, memory ports, the memories, the launch
path, the recovery machinery and system software's registers; the reasons a step can stop; and the state after reset. -/

namespace Sys2Proof.Machine

/-- A sparse byte memory in canonical form: addresses strictly rising, no entry equal to 0, which is what an unlisted
address reads as (DESIGN CHOICE, log 1). -/
abbrev Memory := List Host.Cell

/-- The canonical form of `Memory`. -/
def Memory.wf (m : Memory) : Bool := go none m
where
  go : Option Nat → Memory → Bool
    | _, [] => true
    | b, c :: r => (match b with | none => true | some a => decide (a < c.1)) && c.2 != 0 && go (some c.1) r

/-- A table by number; the accessors of Ops.lean keep its keys strictly rising. -/
abbrev Table (α : Type) := List (Nat × α)

/-- A segment descriptor (R124). -/
structure Seg where
  base : Word
  attr : Word
  deriving DecidableEq, Repr

/-- Why a slot is parked: BSTATE's fields (R244). -/
structure Park where
  kind : Nat
  obj : Nat := 0
  pdev : Nat := 0
  pcore : Nat := 0
  pslot : Nat := 0
  deriving DecidableEq, Repr

/-- An address monitor (R236). -/
structure Mon where
  armed : Bool
  line : Nat
  pend : Bool
  deriving DecidableEq, Repr

/-- A barrier record (R239): the object's global address, EPOCH and GEN. -/
structure BarRec where
  addr : Word
  epoch : Nat
  gen : Nat
  deriving DecidableEq, Repr

/-- A barrier object's mark (R239). -/
structure Mark where
  mark : Bool
  epoch : Nat
  cause : Nat
  deriving DecidableEq, Repr

/-- A `barwait` under way (R242): its object's address and its bundle, the EPOCH and GEN it waits on, fixed by its first
sample, and the reason it has been released with (R239). For an object homed elsewhere: whether its tag is checked there
(R128), the cycle the combiner last asked, and the mark and GEN it last read. -/
structure BarX where
  addr : Word
  org : Origin
  start : Option (Nat × Nat)
  freed : Option Nat
  far : Bool
  check : Bool
  asked : Nat
  seen : Option (Mark × Nat)
  deriving DecidableEq, Repr

/-- A bound stream register (R151–R153): its descriptor, the global address of granule 0, what was captured, the
position, granules read with a mark whether a pop may take them yet, push entries in use, and the cycle it was bound. -/
structure Stream where
  desc : Word
  addr : Word
  tag : BitVec 4
  tagx : Bool
  noundo : Bool
  pos : Nat
  avail : List (Nat × VReg × Bool)
  pushes : Nat
  gen : Nat
  deriving DecidableEq, Repr

/-- What holds a slot's next bundle after its bundle has issued (R94, R210, R214, R219, R243). -/
inductive Hold where
  | closing (ey : Nat)
  | deleg (ey carrier : Nat)
  | catching (ey : Nat)
  | push (reg : Nat)
  | full (s : BitVec 16) (v : BitVec 32) (op : Option Nat) (q : Option (Nat × Nat))
  deriving DecidableEq, Repr

/-- A departure under way (R289): `via` is the global address whose home it goes to (R16), and `ships` marks a thermal
displacement (R297). -/
structure Departure where
  dest : Nat
  kind : Nat
  addr : Word
  sent : Bool
  resv : Bool
  parkAt : Nat
  via : Word
  ships : Bool
  deriving DecidableEq, Repr

/-- Where the thread of a slot stands (R94, R355). -/
inductive Run where
  | running | halted | stopped
  deriving DecidableEq, Repr

/-- Progress of an exchange whose instruction parks until its answer (R322, R326, R366). -/
inductive Exchange where
  | idle | waiting | answered (ok : Bool)
  deriving DecidableEq, Repr

/-- A thread in a slot: `asleep` (the model's own) says that the slot's next bundle met a park condition as this cycle began (R94, log 53)
(R11, R78, R124, R133, R135, R147, R171, R172, R178, R225, R244, R258, R296, R300, R359, R365). -/
structure Thread where
  tid : Nat
  task : Nat
  pdid : Nat
  pc : Word32
  s : Vector Word 16
  sEmpty : BitVec 16
  p : BitVec 8
  v : Vector VReg 32
  vEmpty : BitVec 32
  vm : Vector Word 8
  sg : Vector Seg 8
  sgBusy : BitVec 8
  d : Vector Nat 4
  status : Word
  fflags : BitVec 5
  twin : Word
  tcfg : Vector Word 8
  msca : Word
  mscb : Word
  nullmap : Word
  spawnlim : BitVec 8
  pwbase : Word
  pwsize : Word
  segmap : Word
  evec : Word
  epc : Word
  ecause : Word
  eaddr : Word
  edetail : Word
  rt : Vector (BitVec 4 × BitVec 32) 32
  altlast : Nat
  mon : Vector Mon 4
  barRec : Option BarRec
  streams : Vector (Option Stream) 4
  srep : Option Nat
  outst : Vector Nat 4
  aout : Nat
  seq : BitVec 32
  localOut : Nat
  mwait : Option (Option Nat × RegDst)
  barX : Option BarX
  sealTarget : Option (BitVec 32)
  stamp : Nat
  earliest : Nat
  run : Run
  rpc : Word32
  parked : Bool
  parkSince : Nat
  hold : Option Hold
  depart : Option Departure
  travels : Nat
  faulted : List Nat
  parent : Option (Nat × Nat)
  asleep : Bool
  commitX : Exchange
  codeX : Exchange
  codeBuf : List Byte
  handler : Option AMsg
  ending : Bool
  deriving DecidableEq, Repr

/-- A fixed-latency result on its way (R102): its slot's thread, destination, value, merge mask (512 bits, ones where
the value is written), due cycle and the flags it raises (R70). -/
structure DueWrite where
  slot : Nat
  tid : Nat
  dst : RegDst
  val : Nat
  mask : Nat
  due : Nat
  flags : BitVec 5
  deriving DecidableEq, Repr

/-- A queue register (R232): configuration and entries in order, each under the number it was reserved with, empty
until filled (R81). -/
structure Queue where
  cfg : Word
  next : Nat
  entries : List (Nat × Option Word)
  deriving DecidableEq, Repr

/-- Lifecycle of an eyelet (R195). -/
inductive Life where
  | unbound | listen | connecting | opened | closing | closed | faulted
  deriving DecidableEq, Repr

/-- A loaded lace (R196–R203): the image, both digests, the canonical form, the ring's slots, slot bytes and scratchpad
offset, and GROUP. -/
structure Lace where
  image : List Byte
  own : Word
  dual : Word
  form : List Byte
  ring : Nat
  slotLen : Nat
  ringAt : Nat
  group : Bool
  deriving DecidableEq, Repr

/-- A peer of an eyelet (R194, R228): its location, its CONNID and this eyelet's for the connection, its PDID, the allowance
towards it, and, marked in transit, the traffic held for it (R221). A channel has one; a group eyelet up to eight. -/
structure Member where
  loc : EyLoc
  connid : Nat
  own : Nat
  pd : Nat
  allow : Nat
  transit : Bool
  heldOut : List Ev
  deriving DecidableEq, Repr

/-- An eyelet (R194, R213): `pend` is an image read but not yet loaded, `head` the ring slot of its first message, `sent`
says a group eyelet has sent, `deleg` who waits for MARK and on which carrier (a context save: 16 and the MARKs to come), and
`slots` the reserved link entries (R227); `target` is who an `econn` under way asks (R229). -/
structure Eyelet where
  life : Life
  lace : Option Lace
  loading : Bool
  pend : List Byte
  owner : Nat
  state : Nat
  members : List Member
  topx : Bool
  ring : List ChMsg
  head : Nat
  grant : Option Nat
  connid : Nat
  reason : Nat
  psu : Bool
  pstate : Nat
  pdetail : Word
  held : Option ConnReq
  sent : Bool
  deleg : Option (Nat × Nat)
  slots : BitVec 16
  target : Option EyLoc
  deriving DecidableEq, Repr

/-- A code directory entry (R295). -/
structure CodeEntry where
  task : Nat
  seg : Nat
  origin : Nat
  len : Nat
  code : Word
  free : Bool
  deriving DecidableEq, Repr

/-- A tile named by an operation, with the physical tile and the TCFG captured at issue (R174). -/
structure TileRef where
  phys : Nat
  cfg : Word
  deriving DecidableEq, Repr

/-- An operation of the matrix queue or the select queue (R175–R178, R188): the unit, slot and thread it belongs to, the
A-word, function and options, the tiles in the order D, A, B, TM; its steps; what it sampled when it started; the scale
bytes read so far and how many scale reads are still out, with the cycle of the last; and, restored from an image (R192),
the step it started from and the accumulators of its block. -/
structure MOp where
  id : Nat
  slot : Nat
  tid : Nat
  org : Origin
  fn : Nat
  opt : BitVec 9
  word : BitVec 32
  dst : TileRef
  srcs : List TileRef
  remote : Option RCmd
  steps : Nat
  done : Nat
  lastAt : Nat
  started : Bool
  topx : Bool
  rm : Nat
  msca : Word
  mscb : Word
  scales : List Byte × List Byte
  scaleLeft : Nat
  scaleAt : Nat
  flags : BitVec 5
  failed : Bool
  base : Nat
  accs : List Nat
  deriving DecidableEq, Repr

/-- What a load-path operation or a tile payload does with its tile (R183, R191, R210). -/
inductive LoadKind where
  | tld | tst | tsave | trest | payloadOut | payloadIn
  deriving DecidableEq, Repr

/-- A pending load-path operation or tile payload (R179, R184): its scratchpad offset, and the bytes read so far. -/
structure LOp where
  id : Nat
  kind : LoadKind
  who : SlotRef
  org : Origin
  name : Nat
  tile : TileRef
  off : Nat
  buf : List Byte
  deriving DecidableEq, Repr

/-- A capability entry (R189): `away` names the granting thread while it is saved out (R192), and `left` says that the entry
has moved to another core with it (R369). -/
structure Cap where
  v : Bool
  away : Option Nat
  slot : Nat
  frompd : Nat
  tmask : BitVec 8
  fmask : BitVec 16
  key : Word32
  left : Bool
  deriving DecidableEq, Repr
/-- An entry that nothing has written. -/
def noCap : Cap := ⟨false, none, 0, 0, 0, 0, 0, false⟩

/-- A combiner entry (R241): the barrier's address, the slots it waits for and those that have arrived, and whether one of
them arrived through a segment that does not skip the tag check (R128). -/
structure Comb where
  id : Nat
  addr : Word
  task : Nat
  reg : BitVec 16
  arr : BitVec 16
  sent : Bool
  check : Bool
  orgs : List (Nat × Nat × Origin)
  deriving DecidableEq, Repr

/-- A join entry (R317). -/
structure JoinE where
  live : Nat
  fail : Nat
  deriving DecidableEq, Repr

/-- A copy in flight (R269–R271). `rowb` is 0 for `copy`; `list` is the index list's scratchpad offset, `gran` the next
granule or row, `buf` what has been read of it, `put` how much of that is written, `owned` the granules it still owns,
`waits` the thread's local accesses queued before it and not yet performed, and `pushWaits` its stream pushes issued before
it and not yet queued then (R270); `srcOff` is s[IDXS] of a `copyg`, on which each row's bound is checked (R271). -/
structure CopyOp where
  id : Nat
  who : SlotRef
  org : Origin
  tok : Nat
  dst : Word
  src : Word
  len : Nat
  rowb : Nat
  list : Nat
  gran : Nat
  buf : List Byte
  fail : Option (Nat × Nat × Nat)
  owned : List Nat
  put : Nat
  waits : Nat
  pushWaits : Nat
  due : Bool
  srcLimit : Nat
  srcBase : Word
  srcOff : Int
  dstTagx : Bool
  dstNoundo : Bool
  srcTagx : Bool
  pdid : Nat
  deriving DecidableEq, Repr

/-- A replay filter entry of a home (R260): the source, LAST and the cached replies. -/
structure FilterE where
  tid : Nat
  last : BitVec 32
  cached : List (BitVec 32 × Reply)
  deriving DecidableEq, Repr

/-- A parameter window and coppice table a core holds for a task (R135, R296). -/
structure Window where
  task : Nat
  pwbase : Word
  pwsize : Word
  segmap : Word
  deriving DecidableEq, Repr

/-- A placement table entry (R16): physical core, or fabric coordinates as a domain index. -/
structure Place where
  valid : Bool
  transit : Bool
  phys : Nat
  deriving DecidableEq, Repr

/-- Who asks a bank of the scratchpad for its turn, highest first (R121). -/
inductive BankUser where
  | logger | loc | net | copy
  deriving DecidableEq, Repr
/-- The scratchpad's banks (R121): the banks served in the cycle named, those of them that served the network interface and
the copy engine, and in how many consecutive cycles the head of the local queue, the network interface and the copy engine
have lost each bank. -/
structure Banks where
  cycle : Nat
  used : BitVec 32
  byNet : BitVec 32
  byCopy : BitVec 32
  locLost : Vector Nat 32
  netLost : Vector Nat 32
  copyLost : Vector Nat 32
  deriving DecidableEq, Repr

/-- What the network interface still has to do at its core's scratchpad, besides the requests held there (R121): bytes of
the skid ring, with their offsets (R294); a barrier update by a counted acknowledgement (R263) or a combined arrival (R241);
and a combiner's read of a barrier object for the slot and thread that wait (R242). -/
inductive NetJob where
  | bytes (cells : List (Nat × Byte))
  | counted (r : Req)
  | combined (m : CombMsg)
  | reread (core slot tid : Nat) (addr : Word)
  deriving DecidableEq, Repr

/-- What waits for a turn of the deque unit (R315): a push of `fork`, the owner's take for a slot, or a steal by a thief in
whose order the victim has the place given (R316). -/
inductive DequeOp where
  | push (f : ForkRec)
  | take (slot : Nat)
  | steal (thief place : Nat)
  deriving DecidableEq, Repr

/-- A core; `ringTail` is the skid ring's next entry (R294), and `leaving` holds, by eyelet, the peers marked in transit of
connections that have ended, with the traffic held for them (R221) (R7, R94–R101, R105, R137, R170, R176, R189, R194, R232,
R241, R292–R295, R315–R317, R331, R353). -/
structure Core where
  v : Bool
  amen : Bool
  out : Bool
  pdid : Nat
  cassignNext : Option Word
  threads : Table Thread
  created : Nat
  issuepol : Word
  rottab : Word
  issuechk : BitVec 2
  last : Nat
  greedy : Option Nat
  waits : Vector Nat 16
  yielded : BitVec 16
  bstates : Vector Word 16
  due : List DueWrite
  localFree : Nat
  localAt : Nat
  banks : Banks
  divBusy : BitVec 16
  queues : Vector Queue 16
  eyelets : Vector Eyelet 16
  leaving : List (Nat × Member)
  codeDir : List CodeEntry
  tagTable : Table (BitVec 54 × BitVec 32)
  heapUntil : Nat
  vecUntil : Nat
  tiles : Memory
  mops : List MOp
  selops : List MOp
  rcmdWait : List MOp
  lops : List LOp
  nextOp : Nat
  matAt : Nat
  selAt : Nat
  caps : Vector Cap 16
  combs : List Comb
  aqlim : Nat
  skidctl : Word
  stealdom : BitVec 2
  thermslot : Word
  aq : List Packet
  ring : List Packet
  ringTail : Nat
  resv : List Packet
  granted : List Packet
  diverted : List Ev
  amq : List AMsg
  fifo : List (Nat × Nat)
  fifoAsked : Bool
  deque : List ForkRec
  dequeFree : Nat
  dequeQ : List DequeOp
  stolen : List ForkRec
  joins : Table JoinE
  stealWait : Bool
  copies : List CopyOp
  nextCopy : Nat
  rinCur : BitVec 32
  sealed : BitVec 32
  segCache : List (Nat × List Seg)
  place : Table Place
  devPlace : Table Place
  fwd : Table (Nat × Nat)
  spawnBuf : List Packet
  filter : List FilterE
  unacked : List Req
  amOut : List AMsg
  heldReqs : List Req
  netJobs : List NetJob
  windows : List Window
  heldTraps : List (List Byte × Nat)
  trapWait : List (Nat × Nat × List (List Byte))
  gone : List (Nat × Nat × Nat × Word32)
  undoBytes : Nat
  undoOver : Nat
  paused : Bool
  arrivals : Nat
  deriving DecidableEq, Repr

/-- A cached translation of a port, with the place of its entry (R254). -/
structure Tlb where
  pdid : Nat
  base : Nat
  size : Nat
  leaf : Word
  eport : Nat
  eoff : Nat
  deriving DecidableEq, Repr

/-- A request waiting at a port: for a walk, on a page fault, or for undo room, with the page (va / 2 MiB) it waits for
(R254, R255, R342). -/
structure HeldReq where
  req : Req
  fault : Bool
  undo : Bool
  page : Nat
  deriving DecidableEq, Repr

/-- A port endpoint (R222–R224): its peer, whether it serves a write stream, the tile shape, the TOPX and PDID recorded at
connection, BASE and STEP, the state of its dual lace, its next tile, the ring of received messages, whether a request of
its tile is on its way to the request's home (R13), what those before it were answered, and whether it waits for its close to
be acknowledged. -/
structure PEnd where
  used : Bool
  peer : Option Member
  write : Bool
  shape : Word
  topx : Bool
  pdid : Nat
  base : Word
  step : Word
  state : Nat
  next : Nat
  ring : List ChMsg
  asked : Bool
  got : List (List Byte)
  closing : Bool
  connid : Nat
  deriving DecidableEq, Repr

/-- A memory port; `notified` holds the sources that were sent FAULT, with a mark when a WAKE is due (R255), and `offers` the
domain and page of the fault records a full page-request unit has not taken, in the order they were raised (R19, R256)
(R251, R254–R256, R260, R272, R342, R389). -/
structure Port where
  tlb : List Tlb
  held : List HeldReq
  walks : List (Nat × Nat)
  notified : List (SlotRef × Bool)
  ends : Vector PEnd 16
  dropHint : BitVec 32
  filter : List FilterE
  undoBytes : Nat
  undoAsked : Bool
  refused : List Req
  offers : List (Nat × Nat)
  refresh : Bool
  arrivals : Nat
  deriving DecidableEq, Repr

/-- A domain descriptor as the device holds it (R352), with its segment set and launch placement table. -/
structure Domain where
  v : Bool
  grant : Bool
  supv : Bool
  vf : Nat
  supcore : Nat
  chwdog : Nat
  thwdog : Nat
  tqlogn : Nat
  ptroot : Word
  segset : Word
  tqbase : Word
  lplace : List Nat
  deriving DecidableEq, Repr

/-- A work queue (R304, R308). -/
structure WorkQ where
  base : Word
  comp : Word
  cfg : Word
  compPos : Nat
  compPhase : Bool
  taken : Nat
  deriving DecidableEq, Repr

/-- An entry of the dependence table (R310); an unlisted entry is FREE. -/
inductive Dep where
  | early (n : Nat)
  | held (c : Nat) (task : Nat)
  deriving DecidableEq, Repr

/-- A task (R309, R312, R318–R320, R326). -/
structure Task where
  pdid : Nat
  prio : Nat
  queue : Nat
  ringIdx : Nat
  lr : LaunchRec
  image : List Word
  ready : Bool
  age : Nat
  placed : Bool
  group : Nat
  next : Nat
  live : Nat
  trapped : Nat
  committed : Bool
  portCode : Exchange
  lastPlaced : Nat
  lastDiscard : Nat
  finished : Bool
  deriving DecidableEq, Repr

/-- An undo record or zero mark (R340, R341): interval, home (a core number, or 4096 + port), granule, old bytes
(none for a zero mark), tag and barrier fields; `code` marks an instruction-store granule. -/
structure UndoRec where
  rin : BitVec 32
  home : Nat
  gran : Nat
  code : Bool
  old : Option (List Byte)
  tag : BitVec 4
  mark : Bool
  cause : Nat
  epoch : Nat
  deriving DecidableEq, Repr

/-- A log entry of KIND 3 (R336, R345): interval, home, arrival number and the arrival. -/
structure LogRec where
  rin : BitVec 32
  home : Nat
  num : Nat
  ev : Ev
  deriving DecidableEq, Repr

/-- An entry of the external write buffer (R343): interval, target (host memory, or device memory of a PDID), bytes,
whether it is a completion record and of which virtual function. -/
structure ExtWrite where
  rin : BitVec 32
  host : Bool
  pdid : Nat
  addr : Nat
  data : List Byte
  comp : Option Nat
  deriving DecidableEq, Repr

/-- A message in flight on a path: source, destination, and the step its arrival is (R19: FIFO per path). -/
structure NetMsg where
  src : Nat
  dst : Nat
  rin : BitVec 32
  ev : Ev
  deriving DecidableEq, Repr

/-- A page record of the page-request unit, with the cycle it was raised in (R256). -/
structure PageReq where
  pdid : Nat
  va : Nat
  ports : List Nat
  group : Option Nat
  raised : Nat
  deriving DecidableEq, Repr

/-- The launch unit's part of a seal record (R338). -/
structure LaunchSnap where
  wqs : Table WorkQ
  deps : Table Dep
  tasks : Table Task
  ages : Nat
  requests : List Nat
  deriving DecidableEq, Repr

/-- A seal record (R338): the cut, and the state of the cores, ports, launch unit and PCIe home that made it, with the link
reservations, the writes the PCIe home holds (R344), the requests its cores are to send again (R260), and their timed steps
still to come. -/
structure SealRec where
  cut : BitVec 32
  cores : Table Core
  ports : Table Port
  launch : Option LaunchSnap
  hostFilter : List FilterE
  linkSlots : Table Nat
  hostHeld : List Req
  waits : List (Nat × Req)
  agenda : List (Nat × Ev)
  deriving DecidableEq, Repr

/-- How the issuing of a word goes (R45): on its own; as a probe that only finds out what would happen; as the effect of
a word whose checks have been made; or as what a word does each time it parks at stage 4, or beside a trap of its own. -/
inductive Mode where
  | alone | probe | commit | parking | trapping
  deriving DecidableEq, Repr

/-- The registers a word reads and writes at issue (R46, R79, R104): reads with a mark whether it is the guard, and
writes with their latency, none for a tracked result; the queues it pops and pushes, and the bound stream registers (R153). -/
structure Access where
  reads : List (RegDst × Bool)
  writes : List (RegDst × Option Nat)
  pops : List Nat
  pushes : List Nat
  streamPops : List Nat := []
  streamPushes : List Nat := []
  deriving DecidableEq, Repr

/-- What a probe found (R45): a decode-stage trap, accesses, an operand park, an issue trap, a resource park, and whether
the word takes the queue entries it names. -/
structure Finding where
  acc : Access
  takes : Bool
  kindTrap : Option TrapInfo
  park2 : Option Park
  trap3 : Option TrapInfo
  park4 : Option Park
  deriving DecidableEq, Repr

/-- The bundle being issued: its core and slot, how, the queues that its words before this one pop, the thread and the core's
queues as both words read them at issue (R46, R60), the bundle's address and bits, and the finding of the last probe: for the C-word, that of the A-word beside it. -/
structure Ctx where
  core : Nat
  slot : Nat
  mode : Mode
  cPops : List Nat
  pre : Thread
  queues : Vector Queue 16
  org : Origin
  found : Finding
  deriving DecidableEq, Repr

/-- Part of a host write into device memory that waits for room at its home (R342, R344, R345): the domain, the address
and the bytes, within one granule. -/
structure HostPut where
  pdid : Nat
  addr : Word
  data : List Byte
  deriving DecidableEq, Repr

/-- A command of system software that waits its turn (R354): its step, the SYSARG it was written with, and whether its
operands are good. -/
structure SysCmd where
  ev : Ev
  arg : Word
  ok : Bool
  deriving DecidableEq, Repr

/-- The state of the device. `agenda` holds steps due at a cycle in order; `net` messages in flight; `todo` the cores that
have yet to choose a slot in this cycle; `subj` the unit a step without fields concerns; `draws` numbers the free values
taken (the model's own); `markers` the seal markers that have come from other devices (R337); `saving` is the slot a SAVE or END command has stopped (R354, R367). -/
structure State where
  cycle : Nat
  agenda : List (Nat × Ev)
  todo : List Nat
  net : List NetMsg
  draws : Nat
  ctx : Ctx
  subj : Subj
  cores : Table Core
  ports : Table Port
  spad : Memory
  spadTag : Memory
  hbm : Memory
  hbmTag : Memory
  host : Memory
  istore : Memory
  marks : Table Mark
  devIdx : Nat
  domTable : Table (List Word)
  domains : Table Domain
  wqs : Table WorkQ
  tasks : Table Task
  deps : Table Dep
  ages : Nat
  requests : List Nat
  sysarg : Word
  sysstat : Word
  sysq : List SysCmd
  sealctl : Word
  undocfg : Word
  pwrlim : Nat
  members : List Nat
  cutNo : BitVec 32
  cutWait : List CutUnit
  sealedNo : BitVec 32
  cutStart : Nat
  saving : Option (Nat × Nat)
  cutPending : List Nat
  markers : List (Nat × BitVec 32)
  seals : List SealRec
  undo : List UndoRec
  logs : List LogRec
  ewb : List ExtWrite
  ewbHeld : List Req
  ewbLate : List ExtWrite
  hostWait : List HostPut
  hostFilter : List FilterE
  filterWait : List (Nat × Req)
  halted : Bool
  msix : List (Nat × Nat)
  hostReads : List (List Byte)
  pri : List PageReq
  priGroups : Nat
  priOff : List Nat
  priAlloc : Table Nat
  linkSlots : Table Nat
  portUp : BitVec 8
  bootstat : Nat
  boots : Nat
  mailbox : List (Nat × List Byte)
  reports : Table (List Byte)
  eol : Nat
  throttled : Bool
  snagPrev : List (List Nat)
  mgmt : Table Word
  deriving DecidableEq, Repr

/-- Why the machine stops. -/
inductive Fault where
  /-- Raised by a word's meaning when no thread stands in the slot the bundle is issued from: nothing issues from an
  empty slot (R94). Safe: the device has no such step. -/
  | noThread
  /-- Raised by every step while BOOTSTAT shows a failed boot or a rollback has failed, but for a reset and the host's reads
  of a base address region (R348, R386, R390). Safe: nothing else of the device runs then. -/
  | deviceDown
  deriving DecidableEq, Repr

/-- Why a step has no meaning. -/
inductive Refusal where
  /-- An instruction whose meaning has not been written. Safe. -/
  | notModelled (mnemonic : String)
  deriving DecidableEq, Repr

/-- A segment register at reset (R124). -/
def Seg.reset : Seg := ⟨0, 0⟩

/-- A thread at creation (R78, R234, R313): every register zero, counters zero, ALTLAST 15. -/
def Thread.reset : Thread where
  tid := 0
  task := 0
  pdid := 0
  pc := 0
  s := Vector.replicate 16 0
  sEmpty := 0
  p := 0x80
  v := Vector.replicate 32 0
  vEmpty := 0
  vm := Vector.replicate 8 0
  sg := Vector.replicate 8 Seg.reset
  sgBusy := 0
  d := Vector.replicate 4 0
  status := 0
  fflags := 0
  twin := 0
  tcfg := Vector.replicate 8 0
  msca := 0
  mscb := 0
  nullmap := 0
  spawnlim := 0
  pwbase := 0
  pwsize := 0
  segmap := 0
  evec := 0
  epc := 0
  ecause := 0
  eaddr := 0
  edetail := 0
  rt := Vector.replicate 32 (0, 0)
  altlast := 15
  mon := Vector.replicate 4 ⟨false, 0, false⟩
  barRec := none
  streams := Vector.replicate 4 none
  srep := none
  outst := Vector.replicate 4 0
  aout := 0
  seq := 0
  localOut := 0
  mwait := none
  barX := none
  sealTarget := none
  stamp := 0
  earliest := 0
  run := .running
  rpc := 0
  parked := false
  parkSince := 0
  hold := none
  depart := none
  travels := 0
  faulted := []
  parent := none
  asleep := false
  commitX := .idle
  codeX := .idle
  codeBuf := []
  handler := none
  ending := false

/-- An eyelet at reset: UNBOUND, unlaced, unowned (R194, R213). -/
def Eyelet.reset : Eyelet where
  life := .unbound
  lace := none
  loading := false
  pend := []
  owner := 0
  state := 0
  members := []
  topx := false
  ring := []
  head := 0
  grant := none
  connid := 0
  reason := 0
  psu := false
  pstate := 0
  pdetail := 0
  held := none
  sent := false
  deleg := none
  slots := 0
  target := none

/-- A core at reset (R96, R97, R98, R100, R105, R232, R239, R293, R294, R316, R331, R353). -/
def Core.reset : Core where
  v := false
  amen := false
  out := false
  pdid := 0
  cassignNext := none
  threads := []
  created := 0
  issuepol := 0
  rottab := 0xFEDCBA9876543210
  issuechk := 0
  last := 15
  greedy := none
  waits := Vector.replicate 16 0
  yielded := 0
  bstates := Vector.replicate 16 0
  due := []
  localFree := 0
  localAt := 0
  banks := ⟨0, 0, 0, 0, Vector.replicate 32 0, Vector.replicate 32 0, Vector.replicate 32 0⟩
  divBusy := 0
  queues := Vector.replicate 16 ⟨0, 0, []⟩
  eyelets := Vector.replicate 16 Eyelet.reset
  leaving := []
  codeDir := []
  tagTable := []
  heapUntil := 0
  vecUntil := 0
  tiles := []
  mops := []
  selops := []
  rcmdWait := []
  lops := []
  nextOp := 0
  matAt := 0
  selAt := 0
  caps := Vector.replicate 16 noCap
  combs := []
  aqlim := 64
  skidctl := 0x000B400000000100
  stealdom := 2
  thermslot := 0
  aq := []
  ring := []
  ringTail := 0
  resv := []
  granted := []
  diverted := []
  amq := []
  fifo := []
  fifoAsked := false
  deque := []
  dequeFree := 0
  dequeQ := []
  stolen := []
  joins := []
  stealWait := false
  copies := []
  nextCopy := 0
  rinCur := 0
  sealed := 0xFFFFFFFF
  segCache := []
  place := []
  devPlace := []
  fwd := []
  spawnBuf := []
  filter := []
  unacked := []
  amOut := []
  heldReqs := []
  netJobs := []
  windows := []
  heldTraps := []
  trapWait := []
  gone := []
  undoBytes := 0
  undoOver := 0
  paused := false
  arrivals := 0

/-- A free port endpoint (R222). -/
def PEnd.reset : PEnd := ⟨false, none, false, 0, false, 0, 0, 0, 0, 0, [], false, [], false, 0⟩

/-- A memory port at reset. -/
def Port.reset : Port := ⟨[], [], [], [], Vector.replicate 16 PEnd.reset, 0, [], 0, false, [], [], false, 0⟩

/-- A work queue at reset (R304): EN 0, PHX 1, LOGN 4. -/
def WorkQ.reset : WorkQ := ⟨0, 0, 0x4000004000000000, 0, true, 0⟩

/-- A task record with nothing in it. -/
def LaunchRec.zero : LaunchRec := ⟨0, 0, 0, 0, 0, 0, 0, 0, 0, 0, 0, 0, 0, 0, 0, 0, [], true⟩

/-- An access of nothing. -/
def Access.none : Access := ⟨[], [], [], [], [], []⟩

/-- A domain descriptor not yet read: V = 0 (R352). -/
def Domain.none : Domain := ⟨false, false, false, 0, 0, 0, 0, 4, 0, 0, 0, []⟩

/-- A finding of nothing. -/
def Finding.none : Finding := ⟨Access.none, true, .none, .none, .none, .none⟩

/-- The device right after reset: interval 0, nothing sealed, no descriptor held, no core assigned, memories empty
(R331, R332, R342, R352, R353, R364, R385), with the clocked steps the spec times from reset: the seal timer (R333),
the power sample (R385), the snag scans (R246) and the hourly health update (R393). -/
def State.reset : State where
  cycle := 0
  agenda := [(16384, ⟨.snagScan, {}⟩), (270000, ⟨.powerSample, {}⟩), (5400000, ⟨.sealTimer, {}⟩),
    (9720000000000, ⟨.healthUpdate, {}⟩)]
  todo := []
  net := []
  draws := 0
  ctx := ⟨0, 0, .alone, [], Thread.reset, Core.reset.queues, ⟨0, 0, false, false⟩, Finding.none⟩
  subj := {}
  cores := []
  ports := []
  spad := []
  spadTag := []
  hbm := []
  hbmTag := []
  host := []
  istore := []
  marks := []
  devIdx := 0
  domTable := []
  domains := []
  wqs := []
  tasks := []
  deps := []
  ages := 0
  requests := []
  sysarg := 0
  sysstat := 0
  sysq := []
  sealctl := 0xC0000000000007D0
  undocfg := 2
  pwrlim := 7500
  members := [0]
  cutNo := 0
  cutWait := []
  sealedNo := 0xFFFFFFFF
  cutStart := 0
  saving := none
  cutPending := []
  markers := []
  seals := []
  undo := []
  logs := []
  ewb := []
  ewbHeld := []
  ewbLate := []
  hostWait := []
  hostFilter := []
  filterWait := []
  halted := false
  msix := []
  hostReads := []
  pri := []
  priGroups := 0
  priOff := []
  priAlloc := []
  linkSlots := []
  portUp := 0xF5
  bootstat := 1
  boots := 0
  mailbox := []
  reports := []
  eol := 0
  throttled := false
  snagPrev := []
  mgmt := []

end Sys2Proof.Machine
end

