-- ==== Sys2Proof/Machine/Ops.lean ====
section
/-! DEFINITION. The named operations every meaning is written over: tables and sparse memories, the accessors of cores,
threads and registers, queues, timed steps and messages, the scratchpad and port memories with their undo records,
monitors and barrier marks, page walks, trap records and taking a trap, parking, and the issue checks of R45. -/

namespace Sys2Proof.Machine

/-- The outcome of a meaning. -/
abbrev Out := Host.Outcome State Fault Refusal

/-! Tables and vectors. -/

/-- The entry of a table, if listed. -/
def tget {α : Type} (t : Table α) (k : Nat) : Option α := (t.find? (·.1 == k)).map (·.2)

/-- Writes an entry; keys stay strictly rising. -/
def tset {α : Type} : Table α → Nat → α → Table α
  | [], k, v => [(k, v)]
  | e :: r, k, v => if e.1 < k then e :: tset r k v else if e.1 = k then (k, v) :: r else (k, v) :: e :: r

/-- Removes an entry. -/
def tdel {α : Type} (t : Table α) (k : Nat) : Table α := t.filter (·.1 != k)

/-- Applies a function to an entry, if listed. -/
def tmod {α : Type} (t : Table α) (k : Nat) (f : α → α) : Table α :=
  t.map fun e => if e.1 == k then (e.1, f e.2) else e

/-- Element `i` of a vector, or `d` beyond its end. -/
def vget {α : Type} {n : Nat} (d : α) (v : Vector α n) (i : Nat) : α := v[i]?.getD d

/-- Writes element `i` of a vector; nothing beyond its end. -/
def vset {α : Type} {n : Nat} (v : Vector α n) (i : Nat) (x : α) : Vector α n := v.setIfInBounds i x

/-- Bit `i` of a bit vector set to `b`. -/
def setBit {n : Nat} (v : BitVec n) (i : Nat) (b : Bool) : BitVec n :=
  if b then v ||| (BitVec.ofNat n 1 <<< i) else v &&& ~~~(BitVec.ofNat n 1 <<< i)

/-- Bits [lo+n-1:lo] of a number (R1). -/
def bits (v lo n : Nat) : Nat := v / 2 ^ lo % 2 ^ n

/-- Bits [lo+n-1:lo] of a word, as a number (R1). -/
def wbits (w : Word) (lo n : Nat) : Nat := bits w.toNat lo n

/-- A word from a number, modulo 2^64. -/
def wd (n : Nat) : Word := BitVec.ofNat 64 n

/-- All ones. -/
def allOnes : Word := BitVec.allOnes 64

/-- The value of `n` bits read as a signed number (R4). -/
def sintOf (v n : Nat) : Int := if v % 2 ^ n < 2 ^ (n - 1) then (v % 2 ^ n : Nat) else (v % 2 ^ n : Nat) - (2 ^ n : Nat)

/-- `SignExt` or `ZeroExt` of `n` bits to 64 (R4). -/
def extend (signed : Bool) (v n : Nat) : Word := if signed then BitVec.ofInt 64 (sintOf v n) else wd (v % 2 ^ n)

/-! Sparse memories (R1, R13). -/

/-- One byte. -/
def mget (m : Memory) (a : Nat) : Byte := ((m.find? (·.1 == a)).map (·.2)).getD 0

/-- Writes one byte and keeps the canonical form. -/
def mset : Memory → Nat → Byte → Memory
  | [], a, b => if b = 0 then [] else [(a, b)]
  | c :: r, a, b =>
    if c.1 < a then c :: mset r a b
    else if c.1 = a then (if b = 0 then r else (a, b) :: r)
    else (if b = 0 then c :: r else (a, b) :: c :: r)

/-- `n` bytes from `a` up. -/
def mread (m : Memory) (a n : Nat) : List Byte := (List.range n).map fun i => mget m (a + i)

/-- Writes bytes from `a` up. -/
def mwrite (m : Memory) (a : Nat) : List Byte → Memory
  | [] => m
  | b :: bs => mwrite (mset m a b) (a + 1) bs

/-- The number whose little-endian bytes are given (R1). -/
def leNat : List Byte → Nat
  | [] => 0
  | b :: bs => b.toNat + 256 * leNat bs

/-- The `n` little-endian bytes of a number (R1). -/
def toLE : Nat → Nat → List Byte
  | 0, _ => []
  | n + 1, v => BitVec.ofNat 8 v :: toLE n (v / 256)

/-- Key of a scratchpad byte (R119). -/
def spadKey (c off : Nat) : Nat := c * 0x100000 + off
/-- Key of a scratchpad granule's tag or mark. -/
def spadGran (c g : Nat) : Nat := c * 0x4000 + g
/-- Key of a byte of a port's space (R251). -/
def hbmKey (p l : Nat) : Nat := p * 0x100000000 + l
/-- Key of an instruction-store byte (R7). -/
def istoreKey (c off : Nat) : Nat := c * 0x10000 + off

/-! The parts of the device and its message nodes. -/

/-- The node of a memory port. -/
def portNode (p : Nat) : Nat := 4096 + p
/-- The node of the launch unit (R304). -/
def launchNode : Nat := 4352
/-- The node of the PCIe interface (R13). -/
def pcieNode : Nat := 4353
/-- The node of the device's seal controller (R334). -/
def sealNode : Nat := 4354
/-- The node standing for another device of the domain: what is sent there leaves this model. -/
def devNode (d : Nat) : Nat := 8192 + d

/-- Is `seq` at or before `last` as serial numbers (R260, R329)? -/
def serialLe (seq last : BitVec 32) : Bool := (last - seq).toNat < 0x80000000
/-- Is serial number `a` before `b`? -/
def serialLt (a b : BitVec 32) : Bool := a != b && serialLe a b

/-- The port core of a port (R9). -/
def portCore (p : Nat) : Nat := p / 32 * 288 + (if p % 32 < 16 then 0 else 17) * 16 + p % 16
/-- The port whose port core this is (R9). -/
def corePort (c : Nat) : Option Nat :=
  let y := c % 288 / 16
  if y = 0 then some (c / 288 * 32 + c % 16) else if y = 17 then some (c / 288 * 32 + 16 + c % 16) else none
/-- The port that holds a core's seal records and undo overflow (R338, R339). -/
def sealPort (c : Nat) : Nat := c / 288 * 32 + (if c % 288 / 16 ≤ 8 then c % 16 else 16 + c % 16)

/-- A core; one that nothing has touched stands in the device's interval. -/
def State.coreAt (s : State) (c : Nat) : Core :=
  (tget s.cores c).getD { Core.reset with rinCur := s.cutNo, sealed := s.sealedNo }
/-- Writes a core. -/
def State.setCore (s : State) (c : Nat) (k : Core) : State := { s with cores := tset s.cores c k }
/-- Applies a function to a core. -/
def State.modCore (s : State) (c : Nat) (f : Core → Core) : State := s.setCore c (f (s.coreAt c))
/-- A memory port. -/
def State.portAt (s : State) (p : Nat) : Port := (tget s.ports p).getD Port.reset
/-- Applies a function to a port. -/
def State.modPort (s : State) (p : Nat) (f : Port → Port) : State := { s with ports := tset s.ports p (f (s.portAt p)) }
/-- The held copy of a domain descriptor (R352). -/
def State.domAt (s : State) (pdid : Nat) : Domain := (tget s.domains pdid).getD Domain.none
/-- Applies a function to a task. -/
def State.modTask (s : State) (k : Nat) (f : Task → Task) : State := { s with tasks := tmod s.tasks k f }

/-- The thread in a slot. -/
def State.threadAt (s : State) (c sl : Nat) : Option Thread := tget (s.coreAt c).threads sl
/-- Places or replaces the thread of a slot. -/
def State.setThread (s : State) (c sl : Nat) (t : Thread) : State :=
  s.modCore c fun k => { k with threads := tset k.threads sl t }
/-- Applies a function to the thread of a slot. -/
def State.modThread (s : State) (c sl : Nat) (f : Thread → Thread) : State :=
  s.modCore c fun k => { k with threads := tmod k.threads sl f }
/-- Empties a slot. -/
def State.dropThread (s : State) (c sl : Nat) : State :=
  s.modCore c fun k => { k with threads := tdel k.threads sl, bstates := vset k.bstates sl 0 }
/-- The thread of a reference, if it still stands there (R283). -/
def State.who (s : State) (w : SlotRef) : Option Thread := (s.threadAt w.core w.slot).filter (·.tid == w.tid)
/-- Applies a function to the thread of a reference, if it still stands there. -/
def State.modWho (s : State) (w : SlotRef) (f : Thread → Thread) : State :=
  s.modThread w.core w.slot fun t => if t.tid == w.tid then f t else t
/-- The thread whose bundle is being issued. -/
def State.cur (s : State) : Option Thread := s.threadAt s.ctx.core s.ctx.slot
/-- Applies a function to the issuing thread. -/
def State.modCur (s : State) (f : Thread → Thread) : State := s.modThread s.ctx.core s.ctx.slot f
/-- The core whose bundle is being issued. -/
def State.curCore (s : State) : Core := s.coreAt s.ctx.core
/-- The issuing thread as its words read it (R46). -/
def State.view (s : State) : Thread := if s.ctx.mode = .commit then s.ctx.pre else s.cur.getD Thread.reset
/-- The reference of the issuing thread. -/
def State.me (s : State) : SlotRef := ⟨s.ctx.core, s.ctx.slot, s.view.tid⟩

/-- The free value of the next draw (DESIGN CHOICE, log 3), and the state after it. -/
def State.draw (s : State) (n : Nat) : State × Nat :=
  if n ≤ 1 then (s, 0) else ({ s with draws := s.draws + 1 }, Config.choose s.draws % n)

/-! Thread kinds and STATUS (R11, R365). -/

/-- STATUS.KIND: 0 anchored, 1 light, 2 travelling. -/
def Thread.kind (t : Thread) : Nat := wbits t.status 6 2
/-- STATUS.RM. -/
def Thread.rm (t : Thread) : Nat := wbits t.status 3 3
/-- STATUS.TOPX. -/
def Thread.topx (t : Thread) : Bool := t.status.getLsbD 2
/-- STATUS.H, handler mode (R360). -/
def Thread.inHandler (t : Thread) : Bool := t.status.getLsbD 8
/-- Does the thread run an active message in the service slot (R268)? -/
def Thread.isAmsg (t : Thread) : Bool := t.handler.isSome
/-- May the thread name vector, lane-mask, tile, eyelet and queue state (R11, R268)? -/
def Thread.holdsAll (t : Thread) : Bool := t.kind == 0 && !t.isAmsg

/-! Timed steps and messages. -/

/-- Puts a step on the agenda, after those due at the same cycle. -/
def agendaInsert : List (Nat × Ev) → Nat → Ev → List (Nat × Ev)
  | [], c, e => [(c, e)]
  | x :: r, c, e => if x.1 ≤ c then x :: agendaInsert r c e else (c, e) :: x :: r

/-- A step that will happen at cycle `c`. -/
def State.at (s : State) (c : Nat) (e : Ev) : State := { s with agenda := agendaInsert s.agenda c e }
/-- A step that will happen `n` cycles from now. -/
def State.after (s : State) (n : Nat) (i : Instr) (subj : Subj := {}) : State := s.at (s.cycle + n) ⟨i, subj⟩
/-- The interval a node is in (R329): a port is in its port core's. -/
def State.rinOf (s : State) (node : Nat) : BitVec 32 :=
  if node < 4096 then (s.coreAt node).rinCur
  else if node < 4352 then (s.coreAt (portCore (node - 4096))).rinCur else s.cutNo
/-- Sends a message; it carries its source's interval (R329). -/
def State.send (s : State) (src dst : Nat) (i : Instr) (subj : Subj := {}) : State :=
  { s with net := s.net ++ [⟨src, dst, s.rinOf src, ⟨i, subj⟩⟩] }
/-- Asks the leader for cut `n` (R333). -/
def State.requestCut (s : State) (src n : Nat) : State :=
  let lead := s.members.foldl Nat.min s.devIdx
  s.send src (if lead = s.devIdx then sealNode else devNode lead) .cutRequest { n := n }

/-! Queue registers (R81, R232). -/

/-- Configuration fields (R232). -/
def Queue.valid (q : Queue) : Bool := q.cfg.getLsbD 8
/-- ENG. -/
def Queue.eng (q : Queue) : Nat := wbits q.cfg 10 2
/-- CONS. -/
def Queue.cons (q : Queue) : Nat := wbits q.cfg 4 4
/-- PROD. -/
def Queue.prod (q : Queue) : Nat := wbits q.cfg 0 4
/-- Filled entries counted from the head (R81). -/
def Queue.held (q : Queue) : Nat := (q.entries.takeWhile (·.2.isSome)).length
/-- Reserves the next entry at the tail (R81). -/
def Queue.reserve (q : Queue) : Queue := { q with next := q.next + 1, entries := q.entries ++ [(q.next, none)] }
/-- Fills a reserved entry. -/
def Queue.fill (q : Queue) (e : Nat) (v : Word) : Queue :=
  { q with entries := q.entries.map fun x => if x.1 == e then (x.1, some v) else x }
/-- A push filled at once, dropped without room (R232). -/
def Queue.pushFull (q : Queue) (v : Word) : Queue :=
  if q.entries.length < 8 then { q with next := q.next + 1, entries := q.entries ++ [(q.next, some v)] } else q
/-- Removes the head entry. -/
def Queue.pop (q : Queue) : Queue := { q with entries := q.entries.drop 1 }
/-- Does a combined arrival of the thread in a slot await its reply (R241, R242)? -/
def Core.combOut (k : Core) (sl tid : Nat) : Bool := k.combs.any fun e => e.orgs.any fun o => o.1 == sl && o.2.1 == tid
/-- A queue of a core. -/
def Core.queue (k : Core) (q : Nat) : Queue := vget ⟨0, 0, []⟩ k.queues q
/-- Applies a function to a queue of a core. -/
def State.modQueue (s : State) (c q : Nat) (f : Queue → Queue) : State :=
  s.modCore c fun k => { k with queues := vset k.queues q (f (k.queue q)) }

/-! Registers (R27, R29, R78, R79, R146). -/

/-- A scalar register. -/
def Thread.sreg (t : Thread) (r : Nat) : Word := vget 0 t.s r
/-- A predicate; p7 reads 1 (R78). -/
def Thread.pred (t : Thread) (r : Nat) : Bool := r == 7 || t.p.getLsbD r
/-- A vector register. -/
def Thread.vreg (t : Thread) (r : Nat) : VReg := vget 0 t.v r
/-- A lane mask; vm7 reads all ones (R147). -/
def Thread.mreg (t : Thread) (r : Nat) : Word := if r == 7 then allOnes else vget 0 t.vm r
/-- A segment register. -/
def Thread.seg (t : Thread) (r : Nat) : Seg := vget Seg.reset t.sg r
/-- A dependence counter (R133). -/
def Thread.dcount (t : Thread) (r : Nat) : Nat := vget 0 t.d r

/-- The bits of `old` that `mask` keeps, and those of `new` that it names. -/
def mergeBits {n : Nat} (old : BitVec n) (new mask : Nat) : BitVec n :=
  (old &&& ~~~(BitVec.ofNat n mask)) ||| (BitVec.ofNat n new &&& BitVec.ofNat n mask)

/-- Writes a register of a thread under a mask; p7 and vm7 discard (R29). -/
def Thread.writeReg (t : Thread) (d : RegDst) (val mask : Nat) : Thread :=
  match d with
  | .sreg r => { t with s := vset t.s r (mergeBits (t.sreg r) val mask) }
  | .preg r => if r == 7 then t else { t with p := setBit t.p r (val % 2 == 1) }
  | .vreg r => { t with v := vset t.v r (mergeBits (t.vreg r) val mask) }
  | .mreg r => if r == 7 then t else { t with vm := vset t.vm r (mergeBits (t.mreg r) val mask) }
  | .vpart r => { t with v := vset t.v r (mergeBits (t.vreg r) val mask) }
  | .vgroup f n => { t with v := vset t.v (f + n - 1) (mergeBits (t.vreg (f + n - 1)) val mask) }
  | .queue _ _ => t
  | .creg _ => t
  | .none => t

/-- Is the register's full/empty bit empty (R79, R107)? -/
def Thread.isEmpty (t : Thread) (d : RegDst) : Bool :=
  match d with
  | .sreg r => t.sEmpty.getLsbD r
  | .vreg r => t.vEmpty.getLsbD r
  | _ => false

/-- Sets a register's full/empty bit; `e` true is empty. -/
def Thread.mark (t : Thread) (d : RegDst) (e : Bool) : Thread :=
  match d with
  | .sreg r => { t with sEmpty := setBit t.sEmpty r e }
  | .vreg r => { t with vEmpty := setBit t.vEmpty r e }
  | .vgroup f n => { t with vEmpty := (List.range n).foldl (fun m i => setBit m (f + i) e) t.vEmpty }
  | _ => t

/-- Writes ISSUEPOL, with its reserved bits zero (R96), or ROTTAB (R100). -/
def Core.writeCreg (k : Core) (n : Nat) (v : Word) : Core :=
  if n = 0x020 then { k with issuepol := v &&& 3 } else { k with rottab := v }

/-- Writes a result where it goes: a register of the thread if it still stands there, a queue entry, or a control register
of the core. -/
def State.writeDst (s : State) (w : SlotRef) (d : RegDst) (val mask : Nat) : State :=
  match d with
  | .creg n => s.modCore w.core (·.writeCreg n (wd val))
  | .queue q e => s.modQueue w.core q (·.fill e (wd val))
  | .none => s
  | _ => s.modWho w (·.writeReg d val mask)

/-- Writes a tracked result and sets its register full (R79). -/
def State.writeFull (s : State) (w : SlotRef) (d : RegDst) (val : Nat) : State :=
  (s.writeDst w d val (2 ^ 512 - 1)).modWho w (·.mark d false)

/-- Dependence counters (R133). -/
def State.decD (s : State) (w : SlotRef) (dc : Option Nat) : State :=
  match dc with
  | none => s
  | some n => s.modWho w fun t => { t with d := vset t.d n (t.dcount n - 1) }
/-- Counts an access on d[DC]. -/
def State.incD (s : State) (dc : Nat) : State := s.modCur fun t => { t with d := vset t.d dc (t.dcount dc + 1) }

/-- How many pops of queue `q` come before in the bundle (R28). -/
def State.popsBefore (s : State) (before : List (BitVec 5)) (q : Nat) : Nat :=
  s.ctx.cPops.count q + before.countP fun b => b.toNat == 16 + q
/-- The bundle's next word reads its queues after `pops`, the entries the words before it take (R28). -/
def State.afterPops (s : State) (pops : List Nat) : State := { s with ctx := { s.ctx with cPops := pops } }
/-- A queue as the words of the bundle read it: as it stood when the bundle issued (R46). -/
def State.seenQueue (s : State) (q : Nat) : Queue :=
  if s.ctx.mode = .commit then vget ⟨0, 0, []⟩ s.ctx.queues q else s.curCore.queue q
/-- The value of a scalar field: a register, or the queue entry this field pops (R28, R80). -/
def State.sval (s : State) (code : BitVec 5) (before : List (BitVec 5) := []) : Word :=
  if code.toNat < 16 then s.view.sreg code.toNat
  else
    let q := s.seenQueue (code.toNat - 16)
    ((q.entries.drop (s.popsBefore before (code.toNat - 16))).head?.bind (·.2)).getD 0
/-- The value of a short scalar field. -/
def State.sval4 (s : State) (code : BitVec 4) : Word := s.view.sreg code.toNat
/-- Where a scalar destination goes; a queue code reserves its entry (R81). -/
def State.dest (s : State) (code : BitVec 5) : State × RegDst :=
  if code.toNat < 16 then (s, .sreg code.toNat)
  else
    let q := code.toNat - 16
    (s.modQueue s.ctx.core q Queue.reserve, .queue q (s.curCore.queue q).next)

/-! Fixed-latency results (R102, R104). -/

/-- Where a result goes that no register discards: a write to p7 or vm7 is no write (R29). -/
def keptDst (d : RegDst) : RegDst := if d == .preg 7 || d == .mreg 7 then .none else d
/-- Makes a result due after `lat` cycles. -/
def State.addDue (s : State) (d : RegDst) (lat val mask : Nat) (flags : BitVec 5 := 0) : State :=
  let w : DueWrite := ⟨s.ctx.slot, s.view.tid, keptDst d, val, mask, s.cycle + lat, flags⟩
  (s.modCore s.ctx.core fun k => { k with due := k.due ++ [w] }).after lat .fixedLatencyWrite { core := s.ctx.core }
/-- A scalar result of a fixed latency. -/
def State.result (s : State) (code : BitVec 5) (lat : Nat) (v : Word) (flags : BitVec 5 := 0) : State :=
  let r := s.dest code
  r.1.addDue r.2 lat v.toNat (2 ^ 64 - 1) flags
/-- A predicate result of a fixed latency. -/
def State.resultP (s : State) (p : BitVec 3) (lat : Nat) (b : Bool) (flags : BitVec 5 := 0) : State :=
  s.addDue (.preg p.toNat) lat b.toNat 1 flags
/-- Sets a tracked destination empty at issue (R79). -/
def State.track (s : State) (code : BitVec 5) : State × RegDst :=
  let r := s.dest code
  (r.1.modCur (·.mark r.2 true), r.2)
/-- A tracked scalar result written `lat` cycles after issue. -/
def State.resultTracked (s : State) (code : BitVec 5) (lat : Nat) (v : Word) : State :=
  let w := s.me
  let r := s.track code
  r.1.after lat (.trackedRegisterWrite ⟨w, r.2, v.toNat, none⟩)
/-- FFLAGS of a thread are raised by OR (R70). -/
def State.raise (s : State) (w : SlotRef) (f : BitVec 5) : State :=
  s.modWho w fun t => { t with fflags := t.fflags ||| f }

/-! Parking (R94, R244). -/

/-- BSTATE from its fields (R244). -/
def Park.word (p : Park) : Word :=
  wd (p.kind % 16 * 2 ^ 60 + p.pdev % 2 ^ 14 * 2 ^ 32 + p.pcore % 2 ^ 12 * 2 ^ 20 + p.pslot % 16 * 2 ^ 16 + p.obj % 2 ^ 16)
/-- A park that names no peer: BSTATE KIND 10. -/
def Park.other (obj : Nat := 0) : Park := { kind := 10, obj := obj }
/-- A park on an empty register. -/
def Park.regEmpty : Park := { kind := 9 }

/-- Parks a slot: BSTATE is written, and the watchdog's count goes on while it was already parked (R371). -/
def State.park (s : State) (c sl : Nat) (p : Park) : State :=
  let k := s.coreAt c
  let fresh := vget 0 k.bstates sl == 0
  s.setCore c { k with
    bstates := vset k.bstates sl p.word
    threads := tmod k.threads sl fun t =>
      { t with parked := true, parkSince := if fresh then s.cycle else t.parkSince } }

/-! The scratchpad: undo records, monitors, marks (R123, R141, R236, R239, R339–R341). -/

/-- The bank of a granule: bits [10:6] of its offset (R119). -/
def bankOf (g : Nat) : Nat := g % 32
/-- The row of a granule in its bank: bits [19:11] of its offset (R119). -/
def rowOf (g : Nat) : Nat := g / 32
/-- Has a granule's bank served another access in this cycle (R121)? -/
def Core.bankTaken (k : Core) (now : Nat) (gs : List Nat) : Bool :=
  k.banks.cycle == now && gs.any fun g => k.banks.used.getLsbD (bankOf g)
/-- The banks of some granules. -/
def banksOf (gs : List Nat) : BitVec 32 := gs.foldl (fun u g => setBit u (bankOf g) true) 0
/-- The banks as a cycle finds them: none has served yet. -/
def Banks.enter (b : Banks) (now : Nat) : Banks :=
  if b.cycle = now then b else { b with cycle := now, used := 0, byNet := 0, byCopy := 0 }
/-- The banks of some granules serve one of the requesters in this cycle; the head of the local queue has then lost none of
them (R121). -/
def State.takeBanks (s : State) (c : Nat) (gs : List Nat) (by_ : BankUser := .loc) : State :=
  let m := banksOf gs
  s.modCore c fun k =>
    let b := k.banks.enter s.cycle
    { k with banks := { b with
      used := b.used ||| m
      byNet := if by_ == .net then b.byNet ||| m else b.byNet
      byCopy := if by_ == .copy then b.byCopy ||| m else b.byCopy
      locLost := if by_ == .loc then b.locLost.mapIdx fun i n => if m.getLsbD i then 0 else n else b.locLost } }
/-- Counts the cycles in which each bank of a mask has been lost in a row; of the others none (R121). -/
def countLost (lost : BitVec 32) (v : Vector Nat 32) : Vector Nat 32 :=
  v.mapIdx fun i n => if lost.getLsbD i then n + 1 else 0
/-- The banks lost in four consecutive cycles, which then serve their loser first (R121). -/
def starved (v : Vector Nat 32) : BitVec 32 := (List.range 32).foldl (fun m i => setBit m i (decide (4 ≤ vget 0 v i))) 0
/-- The banks that serve the head of the local queue first in this cycle (R121). -/
def Core.locFirst (k : Core) : BitVec 32 := starved k.banks.locLost
/-- The banks that serve the network interface first: of those it and the local queue have both lost, the local queue has
its turn (R121). -/
def Core.netFirst (k : Core) : BitVec 32 := starved k.banks.netLost &&& ~~~k.locFirst
/-- The banks that serve the copy engine first (R121). -/
def Core.copyFirst (k : Core) : BitVec 32 := starved k.banks.copyLost &&& ~~~k.locFirst &&& ~~~k.netFirst

/-! The skid ring (R294). -/

/-- What a diverted message puts into the skid ring: a channel message its payload, a command its word, key and address
(DESIGN CHOICE, log 72). -/
def divertBytes (e : Ev) : List Byte :=
  match e.ins with
  | .channelMessageArrival _ _ _ m => m.payload
  | .remoteCommandArrival r => toLE 4 r.word.toNat ++ toLE 4 r.key.toNat ++ toLE 8 r.addr.toNat
  | _ => []
/-- Ring entries of 192 bytes that a diverted message takes (R294): as many as its bytes fill, and one at least (DESIGN
CHOICE, log 72). -/
def divertSize (e : Ev) : Nat := Nat.max 1 (((divertBytes e).length + 191) / 192)
/-- SKIDCTL.SLOTS (R294). -/
def Core.ringSlots (k : Core) : Nat := wbits k.skidctl 0 10
/-- What enters the ring is written at its next entries (R294), by accesses of the network interface that take their turns
at the banks (R121). -/
def State.ringWrite (s : State) (c n : Nat) (bs : List Byte) : State :=
  let k := s.coreAt c
  if k.ringSlots = 0 then s
  else
    let cells := (bs.mapIdx fun i b => (wbits k.skidctl 32 20 + (192 * k.ringTail + i) % (192 * k.ringSlots), b)).filter
      fun (x : Nat × Byte) => x.1 < 786432
    s.modCore c fun k => { k with
      ringTail := (k.ringTail + n) % k.ringSlots
      netJobs := if cells.isEmpty then k.netJobs else k.netJobs ++ [.bytes cells] }
/-- A message for a thread that is saved out is diverted into the core's skid ring (R192, R294, R367). -/
def State.divert (s : State) (c : Nat) (e : Ev) : State :=
  (s.ringWrite c (divertSize e) (divertBytes e)).modCore c fun k => { k with diverted := k.diverted ++ [e] }

/-- Bytes an undo record or zero mark takes (R340). -/
def undoSize (zero : Bool) : Nat := if zero then 16 else 80
/-- The undo region of a port (R342). -/
def State.undoRegion (s : State) : Nat := 0x4000000 * 2 ^ wbits s.undocfg 0 3
/-- PORTTOP (R342), unless system software has written the port register (R251). -/
def State.portTop (s : State) (p : Nat) : Nat :=
  ((tget s.mgmt (0x1000 + p)).map (·.toNat)).getD (0x100000000 - 0x1000000 - s.undoRegion)
/-- Has the granule a record or mark in the interval? -/
def State.hasUndo (s : State) (rin : BitVec 32) (home gran : Nat) (code : Bool) : Bool :=
  s.undo.any fun u => u.rin == rin && u.home == home && u.gran == gran && u.code == code
/-- Counts `n` bytes of undo at a port; at 75 % of the region it asks for a cut, once per interval (R342). -/
def State.portUndo (s : State) (p n : Nat) : State :=
  let s := s.modPort p fun q => { q with undoBytes := q.undoBytes + n }
  let q := s.portAt p
  if q.undoBytes * 4 ≥ s.undoRegion * 3 && !q.undoAsked then
    (s.modPort p fun q => { q with undoAsked := true }).requestCut (portNode p) (s.cutNo.toNat + 1)
  else s
/-- Counts `n` bytes of undo in a core's buffer; at 75 % of it the core asks for a cut (R333, R339). -/
def State.coreUndo (s : State) (c n : Nat) : State :=
  let b := (s.coreAt c).undoBytes
  let s := s.modCore c fun k => { k with undoBytes := b + n }
  if b < 98304 && 98304 ≤ b + n then s.requestCut c (s.cutNo.toNat + 1) else s
/-- A barrier object's mark fields; never marked at reset (R239). -/
def State.markAt (s : State) (c g : Nat) : Mark := (tget s.marks (spadGran c g)).getD ⟨false, 0, 3⟩
/-- Writes a granule's mark fields. -/
def State.setMark (s : State) (c g : Nat) (m : Mark) : State := { s with marks := tset s.marks (spadGran c g) m }

/-- The undo record or zero mark before the first write to a scratchpad granule in the interval (R123, R341). -/
def State.undoSpad (s : State) (c g : Nat) (zero : Bool) : State :=
  let rin := (s.coreAt c).rinCur
  if s.hasUndo rin c g false then s
  else
    let m := s.markAt c g
    let u : UndoRec :=
      { rin := rin, home := c, gran := g, code := false
        old := if zero then none else some (mread s.spad (spadKey c (64 * g)) 64)
        tag := (mget s.spadTag (spadGran c g)).setWidth 4
        mark := m.mark, cause := m.cause, epoch := m.epoch }
    ({ s with undo := s.undo ++ [u] }).coreUndo c (undoSize zero)

/-- Does a write need an undo record of a granule that has none yet (R123)? -/
def State.needsRecord (s : State) (c g : Nat) (noundo : Bool) : Bool :=
  !(noundo && !(s.markAt c g).mark) && !s.hasUndo (s.coreAt c).rinCur c g false
/-- The undo logger's turn: the records of a write's granules that need one, each at its own bank (R121, R123; DEDUCED,
log 73); none if none does. -/
def State.logTurn (s : State) (c : Nat) (gs : List Nat) (noundo : Bool) : Option State :=
  let l := gs.filter fun g => s.needsRecord c g noundo
  if l.isEmpty then none else some ((l.foldl (fun (s : State) g => s.undoSpad c g false) s).takeBanks c l .logger)

/-- The undo record before the first write to an instruction-store granule (R339). -/
def State.undoCode (s : State) (c g : Nat) : State :=
  let rin := (s.coreAt c).rinCur
  if s.hasUndo rin c g true then s
  else
    let u : UndoRec :=
      { rin := rin, home := c, gran := g, code := true, old := some (mread s.istore (istoreKey c (64 * g)) 64)
        tag := 0, mark := false, cause := 0, epoch := 0 }
    ({ s with undo := s.undo ++ [u] }).coreUndo c 80

/-- A firing of monitor `n` of slot `sl` pushes into the queues bound to monitor events of that slot (R232). -/
def monPush (sl n g : Nat) (i : Nat) (q : Queue) : Queue :=
  if i ≥ 12 && q.valid && q.eng == 2 && q.cons == sl then q.pushFull (wd (g * 64 + n)) else q

/-- Every armed monitor on the granule fires (R236, R237). -/
def State.fire (s : State) (c g : Nat) : State :=
  s.modCore c fun k =>
    let hits := k.threads.flatMap fun e =>
      (List.range 4).filterMap fun n =>
        let m := vget ⟨false, 0, false⟩ e.2.mon n
        if m.armed && m.line == g then some (e.1, n) else none
    { k with
      threads := k.threads.map fun e =>
        (e.1, { e.2 with mon := e.2.mon.map fun m => if m.armed && m.line == g then { m with pend := true } else m })
      queues := hits.foldl (fun qs h => qs.mapIdx fun i q => monPush h.1 h.2 g i q) k.queues }

/-- A waiter at the object of a granule is released with a reason, which the first release decides (R141, R239). -/
def BarX.free (x : BarX) (g r : Nat) : BarX :=
  if !x.far && wbits x.addr 6 14 == g && x.freed.isNone then { x with freed := some r } else x
/-- Every waiter at an object is released (R141, R239, R240). -/
def State.releaseWaiters (s : State) (c g r : Nat) : State :=
  s.modCore c fun k =>
    { k with threads := k.threads.map fun e => (e.1, { e.2 with barX := e.2.barX.map fun x => x.free g r }) }

/-- A write that is no barrier update disturbs a marked granule (R141, R239). -/
def State.disturb (s : State) (c g : Nat) : State :=
  let m := s.markAt c g
  if m.mark then (s.setMark c g ⟨false, (m.epoch + 1) % 0x10000, 1⟩).releaseWaiters c g 1 else s

/-- A write of bytes within one granule of a scratchpad, by anyone (R123, R141, R236). -/
def State.spadWrite (s : State) (c off : Nat) (bs : List Byte) (noundo : Bool) : State :=
  let g := off / 64
  let s := s.undoSpad c g (noundo && !(s.markAt c g).mark)
  let s := { s with spad := mwrite s.spad (spadKey c off) bs }
  (s.disturb c g).fire c g

/-- A barrier update: recorded whatever the segment says, and no disturbance (R141, R341). -/
def State.spadUpdate (s : State) (c off : Nat) (bs : List Byte) : State :=
  let s := s.undoSpad c (off / 64) false
  ({ s with spad := mwrite s.spad (spadKey c off) bs }).fire c (off / 64)

/-- Writes a granule's tag; no data byte changes (R132). -/
def State.spadTagWrite (s : State) (c g : Nat) (tag : BitVec 4) (noundo : Bool) : State :=
  let s := s.undoSpad c g (noundo && !(s.markAt c g).mark)
  let s := { s with spadTag := mset s.spadTag (spadGran c g) (tag.setWidth 8) }
  (s.disturb c g).fire c g

/-- Scratchpad bytes. -/
def State.spadRead (s : State) (c off n : Nat) : List Byte := mread s.spad (spadKey c off) n
/-- A granule's tag (R128). -/
def State.spadTagAt (s : State) (c g : Nat) : BitVec 4 := (mget s.spadTag (spadGran c g)).setWidth 4

/-- A write over several granules, in ascending order. -/
def State.spadWriteLong (s : State) (c : Nat) : Nat → Nat → List Byte → Bool → State
  | 0, _, _, _ => s
  | fuel + 1, off, bs, nu =>
    if bs.isEmpty then s
    else
      let n := 64 - off % 64
      (s.spadWrite c off (bs.take n) nu).spadWriteLong c fuel (off + n) (bs.drop n) nu

/-- The barrier update by which `n` arrivals or acknowledgements count (R239, R263): at zero the round completes and
releases every waiter. -/
def State.countDown (s : State) (c g n : Nat) : State :=
  let count := leNat (s.spadRead c (64 * g) 8)
  if count ≤ n then
    let init := s.spadRead c (64 * g + 8) 8
    let gen := leNat (s.spadRead c (64 * g + 16) 4)
    (s.spadUpdate c (64 * g) (init ++ init ++ toLE 4 (gen + 1))).releaseWaiters c g 0
  else s.spadUpdate c (64 * g) (toLE 8 (count - n))

/-! Port memory (R251, R339–R342). -/

/-- The undo record or zero mark of an HBM granule, made at its port. -/
def State.undoPort (s : State) (p g : Nat) (zero : Bool) : State :=
  let rin := s.rinOf (portNode p)
  if s.hasUndo rin (portNode p) g false then s
  else
    let u : UndoRec :=
      { rin := rin, home := portNode p, gran := g, code := false
        old := if zero then none else some (mread s.hbm (hbmKey p (64 * g)) 64)
        tag := (mget s.hbmTag (hbmKey p g)).setWidth 4, mark := false, cause := 0, epoch := 0 }
    ({ s with undo := s.undo ++ [u] }).portUndo p (undoSize zero)
/-- A write of bytes within one granule of a port's space. -/
def State.portWrite (s : State) (p l : Nat) (bs : List Byte) (nu : Bool) : State :=
  let s := s.undoPort p (l / 64) nu
  { s with hbm := mwrite s.hbm (hbmKey p l) bs }
/-- Is there room for one more record, or for a zero mark (R342)? -/
def State.portRoom (s : State) (p : Nat) (zero : Bool := false) : Bool := (s.portAt p).undoBytes + undoSize zero ≤ s.undoRegion
/-- Can a write at a port's offset be performed: its granule has its record already, or one finds room (R342)? -/
def State.portTakes (s : State) (p off : Nat) (zero : Bool := false) : Bool :=
  s.hasUndo (s.rinOf (portNode p)) (portNode p) (off / 64) false || s.portRoom p zero
/-- Has core `c` no room for one more undo record while its port has none either (R123, R342)? -/
def State.undoFull (s : State) (c : Nat) : Bool :=
  (s.coreAt c).undoBytes + 80 > 131072 && !s.portRoom (sealPort c)
/-- Does a write to some granules wait for undo room: one needs a record, and there is no room for it (R123)? -/
def State.undoBlocks (s : State) (c : Nat) (gs : List Nat) : Bool :=
  s.undoFull c && gs.any fun g => !s.hasUndo (s.coreAt c).rinCur c g false
/-- Bytes the external write buffer holds (R343). -/
def State.ewbBytes (s : State) : Nat := s.ewb.foldl (fun n w => n + w.data.length) 0
/-- Has the external write buffer room for `n` more bytes (R344)? -/
def State.ewbRoom (s : State) (n : Nat) : Bool := s.ewbBytes + n ≤ 4194304

/-- How a write by one of the device's units ends: done; kept waiting for room (R342, R344), or for its home to make a cut
that the writer has made (R336); or refused, its page unmapped or denied. -/
inductive Put where
  | done | waits | fails
  deriving DecidableEq, Repr
/-- An access by a domain as an access to host memory: the host translates what the device sends under ATS function by
function, so that each has an address space of its own (R387); a failure of that translation is not modelled (DESIGN
CHOICE, log 88). -/
def State.hostKey (s : State) (pdid a : Nat) : Nat := ((s.domAt pdid).vf + 1) * 2 ^ 48 + a
/-- Logs an arrival at a home under the home's interval, with `n` bytes in the undo space of `place` (R336, R340, R345). -/
def State.logAt (s : State) (node place n : Nat) (ev : Ev) : State :=
  let num := if node < 4096 then (s.coreAt node).arrivals else if node < 4352 then (s.portAt (node - 4096)).arrivals else s.logs.length
  let s := { s with logs := s.logs ++ [⟨s.rinOf node, node, num, ev⟩] }
  let s :=
    if node < 4096 then s.modCore node fun k => { k with arrivals := k.arrivals + 1 }
    else if node < 4352 then s.modPort (node - 4096) fun q => { q with arrivals := q.arrivals + 1 }
    else s
  if place < 4096 then s.coreUndo place n
  else if place < 4352 then s.portUndo (place - 4096) n
  else s
/-- A unit's write, tagged in an earlier interval than its home's, is logged there as an arrival (R336). -/
def State.logUnit (s : State) (node pdid : Nat) (a : Word) (bs : List Byte) (rin : BitVec 32) : State :=
  if serialLt rin (s.rinOf node) then
    s.logAt node node (16 + (24 + bs.length + 15) / 16 * 16) ⟨.hostWrite pdid a bs, { b := true }⟩
  else s

/-! The interleave and the page tables (R250–R254). -/

/-- The home port of a virtual address (R250). -/
def portOf (va : Nat) : Nat := (bits va 12 8 ^^^ bits va 20 8) ^^^ (bits va 28 8 ^^^ bits va 36 7)

/-- The outcome of a walk (R254): a leaf with its page base, page size and the place of the entry. -/
inductive Walk where
  | fault
  | denied (sub : Nat)
  | leaf (ent : Word) (base size port off : Nat)
  deriving DecidableEq, Repr

/-- An entry of a page table. -/
def State.ptEntry (s : State) (p off i : Nat) : Word := wd (leNat (mread s.hbm (hbmKey p (off + 8 * i)) 8))

/-- The checks of a leaf (R253, R254). -/
def State.checkLeaf (s : State) (va : Nat) (e : Word) (size p off : Nat) : Walk :=
  let target := wbits e 0 48
  if wbits e 48 6 != 0 then .denied 5
  else if e.getLsbD 56 then (if bits target 0 21 != 0 then .denied 5 else .leaf e (va / size * size) size p off)
  else if bits target 32 16 != 0 || target % (size / 256) != 0 || target + size / 256 > s.portTop (portOf va) then .denied 5
  else .leaf e (va / size * size) size p off

/-- A walk of a domain's tables (R252–R254). -/
def State.walk (s : State) (pdid va : Nat) : Walk :=
  let d := s.domAt pdid
  if !d.v || !d.ptroot.getLsbD 63 then .denied 5
  else
    let p1 := wbits d.ptroot 32 8
    let o1 := wbits d.ptroot 0 32
    let i1 := bits va 32 11
    let e1 := s.ptEntry p1 o1 i1
    if !e1.getLsbD 63 then .fault
    else if e1.getLsbD 62 then
      if wbits e1 54 2 != 3 then .denied 5 else s.checkLeaf va e1 0x100000000 p1 (o1 + 8 * i1)
    else if wbits e1 48 6 != 0 || wbits e1 40 8 != 0 || wbits e1 0 14 != 0 then .denied 5
    else
      let p2 := wbits e1 32 8
      let o2 := wbits e1 0 32
      let i2 := bits va 21 11
      let e2 := s.ptEntry p2 o2 i2
      if !e2.getLsbD 63 then .fault
      else if !e2.getLsbD 62 || wbits e2 54 2 == 3 then .denied 5
      else s.checkLeaf va e2 (if wbits e2 54 2 = 0 then 0x200000 else if wbits e2 54 2 = 1 then 0x4000000 else 0x40000000)
        p2 (o2 + 8 * i2)

/-- The refusals of a leaf to a use (R254). -/
def leafDenies (e : Word) (write exec : Bool) : Option Nat :=
  if write && e.getLsbD 61 then some 1 else if exec && e.getLsbD 60 then some 4 else none

/-- The walker sets A, and for a write D, at the entry's home (R254). -/
def State.setAD (s : State) (p off : Nat) (write : Bool) : State :=
  let e := s.ptEntry p off 0
  let e' := setBit (if write then setBit e 58 true else e) 59 true
  if e' = e then s else s.portWrite p off (toLE 8 e'.toNat) false

/-- Where a byte of a page lies (R251, R253): in a port's space, or in host memory. -/
inductive Loc where
  | hbm (port off : Nat)
  | host (addr : Nat)
  deriving DecidableEq, Repr

/-- The location of `va` under a leaf. -/
def leafLoc (e : Word) (base va : Nat) : Loc :=
  if e.getLsbD 56 then .host (wbits e 0 48 + (va - base))
  else .hbm (portOf va) (wbits e 0 32 + (va - base) / 0x100000 * 4096 + va % 4096)

/-- A translation enters a port's cache of 2,048 entries; the oldest makes room (DESIGN CHOICE, log 10). -/
def State.cacheLeaf (s : State) (p pdid base size : Nat) (e : Word) (ep eo : Nat) : State :=
  s.modPort p fun q =>
    let l := q.tlb.filter fun t => !(t.pdid == pdid && t.base == base)
    { q with tlb := (if l.length ≥ 2048 then l.drop 1 else l) ++ [⟨pdid, base, size, e, ep, eo⟩] }
/-- The cached translation of an address. -/
def State.cached (s : State) (p pdid va : Nat) : Option Tlb :=
  (s.portAt p).tlb.find? fun t => t.pdid == pdid && t.base ≤ va && va < t.base + t.size
/-- A and D are set before a translation is used (R254). -/
def State.touchLeaf (s : State) (p : Nat) (t : Tlb) (write : Bool) : State × Tlb :=
  if t.leaf.getLsbD 59 && (!write || t.leaf.getLsbD 58) then (s, t)
  else
    let e := setBit (if write then setBit t.leaf 58 true else t.leaf) 59 true
    let t' := { t with leaf := e }
    ((s.setAD t.eport t.eoff write).modPort p fun q => { q with tlb := q.tlb.map fun x => if x == t then t' else x }, t')

/-- Must an entry's A or D wait to be set, for want of room for its record (R342)? -/
def State.touchWaits (s : State) (t : Tlb) (write : Bool) : Bool :=
  !(t.leaf.getLsbD 59 && (!write || t.leaf.getLsbD 58)) && !s.portTakes t.eport t.eoff
/-- A translation at the address's port, from its cache or by a walk that fills it (R13, R254). -/
def State.translate (s : State) (pdid va : Nat) : State × Option Tlb :=
  let p := portOf va
  match s.cached p pdid va with
  | some t => (s, some t)
  | none =>
    match s.walk pdid va with
    | .leaf e base size ep eo => (s.cacheLeaf p pdid base size e ep eo, some ⟨pdid, base, size, e, ep, eo⟩)
    | _ => (s, none)
/-- A place as a domain's access names it: host memory in its function's address space (R387). -/
def State.inHost (s : State) (pdid : Nat) (l : Loc) : Loc :=
  match l with
  | .hbm p o => .hbm p o
  | .host a => .host (s.hostKey pdid a)
/-- The place of an access by one of the device's own units, and whether its page is NU (R253, R254); it waits while the
entry's A or D waits for undo room. -/
def State.xlat (s : State) (pdid va : Nat) (write exec : Bool) : State × Except Put (Loc × Bool) :=
  match s.translate pdid va with
  | (s, some t) =>
    match leafDenies t.leaf write exec with
    | some _ => (s, .error .fails)
    | none =>
      if s.touchWaits t write then (s, .error .waits)
      else
        let x := s.touchLeaf (portOf va) t write
        (x.1, .ok (s.inHost pdid (leafLoc x.2.leaf t.base va), x.2.leaf.getLsbD 57))
  | (s, none) => (s, .error .fails)

/-- Bytes of the external write buffer over bytes of host memory (R343). -/
def overlay (ws : List ExtWrite) (a : Nat) (b : Byte) : Byte :=
  ws.foldl (fun b w => if w.host && w.addr ≤ a && a < w.addr + w.data.length then w.data.getD (a - w.addr) b else b) b
/-- Host bytes as the device reads them (R343). -/
def State.hostBytes (s : State) (a n : Nat) : List Byte :=
  (List.range n).map fun i => overlay s.ewb (a + i) (mget s.host (a + i))

/-- Bytes within one granule at a SPACE 0 address, read by one of the device's units. -/
def State.vread (s : State) (pdid va n : Nat) (exec : Bool := false) : State × Option (List Byte) :=
  match s.xlat pdid va false exec with
  | (s, .ok (.hbm p l, _)) => (s, some (mread s.hbm (hbmKey p l) n))
  | (s, .ok (.host a, _)) => (s, some (s.hostBytes a n))
  | (s, .error _) => (s, none)

/-- Bytes over several granules at a SPACE 0 address. -/
def State.vreadLong (s : State) (pdid : Nat) : Nat → Nat → Nat → Bool → State × Option (List Byte)
  | 0, _, _, _ => (s, some [])
  | fuel + 1, va, n, exec =>
    if n = 0 then (s, some [])
    else
      let k := Nat.min n (64 - va % 64)
      match s.vread pdid va k exec with
      | (s, none) => (s, none)
      | (s, some b) =>
        match s.vreadLong pdid fuel (va + k) (n - k) exec with
        | (s, none) => (s, none)
        | (s, some r) => (s, some (b ++ r))

/-- Writes bytes within one granule at a SPACE 0 address, by one of the device's units that is in interval `rin` (R336,
R341–R344). -/
def State.vwrite (s : State) (pdid va : Nat) (bs : List Byte) (rin : BitVec 32) : State × Put :=
  match s.xlat pdid va true false with
  | (s, .ok (.hbm p l, nu)) =>
    if serialLt (s.rinOf (portNode p)) rin || !s.portTakes p l nu then (s, .waits)
    else ((s.portWrite p l bs nu).logUnit (portNode p) pdid (wd va) bs rin, .done)
  | (s, .ok (.host a, _)) =>
    if s.ewbRoom bs.length then ({ s with ewb := s.ewb ++ [⟨rin, true, pdid, a, bs, none⟩] }, .done)
    else (s.requestCut pcieNode (s.cutNo.toNat + 1), .waits)
  | (s, .error e) => (s, e)

/-- A completion record enters the external write buffer, or waits for room behind older ones (R343, R344). -/
def State.enterEwb (s : State) (e : ExtWrite) : State :=
  if s.ewbLate.isEmpty && s.ewbRoom e.data.length then { s with ewb := s.ewb ++ [e] }
  else { s with ewbLate := s.ewbLate ++ [e] }.requestCut pcieNode (s.cutNo.toNat + 1)

/-- Bytes within one granule at a SPACE 0 address, or at a SPACE 1 address whose core field is a physical core
(R352: TQBASE). -/
def State.sysRead (s : State) (pdid : Nat) (a : Word) (n : Nat) : State × Option (List Byte) :=
  if wbits a 57 3 = 1 then (s, some (s.spadRead (wbits a 31 12) (wbits a 0 20) n))
  else if wbits a 57 3 = 0 then s.vread pdid (wbits a 0 43) n
  else (s, none)
/-- The write that matches `sysRead`. -/
def State.sysWrite (s : State) (pdid : Nat) (a : Word) (bs : List Byte) (rin : BitVec 32) : State × Put :=
  if wbits a 57 3 = 1 then
    let c := wbits a 31 12
    if serialLt (s.rinOf c) rin || s.undoBlocks c [wbits a 0 20 / 64] then (s, .waits)
    else ((s.spadWrite c (wbits a 0 20) bs false).logUnit c pdid a bs rin, .done)
  else if wbits a 57 3 = 0 then s.vwrite pdid (wbits a 0 43) bs rin
  else (s, .fails)

/-! Trap records and taking a trap (R355–R360). -/

/-- FLAGS of a trap record (R356). -/
def trapFlags (after aWord nested : Bool) : Nat := after.toNat + 2 * aWord.toNat + 4 * nested.toNat

/-- The 64 bytes of a trap record (R356). -/
def State.trapRecord (s : State) (c sl pdid task tid flags : Nat) (org : Origin) (rpc : Word32) (t : TrapInfo) : List Byte :=
  toLE 1 t.cause ++ toLE 1 t.sub ++ toLE 1 pdid ++ toLE 1 flags ++ toLE 2 s.devIdx ++ toLE 1 (c / 288) ++ toLE 1 sl ++
  toLE 2 c ++ toLE 2 task ++ toLE 4 tid ++ toLE 4 org.pc.toNat ++ toLE 4 rpc.toNat ++ toLE 8 t.addr.toNat ++
  toLE 8 t.detail.toNat ++ toLE 4 (s.coreAt c).rinCur.toNat ++ toLE 4 0 ++ toLE 8 s.cycle ++ toLE 8 org.bundle.toNat

/-- Signals the consumer of a trap queue (R357): a message for the host, or nothing more with SUPV. -/
def State.signalTrap (s : State) (d : Domain) : State :=
  if d.supv then s else { s with msix := s.msix ++ [(d.vf, 0)] }

/-- The interval that a trap record carries (R356). -/
def recordRin (recs : List (List Byte)) : BitVec 32 := BitVec.ofNat 32 (leNat (((recs.headD []).drop 40).take 4))
/-- Writes the granules of records into consecutive slots of a trap queue, under their interval; did all find room? -/
def State.putRecords (s : State) (pdid : Nat) (base : Word) (size : Nat) (rin : BitVec 32) : Nat → List (List Byte) → State × Bool
  | _, [] => (s, true)
  | i, r :: rs =>
    match s.sysWrite pdid (base + wd (64 + 64 * (i % size))) r rin with
    | (s, .done) => s.putRecords pdid base size rin (i + 1) rs
    | (s, _) => (s, false)

/-- Writes a record and its continuations, if the queue has room (R357) and the writes find undo and buffer room. -/
def State.tryPost (s : State) (pdid : Nat) (recs : List (List Byte)) : Option State :=
  let d := s.domAt pdid
  if !d.v then none
  else
    match s.sysRead pdid d.tqbase 12 with
    | (_, none) => none
    | (s, some h) =>
      let tail := leNat (h.take 4)
      let head := leNat ((h.drop 4).take 4)
      let used := (tail + 0x100000000 - head) % 0x100000000
      if used + recs.length ≤ 2 ^ d.tqlogn then
        match s.putRecords pdid d.tqbase (2 ^ d.tqlogn) (recordRin recs) tail recs with
        | (_, false) => none
        | (s, true) =>
          match s.sysWrite pdid d.tqbase (toLE 4 (tail + recs.length)) (recordRin recs) with
          | (s, .done) => some (s.signalTrap d)
          | _ => none
      else none

/-- Writes HELD in a trap queue's header (R357). -/
def State.writeHeld (s : State) (pdid : Nat) : State :=
  let n := (s.cores.map fun e => (e.2.heldTraps.filter fun h => (h.1.getD 2 0).toNat == pdid).foldl (fun a h => a + h.2) 0).foldl
    (· + ·) 0
  if (s.domAt pdid).v then (s.sysWrite pdid ((s.domAt pdid).tqbase + 8) (toLE 4 n) s.cutNo).1 else s

/-- Cuts bytes into 64-byte records. -/
def granules : Nat → List Byte → List (List Byte)
  | 0, _ => []
  | n + 1, bs => bs.take 64 :: granules n (bs.drop 64)

/-- Writes a record, or holds it at its core until the queue has room (R357); nothing passes an older held record. A full
external write buffer asks for a cut (R344). -/
def State.postTrap (s : State) (c pdid : Nat) (recs : List (List Byte)) : State :=
  let hold := (s.modCore c fun k => { k with heldTraps := k.heldTraps ++ [(recs.flatten, recs.length)] }).writeHeld pdid
  let hold := if s.ewbRoom 64 then hold else hold.requestCut pcieNode (s.cutNo.toNat + 1)
  if (s.coreAt c).heldTraps.any fun h => (h.1.getD 2 0).toNat == pdid then hold
  else (s.tryPost pdid recs).getD hold

/-- Has the thread local accesses under way: queued, or stream pushes on their way to the queue (R121, R153, R278)? -/
def Thread.localBusy (t : Thread) : Bool := t.localOut != 0 || t.streams.toList.any fun x => (x.map (·.pushes)).getD 0 != 0

/-- Has a thread of core `c` accesses under way to a home that its domain's trap queue lies at: a core, or the ports
(R19)? -/
def State.trailing (s : State) (c tid pdid : Nat) : Bool :=
  let q := (s.domAt pdid).tqbase
  let spad := wbits q 57 3 == 1
  let k := s.coreAt c
  (k.unacked.any fun r => r.who.tid == tid && if spad then r.node == wbits q 31 12 else 4096 ≤ r.node && r.node < 4352) ||
    spad && wbits q 31 12 == c && k.threads.any fun e => e.2.tid == tid && e.2.localBusy
/-- A record of a thread, with its continuations: it is written after the thread's earlier accesses to the same home are
performed (R19), and waits at its core until then. -/
def State.recordTrap (s : State) (c tid pdid : Nat) (recs : List (List Byte)) : State :=
  if s.trailing c tid pdid || (s.coreAt c).trapWait.any (·.1 == tid) then
    s.modCore c fun k => { k with trapWait := k.trapWait ++ [(tid, pdid, recs)] }
  else s.postTrap c pdid recs
/-- A record written later than it was made carries the interval in which it is written (R356). -/
def State.restamp (s : State) (c : Nat) (recs : List (List Byte)) : List (List Byte) :=
  match recs with
  | [] => []
  | r :: rs => (r.take 40 ++ toLE 4 (s.coreAt c).rinCur.toNat ++ r.drop 44) :: rs
/-- The records whose thread's earlier accesses are performed. -/
def State.readyTraps (s : State) (c : Nat) : List (Nat × Nat × List (List Byte)) :=
  (s.coreAt c).trapWait.filter fun x => !s.trailing c x.1 x.2.1
/-- Those records are written, in order. -/
def State.releaseTrailing (s : State) (c : Nat) : State :=
  let go := s.readyTraps c
  go.foldl (fun s x => s.postTrap c x.2.1 (s.restamp c x.2.2))
    (s.modCore c fun k => { k with trapWait := k.trapWait.filter fun x => !go.contains x })

/-- What a bundle keeps across reissues is dropped when the thread goes on elsewhere (R238, R326, R346, R366). -/
def Thread.forget (t : Thread) : Thread :=
  { t with mwait := none, barX := none, sealTarget := none, commitX := .idle, codeX := .idle, codeBuf := [], hold := none }

/-- Is the trap handled in the thread (R359, R360)? `trap` never is. -/
def Thread.handles (t : Thread) (i : TrapInfo) : Bool :=
  t.holdsAll && !t.inHandler && t.evec.getLsbD (31 + i.cause) && 0 < i.cause && i.cause ≤ 24 &&
  !(i.cause == 0x15 && i.sub == 2)

/-- A parked `mwait` is given up, to start again if its bundle is reissued: the register it holds empty is full with the
value it had, a reserved entry is given back (R5, R238, R367). -/
def State.dropMwait (s : State) (w : SlotRef) : State :=
  match (s.who w).bind (·.mwait) with
  | none => s
  | some (_, .queue q e) =>
    (s.modQueue w.core q fun x => { x with entries := x.entries.filter (·.1 != e) }).modWho w fun t => { t with mwait := none }
  | some (_, d) => s.modWho w fun t => { t.mark d false with mwait := none }

/-- Entering the handler (R360). An HPC with bits [31:16] not zero stands in PC as it is, and the thread fetches from
segment 0 at its low 16 bits (DESIGN CHOICE, log 84; R26). -/
def Thread.enterHandler (t : Thread) (flags : Nat) (rpc : Word32) (i : TrapInfo) : Thread :=
  { t.forget with
    epc := rpc.setWidth 64
    ecause := wd (flags * 0x10000 + i.sub * 0x100 + i.cause)
    eaddr := i.addr
    edetail := i.detail
    status := setBit t.status 8 true
    pc := (t.evec.setWidth 32) &&& 0xFFFFFFF8 }

/-- Caches a reply in a source's filter entry: the last 16 are kept (R260). -/
def cacheReply (fs : List FilterE) (tid : Nat) (seq : BitVec 32) (r : Reply) : List FilterE :=
  fs.map fun e =>
    if e.tid == tid then
      let c := e.cached ++ [(seq, r)]
      { e with cached := c.drop (c.length - 16) }
    else e

/-- A slot leaves every snapshot of the combiner: its thread ended, halted or was saved out (R241 step 3). -/
def Core.leaveReg (k : Core) (sl : Nat) : Core :=
  { k with combs := k.combs.map fun e => { e with reg := setBit e.reg sl false } }

/-- Ends the active message of the service slot and answers its sender (R268); a join entry of the handler's ends with it
(R317). -/
def State.endHandler (s : State) (c sl : Nat) (m : AMsg) (v : Word) : State :=
  let tid := ((s.threadAt c sl).map (·.tid)).getD 0
  let s := (s.dropThread c sl).modCore c (·.leaveReg sl)
  let s := s.modCore c fun k =>
    { k with
      joins := tdel k.joins tid
      filter := cacheReply k.filter m.who.tid (BitVec.ofNat 32 m.seq) (.ok (toLE 8 v.toNat)) }
  s.send c m.who.core (.amsgReply m v)

/-- Stopping a thread (R355): the slot is parked on the condition "stopped". It waits at no barrier any more (R242). -/
def State.stopThread (s : State) (c sl : Nat) (rpc : Word32) : State :=
  (s.modThread c sl fun t => { t with run := .stopped, rpc := rpc, barX := none }).park c sl Park.other

/-- The address of the bundle after one: a thread that does not run in travelling mode stays in segment 0, where offset
65,528 is followed by 0 (DEDUCED, log 68; R26). -/
def Thread.after (t : Thread) (pc : Word32) : Word32 := if t.kind == 2 then pc + 8 else (pc + 8) &&& 0xFFFF

/-- A PC as the thread may hold it: aligned, and in segment 0 outside travelling mode (R26; DEDUCED, log 68). -/
def Thread.legalPc (t : Thread) (pc : Word32) : Word32 := if t.kind == 2 then pc &&& 0xFFFFFFF8 else pc &&& 0xFFF8
/-- Where RESUME continues after a trap at issue (R356, R361). -/
def resumeAt (th : Thread) (pc : Word32) (t : TrapInfo) : Word32 :=
  if t.cause = 0x14 || t.cause = 0x15 then th.after pc else pc

/-- Is a trap's bundle the one being repeated (R155)? A trap of an earlier bundle leaves SREPN live: the bundle at PC, the
handler's first where one is entered, is then the one repeated (DEDUCED, log 51). -/
def Thread.repeats (th : Thread) (org : Origin) : Bool := th.srep.isSome && org.pc == th.pc
/-- The trap of a repeated bundle: its DETAIL is the repetitions not performed, none after the last (R155). -/
def Thread.repTrap (th : Thread) (org : Origin) (t : TrapInfo) : TrapInfo :=
  if th.repeats org then { t with detail := wd (th.srep.getD 0) } else if org.rep then { t with detail := 0 } else t
/-- SREPN is cleared by a trap of the repeated bundle (R155). -/
def Thread.endRep (th : Thread) (org : Origin) : Thread := if th.repeats org then { th with srep := none } else th

/-- Taking a trap: the handler of R360, or the record and the stop of R355, R356. The ended active message of R268 answers
all ones. A trap in a repetition clears SREPN, and its DETAIL is the repetitions not performed (R155). A trap that finds no
thread is still recorded (R370). -/
def State.takeTrap (s : State) (w : SlotRef) (after : Bool) (org : Origin) (t : TrapInfo) (snag : List (List Byte) := []) :
    State :=
  match s.who w with
  | none =>
    let g := ((s.coreAt w.core).gone.find? (·.1 == w.tid)).getD (w.tid, 0, (s.coreAt w.core).pdid, org.pc + 8)
    s.postTrap w.core g.2.2.1
      ((s.trapRecord w.core w.slot g.2.2.1 g.2.1 w.tid (trapFlags after org.aWord false) org g.2.2.2 t) :: snag)
  | some th =>
    let s := (s.dropMwait w).modWho w (·.endRep org)
    let t := th.repTrap org t
    let rpc := if after then (if th.run = .stopped then th.rpc else th.pc) else resumeAt th org.pc t
    if th.handles t && th.run != .stopped then
      let flags := trapFlags after org.aWord false
      let s := s.modThread w.core w.slot (·.enterHandler flags rpc t)
      s.modCore w.core fun k => { k with bstates := vset k.bstates w.slot 0 }
    else
      let flags := trapFlags after org.aWord th.inHandler
      let s := s.recordTrap w.core th.tid th.pdid
        ((s.trapRecord w.core w.slot th.pdid th.task th.tid flags org rpc t) :: snag)
      match th.handler with
      | some m => s.endHandler w.core w.slot m allOnes
      | none => if th.run = .stopped then s else s.stopThread w.core w.slot rpc

/-- A trap report that finds its slot stopped by a SAVE or END command: the record alone, with the slot and the RPC at
which the command stopped it (R370). -/
def State.recordSaved (s : State) (w : SlotRef) (after : Bool) (org : Origin) (t : TrapInfo) (th : Thread)
    (snag : List (List Byte) := []) : State :=
  (s.modWho w (·.endRep org)).recordTrap w.core th.tid th.pdid
    ((s.trapRecord w.core w.slot th.pdid th.task th.tid (trapFlags after org.aWord th.inHandler) org th.pc (th.repTrap org t)) :: snag)
/-- A trap that comes from outside the issue of a bundle: reported after issue, by the combiner or by the snag detector
(R47, R242, R246, R370). -/
def State.lateTrap (s : State) (w : SlotRef) (after : Bool) (org : Origin) (t : TrapInfo) (snag : List (List Byte) := []) : State :=
  match s.who w with
  | some th =>
    if s.saving = some (w.core, w.slot) ∧ th.run ≠ .stopped then s.recordSaved w after org t th snag
    else s.takeTrap w after org t snag
  | none => s.takeTrap w after org t snag

/-- A trap of the bundle being issued. -/
def State.issueTrap (s : State) (aWord : Bool) (t : TrapInfo) : State :=
  s.takeTrap ⟨s.ctx.core, s.ctx.slot, (s.cur.getD Thread.reset).tid⟩ false { s.ctx.org with aWord := aWord } t

/-- A trap reported after issue at once, as the step after this one (R47). -/
def State.reportTrap (s : State) (w : SlotRef) (org : Origin) (t : TrapInfo) : State :=
  s.after 0 (.trapReportAfterIssue w org t)

/-! The checks of a bundle (R28, R45, R46, R79–R81, R104–R107). -/

/-- What the four stages decide; `own` marks a trap of a word's own checks, which may act beside the trap (R209). -/
inductive Verdict where
  | trap (aWord : Bool) (t : TrapInfo) (own : Bool)
  | park (p : Park) (stage4 : Bool)
  | wait
  | go
  deriving DecidableEq, Repr

/-- Class and number of a register for R106's DETAIL. -/
def regClass (d : RegDst) : Nat × Nat :=
  match d with
  | .sreg r => (0, r)
  | .preg r => (1, r)
  | .vreg r => (2, r)
  | .mreg r => (3, r)
  | _ => (0, 0)

/-- The latest due cycle pending on a register of the thread in a slot. -/
def Core.dueOf (k : Core) (th : Thread) (sl : Nat) (d : RegDst) : Option Nat :=
  (k.due.filter fun w => w.slot == sl && w.tid == th.tid && w.dst == d).foldl
    (fun a w => match a with | none => some w.due | some x => some (Nat.max x w.due)) none

/-- The UndersizedStall record of an early access (R106). -/
def earlyTrap (sub : Nat) (d : RegDst) (guard : Bool) (due : Nat) : TrapInfo :=
  ⟨4, sub, wd due, wd ((regClass d).2 * 256 + guard.toNat * 8 + (regClass d).1)⟩

/-- The first early access of a word (R104), if any. -/
def Core.early (k : Core) (th : Thread) (sl now : Nat) (a : Access) : Option TrapInfo :=
  (a.reads.findSome? fun r =>
    if th.isEmpty r.1 then none
    else match k.dueOf th sl r.1 with
      | some d => if d > now then some (earlyTrap 1 r.1 r.2 d) else none
      | none => none) <|>
  (a.writes.findSome? fun w =>
    match w.2, k.dueOf th sl w.1 with
    | some lat, some d => if !th.isEmpty w.1 && d ≥ now + lat then some (earlyTrap 2 w.1 false d) else none
    | _, _ => none)

/-- The park of a bundle whose queue `q` falls short (R28, R81): BSTATE names the other end (R244, R245). -/
def Core.queuePark (k : Core) (c dev q : Nat) (pop : Bool) : Park :=
  let x := k.queue q
  { kind := if pop then 1 else 2, obj := 16 + q, pdev := dev, pcore := c, pslot := if pop then x.prod else x.cons }

/-- The first queue that falls short, in the order of R28; every pop of both words comes before any push (DESIGN CHOICE,
log 70: R28 orders the pops alone). -/
def Core.queueShort (k : Core) (c dev : Nat) (pops pushes : List Nat) : Option Park :=
  (pops.findSome? fun q =>
    if pops.count q ≤ (k.queue q).held then none else some (k.queuePark c dev q true)) <|>
  (pushes.findSome? fun q =>
    if (k.queue q).entries.length + pushes.count q ≤ 8 + pops.count q then none
    else some (k.queuePark c dev q false))

/-- Writes that R46 forbids twice in a bundle. -/
def overlapWrites (a : Access) : List RegDst :=
  (a.writes.map (·.1)).filter fun d =>
    match d with
    | .sreg _ => true
    | .vreg _ => true
    | .preg r => r != 7
    | .mreg r => r != 7
    | _ => false

/-- A register written twice. -/
def twice : List RegDst → Bool
  | [] => false
  | d :: r => r.contains d || twice r

/-- The stages of R45 over the words' findings, each with its A-word mark. Among the parks of stage 2 a queue that falls
short comes first, then an empty register, then a word's own park (DESIGN CHOICE, log 70: the rule does not order them). -/
def State.verdict (s : State) (fs : List (Bool × Finding)) : Verdict :=
  let c := s.ctx.core
  let sl := s.ctx.slot
  let k := s.curCore
  let th := s.cur.getD Thread.reset
  let accs := fs.map (·.2.acc)
  match fs.findSome? fun f => f.2.kindTrap.map fun t => (f.1, t) with
  | some t => .trap t.1 t.2 false
  | none =>
    match k.queueShort c s.devIdx (accs.flatMap (·.pops)) (accs.flatMap (·.pushes)) with
    | some p => .park p false
    | none =>
      if accs.any fun a => a.reads.any (fun r => th.isEmpty r.1) || a.writes.any fun w => th.isEmpty w.1 then
        .park Park.regEmpty false
      else
        match fs.findSome? (·.2.park2) with
        | some p => .park p false
        | none =>
          let early := fs.findSome? fun f => (k.early th sl s.cycle f.2.acc).map fun t => (f.1, t)
          if k.issuechk = 1 && early.isSome then .wait
          else if twice (accs.flatMap overlapWrites) then .trap (fs.any fun f => f.1) ⟨3, 0, 0, 0⟩ false
          else
            match if k.issuechk = 0 then early else none with
            | some t => .trap t.1 t.2 false
            | none =>
              match fs.findSome? fun f => f.2.trap3.map fun t => (f.1, t) with
              | some t => .trap t.1 t.2 true
              | none =>
                match fs.findSome? (·.2.park4) with
                | some p => .park p true
                | none => .go

/-- What a word is, beyond its operands: the registers it reads and writes, the decoding trap of its conversion pair (R43),
the traps its thread's kind gives it, its parks and traps, its effect, whether its queue fields pop, and what it does each
time it parks at stage 4 or beside a trap of its own. -/
structure WordSpec where
  acc : State → Access := fun _ => Access.none
  pair : State → Option (Nat × Nat) := fun _ => none
  kind : State → Option (Nat × Nat) := fun _ => none
  park2 : State → Option Park := fun _ => none
  trap3 : State → Option TrapInfo := fun _ => none
  park4 : State → Option Park := fun _ => none
  onPark : State → State := id
  onTrap : State → State := id
  effect : State → State := id
  takes : State → Bool := fun _ => true

/-- Does the guard let the word act (R23)? -/
def Thread.guard (t : Thread) (neg : Bool) (grd : BitVec 3) : Bool := t.pred grd.toNat != neg

/-- The queue pops and pushes a word names beyond its thread's rights (R80). -/
def State.queueRights (s : State) (a : Access) : Option (Nat × Nat) :=
  let th := s.view
  let bad := a.pops.any (fun q => let x := s.curCore.queue q
      !th.holdsAll || !x.valid || x.cons != s.ctx.slot) ||
    a.pushes.any fun q => let x := s.curCore.queue q
      !th.holdsAll || !x.valid || x.eng != 0 || x.prod != s.ctx.slot
  if bad then some (1, 5) else none

/-- What a probe of a word finds. A word whose guard is false is only decoded, and tests its guard (R23, R44). -/
def WordSpec.finding (w : WordSpec) (neg : Bool) (grd : BitVec 3) (s : State) : Finding :=
  let g := (RegDst.preg grd.toNat, true)
  if s.view.guard neg grd then
    let a := w.acc s
    { acc := { a with reads := g :: a.reads }
      takes := w.takes s
      kindTrap := ((w.pair s) <|> (w.kind s) <|> (s.queueRights a)).map fun t => ⟨t.1, t.2, 0, 0⟩
      park2 := w.park2 s
      trap3 := w.trap3 s
      park4 := w.park4 s }
  else
    { Finding.none with
      acc := { Access.none with reads := [g] }
      kindTrap := (w.pair s).map fun t => ⟨t.1, t.2, 0, 0⟩ }

/-- The entries a word takes (R28): those it names, unless it takes none (R209). -/
def Finding.pops (f : Finding) : List Nat := if f.takes then f.acc.pops else []
/-- Removes the entries a word has popped. -/
def State.popAll (s : State) : List Nat → State
  | [] => s
  | q :: r => (s.modQueue s.ctx.core q Queue.pop).popAll r

/-- A word's effect, then its pops. -/
def WordSpec.perform (w : WordSpec) (s : State) : State :=
  (w.effect s).popAll (if w.takes s then (w.acc s).pops else [])

/-- The bundle issues (R103): PC moves on, the slot's earliest issue cycle is set, BSTATE is cleared (R244), and eight
travels without an issue start again (R290). -/
def State.advance (s : State) (stall : Nat) : State :=
  let s := s.modCur fun t =>
    { t with pc := t.after s.ctx.org.pc, earliest := s.cycle + 1 + stall, parked := false, travels := 0 }
  s.modCore s.ctx.core fun k => { k with bstates := vset k.bstates s.ctx.slot 0 }

/-- The bundle's park, at any stage. -/
def State.parkCur (s : State) (p : Park) : State := s.park s.ctx.core s.ctx.slot p

/-- The state a word of a bundle acts on: the trap record of its own trap would name that word (R356). -/
def State.onWord (s : State) (aWord : Bool) : State :=
  { s with ctx := { s.ctx with org := { s.ctx.org with aWord := aWord } } }
/-- What a probe found. -/
def State.found (s : State) (f : Finding) : State := { s with ctx := { s.ctx with found := f } }

/-- One word of a bundle, in the way `ctx.mode` says (R45). On its own it makes all of R45's checks. -/
def runWord (aWord neg : Bool) (grd : BitVec 3) (stall : Nat) (w : WordSpec) (s : State) : Out :=
  if s.cur.isNone then .fault .noThread
  else
    let s := s.onWord aWord
    match s.ctx.mode with
    | .probe => .next (s.found (w.finding neg grd s))
    | .commit => .next (if s.view.guard neg grd then w.perform s else s)
    | .parking => .next (if s.view.guard neg grd then w.onPark s else s)
    | .trapping => .next (w.onTrap s)
    | .alone =>
      match s.verdict [(aWord, w.finding neg grd s)] with
      | .trap a t own => .next ((if own then w.onTrap s else s).issueTrap a t)
      | .park p st4 => .next ((if st4 then w.onPark s else s).parkCur p)
      | .wait => .next s
      | .go => .next (if s.view.guard neg grd then w.perform (s.advance stall) else s.advance stall)

/-- A C-word. -/
def runC (h : CHead) (w : WordSpec) (s : State) : Out :=
  runWord false h.neg h.grd h.stall.toNat w s
/-- An A-word; alone it has no STALL (R24). -/
def runA (h : AHead) (w : WordSpec) (s : State) : Out :=
  runWord true h.neg h.grd 0 w s

end Sys2Proof.Machine
end

