-- ==== Sys2Proof/Machine/Float.lean ====
section
/-! DEFINITION. The number formats (R57–R65), rounding, overflow and flags (R66–R70), conversion (R67, R71), the block
formats (R63, R64, R72), and floating-point arithmetic on exact values (R89–R91). -/

namespace Sys2Proof.Machine

/-- A value read from a register: NaN, infinity, or exactly (−1)^neg × m × 2^e (R58). -/
inductive Num where
  | nan (signalling : Bool)
  | inf (neg : Bool)
  | fin (neg : Bool) (m : Nat) (e : Int)
  deriving DecidableEq, Repr

/-- Flags: NV. -/
def fNV : BitVec 5 := 16
/-- Flags: DZ. -/
def fDZ : BitVec 5 := 8
/-- Flags: OF. -/
def fOF : BitVec 5 := 4
/-- Flags: UF. -/
def fUF : BitVec 5 := 2
/-- Flags: NX. -/
def fNX : BitVec 5 := 1

/-- A format code 0–12 as a floating layout, (exponent bits, mantissa bits, bias), or an integer type,
(signed, width) (R38, R57, R65). -/
inductive Fmt where
  | flt (eb mb bias : Nat)
  | int (signed : Bool) (width : Nat)
  deriving DecidableEq, Repr

/-- The format of a code (R38). -/
def fmtOf (code : Nat) : Fmt :=
  if code = 0 then .flt 8 23 127 else if code = 1 then .flt 5 10 15 else if code = 2 then .flt 8 7 127
  else if code = 3 then .flt 4 3 7 else if code = 4 then .flt 5 2 15
  else if code ≤ 8 then .int true (8 * 2 ^ (code - 5)) else .int false (8 * 2 ^ (code - 9))

/-- Width in bits of a format. -/
def Fmt.width : Fmt → Nat
  | .flt eb mb _ => 1 + eb + mb
  | .int _ w => w

/-- Is it one of the formats of TOPX, E4M3 or E5M2 (R58, R59)? -/
def narrow (eb mb : Nat) : Bool := eb + mb == 7
/-- Does the top code read in the IEEE way (R58, R59)? -/
def ieeeTop (eb mb : Nat) (topx : Bool) : Bool := !narrow eb mb || topx

/-- Reads the low bits of a value in a format (R58, R59, R71). -/
def readFmt (f : Fmt) (topx : Bool) (v : Nat) : Num :=
  match f with
  | .int signed w =>
    let i := if signed then sintOf v w else ((v % 2 ^ w : Nat) : Int)
    .fin (i < 0) i.natAbs 0
  | .flt eb mb bias =>
    let m := v % 2 ^ mb
    let e := v / 2 ^ mb % 2 ^ eb
    let neg := v / 2 ^ (mb + eb) % 2 == 1
    if e == 2 ^ eb - 1 && ieeeTop eb mb topx then
      if m = 0 then .inf neg else .nan (!narrow eb mb && m < 2 ^ (mb - 1))
    else if e == 2 ^ eb - 1 && m == 2 ^ mb - 1 then .nan false
    else if e = 0 then .fin neg m (1 - (bias : Int) - mb)
    else .fin neg (2 ^ mb + m) ((e : Int) - bias - mb)

/-- The canonical NaN of a floating format (R57). -/
def canonNaN (eb mb : Nat) : Nat :=
  if narrow eb mb then 0x7F else (2 ^ eb - 1) * 2 ^ mb + 2 ^ (mb - 1)
/-- The code, without sign, of the largest finite value (R59). -/
def maxCode (eb mb : Nat) (topx : Bool) : Nat :=
  if ieeeTop eb mb topx then (2 ^ eb - 1) * 2 ^ mb - 1 else 2 ^ (eb + mb) - 2

/-- The effective rounding mode: RM 0–4, else STATUS.RM, RNE for 5–7 (R66). -/
def effRM (rm status : Nat) : Nat := if rm ≤ 4 then rm else if status ≤ 4 then status else 0

/-- m / 2^k rounded to an integer in a mode, the sign given; and whether it was inexact (R66). -/
def roundShift (mode : Nat) (neg : Bool) (m k : Nat) : Nat × Bool :=
  let q := m / 2 ^ k
  let r := m % 2 ^ k
  let up :=
    if r = 0 then false
    else if mode = 0 then 2 * r > 2 ^ k || (2 * r == 2 ^ k && q % 2 == 1)
    else if mode = 1 then false
    else if mode = 2 then neg
    else if mode = 3 then !neg
    else 2 * r ≥ 2 ^ k
  (if up then q + 1 else q, r != 0)

/-- m × 2^e rounded to a multiple of 2^q, as its multiple; and whether it was inexact. -/
def quantize (mode : Nat) (neg : Bool) (m : Nat) (e q : Int) : Nat × Bool :=
  if q ≤ e then (m * 2 ^ (e - q).toNat, false) else roundShift mode neg m (q - e).toNat

/-- Floor(log2 (m × 2^e)) for m > 0. -/
def ilog2 (m : Nat) (e : Int) : Int := (Nat.log2 m : Int) + e

/-- The sign bit of a floating layout. -/
def signBit (eb mb : Nat) (neg : Bool) : Nat := if neg then 2 ^ (eb + mb) else 0

/-- The result of an overflow (R68). -/
def overflowTo (eb mb : Nat) (topx : Bool) (mode : Nat) (neg : Bool) : Nat :=
  let big := maxCode eb mb topx
  let inf := (2 ^ eb - 1) * 2 ^ mb
  signBit eb mb neg +
    (if narrow eb mb then big
     else if mode = 1 then big
     else if mode = 2 then (if neg then inf else big)
     else if mode = 3 then (if neg then big else inf)
     else inf)

/-- A finite exact value rounded to a floating format (R67 step 7, R68, R69). -/
def roundFlt (eb mb bias : Nat) (topx : Bool) (mode : Nat) (neg : Bool) (m : Nat) (e : Int) : Nat × BitVec 5 :=
  if m = 0 then (signBit eb mb neg, 0)
  else
    let emin : Int := 1 - (bias : Int)
    let lg := ilog2 m e
    let q := (if lg < emin then emin else lg) - mb
    let r := quantize mode neg m e q
    -- the code on the grid that continues past the largest finite value
    let code := ((q + mb + bias - 1).toNat) * 2 ^ mb + r.1
    if code > maxCode eb mb topx then (overflowTo eb mb topx mode neg, fOF ||| fNX)
    else (signBit eb mb neg + code, if r.2 then (if lg < emin then fUF ||| fNX else fNX) else 0)

/-- `Convert` to an integer type (R67, R68). -/
def roundInt (signed : Bool) (w mode : Nat) (neg : Bool) (m : Nat) (e : Int) : Nat × BitVec 5 :=
  let r := quantize mode neg m e 0
  let v : Int := if neg then -(r.1 : Int) else r.1
  let lo : Int := if signed then -(2 ^ (w - 1) : Nat) else 0
  let hi : Int := if signed then (2 ^ (w - 1) : Nat) - 1 else (2 ^ w : Nat) - 1
  let wrap (i : Int) : Nat := (i % (2 ^ w : Nat)).toNat
  if v < lo then (wrap lo, fNV) else if v > hi then (wrap hi, fNV) else (wrap v, if r.2 then fNX else 0)

/-- `Convert(x, F, mode)` (R67): the bits of the result and the flags. -/
def convert (f : Fmt) (topx : Bool) (mode : Nat) (x : Num) : Nat × BitVec 5 :=
  match f, x with
  | .flt eb mb _, .nan s => (canonNaN eb mb, if s then fNV else 0)
  | .int _ _, .nan _ => (0, fNV)
  | .flt eb mb _, .inf n =>
    if ieeeTop eb mb topx then (signBit eb mb n + (2 ^ eb - 1) * 2 ^ mb, 0)
    else (signBit eb mb n + maxCode eb mb topx, fOF ||| fNX)
  | .int signed w, .inf n =>
    ((if signed then (if n then 2 ^ (w - 1) else 2 ^ (w - 1) - 1) else (if n then 0 else 2 ^ w - 1)), fNV)
  | .flt eb mb bias, .fin n m e => roundFlt eb mb bias topx mode n m e
  | .int signed w, .fin n m e => roundInt signed w mode n m e

/-- A result written to a scalar register: sign- or zero-extended (R71). -/
def writeScalar (f : Fmt) (v : Nat) : Word :=
  match f with
  | .int signed w => extend signed v w
  | .flt _ _ _ => wd v

/-! Arithmetic on exact values (R89–R91). -/

/-- Is the value a NaN? -/
def Num.isNaN : Num → Bool
  | .nan _ => true
  | _ => false
/-- Is it a signalling NaN? -/
def Num.isSig : Num → Bool
  | .nan s => s
  | _ => false
/-- Is it zero? -/
def Num.isZero : Num → Bool
  | .fin _ m _ => m == 0
  | _ => false
/-- Is it infinite? -/
def Num.isInf : Num → Bool
  | .inf _ => true
  | _ => false
/-- The sign. -/
def Num.neg : Num → Bool
  | .nan _ => false
  | .inf n => n
  | .fin n _ _ => n
/-- The value with its sign inverted. -/
def Num.negate : Num → Num
  | .nan s => .nan s
  | .inf n => .inf (!n)
  | .fin n m e => .fin (!n) m e

/-- m × 2^e as an integer multiple of 2^q, q ≤ e. -/
def scaled (neg : Bool) (m : Nat) (e q : Int) : Int :=
  let v : Int := (m * 2 ^ (e - q).toNat : Nat)
  if neg then -v else v

/-- The exact sum of two values that are no NaN, none if invalid; the sign of an exact zero by the mode (R89). -/
def addNum (mode : Nat) (a b : Num) : Option Num :=
  match a, b with
  | .inf n, .inf k => if n == k then some (.inf n) else none
  | .inf n, _ => some (.inf n)
  | _, .inf n => some (.inf n)
  | .fin n1 m1 e1, .fin n2 m2 e2 =>
    let q := if e1 ≤ e2 then e1 else e2
    let v := scaled n1 m1 e1 q + scaled n2 m2 e2 q
    if v = 0 then some (.fin (if n1 == n2 then n1 else mode == 2) 0 0) else some (.fin (v < 0) v.natAbs q)
  | _, _ => none

/-- The exact product of two values that are no NaN, none if invalid (R89). -/
def mulNum (a b : Num) : Option Num :=
  match a, b with
  | .fin n1 m1 e1, .fin n2 m2 e2 => some (.fin (n1 != n2) (m1 * m2) (e1 + e2))
  | .inf n1, x => if x.isZero then none else some (.inf (n1 != x.neg))
  | x, .inf n2 => if x.isZero then none else some (.inf (x.neg != n2))
  | _, _ => none

/-- Comparison a < b of values that are no NaN. -/
def ltNum (a b : Num) : Bool :=
  match a, b with
  | .inf n, .inf k => n && !k
  | .inf n, _ => n
  | _, .inf k => !k
  | .fin n1 m1 e1, .fin n2 m2 e2 =>
    let q := if e1 ≤ e2 then e1 else e2
    scaled n1 m1 e1 q < scaled n2 m2 e2 q
  | _, _ => false
/-- Equality of values that are no NaN; −0 equals +0. -/
def eqNum (a b : Num) : Bool := !a.isNaN && !b.isNaN && !ltNum a b && !ltNum b a

/-- Rounds an operation's exact result, or gives the canonical NaN (R89). -/
def finish (f : Fmt) (mode : Nat) (nan sig : Bool) (x : Option Num) : Nat × BitVec 5 :=
  let nv : BitVec 5 := if sig then fNV else 0
  if nan then ((convert f false mode (.nan false)).1, nv)
  else match x with
    | none => ((convert f false mode (.nan false)).1, fNV)
    | some v => let r := convert f false mode v; (r.1, r.2 ||| nv)

/-- `fadd` and, with the second operand negated, `fsub` (R89). -/
def fAdd (f : Fmt) (mode : Nat) (a b : Num) : Nat × BitVec 5 :=
  finish f mode (a.isNaN || b.isNaN) (a.isSig || b.isSig) (addNum mode a b)
/-- `fmul` (R89). -/
def fMul (f : Fmt) (mode : Nat) (a b : Num) : Nat × BitVec 5 :=
  finish f mode (a.isNaN || b.isNaN) (a.isSig || b.isSig) (mulNum a b)
/-- `fma` (R89): one rounding; 0 × ∞ is invalid whatever d holds. -/
def fFma (f : Fmt) (mode : Nat) (a b d : Num) : Nat × BitVec 5 :=
  let bad := (a.isZero && b.isInf) || (a.isInf && b.isZero)
  if bad then ((convert f false mode (.nan false)).1, fNV)
  else finish f mode (a.isNaN || b.isNaN || d.isNaN) (a.isSig || b.isSig || d.isSig)
    ((mulNum a b).bind fun p => addNum mode p d)
/-- `fmin` (`max` false) and `fmax`, on the bits and values of both operands (R90). -/
def fMinMax (f : Fmt) (max : Bool) (ab bb : Nat) (a b : Num) : Nat × BitVec 5 :=
  let nv : BitVec 5 := if a.isSig || b.isSig then fNV else 0
  if a.isNaN && b.isNaN then ((convert f false 0 (.nan false)).1, nv)
  else if a.isNaN then (bb, nv)
  else if b.isNaN then (ab, nv)
  else
    let aLess := ltNum a b || (eqNum a b && a.neg && !b.neg)
    let bLess := ltNum b a || (eqNum a b && b.neg && !a.neg)
    ((if max then (if aLess then bb else ab) else (if bLess then bb else ab)), nv)
/-- `fcmp` and the float `vcmp` relations, by FC: 0 eq, 1 lt, 2 le, 3 un (R91); the relation and the flags. -/
def fCompare (fc : Nat) (a b : Num) : Bool × BitVec 5 :=
  let nan := a.isNaN || b.isNaN
  let sig := a.isSig || b.isSig
  let nv := if fc = 1 || fc = 2 then nan else sig
  let r := if fc = 3 then nan else if nan then false
    else if fc = 0 then eqNum a b else if fc = 1 then ltNum a b else !ltNum b a
  (r, if nv then fNV else 0)

/-! Blocks (R63, R64, R72). -/

/-- w of a block format by BX code: 2, 4 or 7 (R63). -/
def bxWidth (bx : Nat) : Nat := if bx = 0 then 2 else if bx = 1 then 4 else 7
/-- Bytes of a block (R63). -/
def bxBytes (w : Nat) : Nat := 2 + 2 * w

/-- Q of R72: |x| × 2^(w−1) × 2^(127 − E + d) rounded to an integer in the mode, the sign given. -/
def packQ (mode w E d : Nat) (neg : Bool) (m : Nat) (e : Int) : Nat × Bool :=
  quantize mode neg m (e + w - 1 + 127 - E + d) 0

/-- The largest shift 0–3 at which all magnitudes of a quad fit, or 0 (R72). -/
def packShift (mode w E top : Nat) (xs : List (Bool × Nat × Int)) : Nat :=
  let fits (d : Nat) : Bool := xs.all fun x => (packQ mode w E d x.1 x.2.1 x.2.2).1 ≤ top
  if fits 3 then 3 else if fits 2 then 2 else if fits 1 then 1 else 0

/-- The sign, magnitude and exponent of a value, an infinity saturated (R72). -/
def packValue (w Emax : Nat) : Num → Bool × Nat × Int
  | .nan _ => (false, 0, 0)
  | .inf n => (n, 2 ^ (w - 1) - 1, (Emax : Int) - 127 - (w - 1))
  | .fin n m e => (n, m, e)

/-- `PackBlock` (R72): E, sub, the fields as one number, and the flags. -/
def packBlock (xs : List Num) (w mode : Nat) (topx : Bool) : Nat × Nat × Nat × BitVec 5 :=
  let top := 2 ^ (w - 1) - 1
  let Emax := if topx then 0xFE else 0xFF
  if xs.any Num.isNaN then (0xFF, 0xFF, 0, if xs.any Num.isSig then fNV else 0)
  else
    let infs := xs.any Num.isInf
    let vs := xs.map (packValue w Emax)
    let lgs := vs.filterMap fun v => if v.2.1 = 0 then none else some (ilog2 v.2.1 v.2.2)
    let E0 := match lgs with
      | [] => 0
      | l :: ls =>
        let lg := ls.foldl (fun a b => if a < b then b else a) l + 128
        if lg < 0 then 0 else if lg > Emax then Emax else lg.toNat
    let E1 := if E0 < Emax && vs.any (fun v => (packQ mode w E0 0 v.1 v.2.1 v.2.2).1 > top) then E0 + 1 else E0
    let ds := (List.range 4).map fun j => packShift mode w E1 top ((vs.drop (4 * j)).take 4)
    let qs := vs.mapIdx fun i v => (v, packQ mode w E1 (ds.getD (i / 4) 0) v.1 v.2.1 v.2.2)
    let sat := qs.any fun q => q.2.1 > top
    let fields := (qs.mapIdx fun i q =>
      (Nat.min q.2.1 top + (if q.1.1 then 2 ^ (w - 1) else 0)) * 2 ^ (w * i)).foldl (· + ·) 0
    let inexact := qs.any fun q => q.2.2
    let under := qs.any fun q => q.1.2.1 != 0 && q.2.1 == 0
    let flags : BitVec 5 := (if infs || sat then fOF ||| fNX else 0) ||| (if inexact then fNX else 0) |||
      (if under then fUF else 0)
    let last := !topx && E1 == 0xFF && ds.all (· == 3)
    let E := if last then 0xFE else E1
    let ds := if last then [2, 2, 2, 2] else ds
    (E, ds.getD 0 0 + 4 * ds.getD 1 0 + 16 * ds.getD 2 0 + 64 * ds.getD 3 0, fields, flags)

/-- Is the block a NaN block (R59)? -/
def nanBlock (topx : Bool) (E sub : Nat) : Bool := E == 0xFF && (topx || sub == 0xFF)
/-- Element `i` of a block from its E, sub and fields (R64). -/
def blockElem (w : Nat) (topx : Bool) (E sub fields i : Nat) : Num :=
  if nanBlock topx E sub then .nan false
  else
    let f := fields / 2 ^ (w * i) % 2 ^ w
    let d := sub / 4 ^ (i / 4) % 4
    .fin (f / 2 ^ (w - 1) == 1) (f % 2 ^ (w - 1)) ((E : Int) - 127 - d - (w - 1))

end Sys2Proof.Machine
end

