-- ==== Sys2Proof/Machine/Flags.lean ====
section
/-! DEFINITION. FFLAGS (R70): when flags enter, and what `crd` of FFLAGS waits for. -/

namespace Sys2Proof.Machine

/-- The layout of FFLAGS: bits [4:0] of a 64-bit register (R70). -/
def fflagsWord (f : BitVec 5) : Word := f.setWidth 64

/-- Has an earlier flag-raising instruction of the thread yet to complete (R70)? Pending fixed-latency results that raise
flags, and operations of the matrix queue but `tzero` and `ttrans`, which raise none. -/
def State.flagsPending (s : State) (c sl tid : Nat) : Bool :=
  let k := s.coreAt c
  k.due.any (fun w => w.slot == sl && w.tid == tid && w.flags != 0) || k.mops.any fun m =>
    m.slot == sl && m.tid == tid && m.remote.isNone && m.fn != 0 && m.fn != 3

/-- The flags of a fixed-latency result enter as it is written (R70, R102). -/
def State.raiseDue (s : State) (c : Nat) (w : DueWrite) : State := s.raise ⟨c, w.slot, w.tid⟩ w.flags

end Sys2Proof.Machine
end

