-- ==== Sys2Proof/Machine/Operands.lean ====
section
/-! DEFINITION. Operand forms: the accesses of scalar fields, addresses from segment, index and displacement
(R31, R126), global addresses and their homes (R13–R16), and the checks of R127. -/

namespace Sys2Proof.Machine

/-- The accesses of 5-bit scalar fields, sources high to low: registers read, or queues popped and pushed (R27, R28);
and of registers of other classes. -/
def scalarAcc (src : List (BitVec 5)) (dst : List (BitVec 5 × Option Nat)) (rd : List RegDst := [])
    (wr : List (RegDst × Option Nat) := []) : Access :=
  { reads := ((src.filter (·.toNat < 16)).map fun r => (RegDst.sreg r.toNat, false)) ++ rd.map fun r => (r, false)
    writes := ((dst.filter (·.1.toNat < 16)).map fun r => (RegDst.sreg r.1.toNat, r.2)) ++ wr
    pops := (src.filter (16 ≤ ·.toNat)).map fun r => r.toNat - 16
    pushes := (dst.filter (16 ≤ ·.1.toNat)).map fun r => r.1.toNat - 16 }

/-- A short scalar field as a register. -/
def short (r : BitVec 4) : RegDst := .sreg r.toNat

/-- The signed displacement of a literal (R30). -/
def litDisp (l : Lit) : Int := match l with | none => 0 | some d => d.toInt

/-- SInt of a register used as an index (R126). -/
def sint (w : Word) : Int := w.toInt

/-! Segment descriptors (R124). -/

/-- V. -/
def Seg.valid (g : Seg) : Bool := g.attr.getLsbD 47
/-- TAGX. -/
def Seg.tagx (g : Seg) : Bool := g.attr.getLsbD 46
/-- NOUNDO. -/
def Seg.noundo (g : Seg) : Bool := g.attr.getLsbD 45
/-- The write right. -/
def Seg.w (g : Seg) : Bool := g.attr.getLsbD 44
/-- The read right. -/
def Seg.r (g : Seg) : Bool := g.attr.getLsbD 43
/-- LIMIT. -/
def Seg.limit (g : Seg) : Nat := wbits g.attr 0 43
/-- The address of R126. -/
def Seg.addr (g : Seg) (off : Int) : Word :=
  wd (wbits g.base 57 7 * 2 ^ 57 + (((wbits g.base 0 57 : Nat) + off) % (2 ^ 57 : Nat)).toNat)

/-- TAG of a global address (R14). -/
def tagOf (a : Word) : BitVec 4 := (a >>> 60).setWidth 4
/-- SPACE of a global address (R14). -/
def spaceOf (a : Word) : Nat := wbits a 57 3
/-- The offset of a SPACE 1 address (R14). -/
def offOf (a : Word) : Nat := wbits a 0 20
/-- The virtual address of a SPACE 0 or 2 address (R14). -/
def vaOf (a : Word) : Nat := wbits a 0 43

/-- Does logical device `d` name the issuing device in this interface's table (R14, R15)? An entry that names it while
marked in transit does: nothing is sent, so nothing is held (DESIGN CHOICE, log 67). -/
def State.ownDev (s : State) (c d : Nat) : Bool :=
  d == 0x3FFF || match tget (s.coreAt c).devPlace d with
    | some p => p.valid && p.phys == s.devIdx
    | none => false
/-- Has the logical device an entry, or is it this device? -/
def State.devOk (s : State) (c d : Nat) : Bool :=
  d == 0x3FFF || match tget (s.coreAt c).devPlace d with
    | some p => p.valid
    | none => false
/-- Has the logical core an entry? -/
def State.coreOk (s : State) (c l : Nat) : Bool :=
  match tget (s.coreAt c).place l with
  | some p => p.valid
  | none => false

/-- The check of R15 on a global address at an interface: cause and subcode. -/
def State.r15 (s : State) (c : Nat) (a : Word) : Option (Nat × Nat) :=
  let bad : Option (Nat × Nat) := some (5, 2)
  let tag : Option (Nat × Nat) := if tagOf a != 0 then some (7, 1) else none
  match spaceOf a with
  | 0 => if wbits a 43 14 != 0 then bad else none
  | 1 =>
    if wbits a 20 11 != 0 || offOf a ≥ 786432 || !s.devOk c (wbits a 43 14) || !s.coreOk c (wbits a 31 12) then bad
    else none
  | 2 => if !s.devOk c (wbits a 43 14) then bad else none
  | 3 => if wbits a 48 9 != 0 then bad else tag
  | 4 => if wbits a 32 25 != 0 then bad else tag
  | _ => bad

/-- Where an address is performed (R13): a core or port of this device, the PCIe interface, code, another device, or a
placement entry in transit (R16). -/
inductive Home where
  | core (c : Nat)
  | port (p : Nat)
  | host
  | code
  | dev (d : Nat)
  | transit
  deriving DecidableEq, Repr

/-- Do two addresses of a space name one unit: a scratchpad of a device, the HBM of a device? SPACE 0, 3 and 4 are one
unit each (R14). -/
def oneUnit (a z : Word) : Bool :=
  match spaceOf a with
  | 1 => wbits z 31 26 == wbits a 31 26
  | 2 => wbits z 43 14 == wbits a 43 14
  | _ => true
/-- The check of R15 on the range of an access: its first and its last byte, which must keep to one unit's space
(DEDUCED, log 66). -/
def State.r15Span (s : State) (c : Nat) (a : Word) (n : Nat) : Option (Nat × Nat) :=
  let z := Seg.addr ⟨a, 0⟩ ((n : Int) - 1)
  (s.r15 c a) <|> (if n ≤ 1 then none else if oneUnit a z then s.r15 c z else some (5, 2))

/-- The home of a global address that passes R15, by the issuing core's tables (R13–R16). -/
def State.homeOf (s : State) (c : Nat) (a : Word) : Home :=
  let k := s.coreAt c
  let far (d : Nat) (own : Home) : Home :=
    if s.ownDev c d then own
    else match tget k.devPlace d with
      | some p => if p.transit then .transit else .dev p.phys
      | none => .transit
  match spaceOf a with
  | 0 => .port (portOf (vaOf a))
  | 1 =>
    match tget k.place (wbits a 31 12) with
    | some p => if p.transit then .transit else far (wbits a 43 14) (.core p.phys)
    | none => .transit
  | 2 => far (wbits a 43 14) (.port (portOf (vaOf a)))
  | 3 => .host
  | _ => .code

/-- The device and the physical core of a scratchpad or HBM home, as the tables of core `c` name them (R16, R244). -/
def State.unitOf (s : State) (c : Nat) (a : Word) : Nat × Nat :=
  let core := if spaceOf a = 1 then ((tget (s.coreAt c).place (wbits a 31 12)).map (·.phys)).getD 0
    else portCore (portOf (vaOf a))
  match s.homeOf c a with
  | .core k => (s.devIdx, k)
  | .dev d => (d, core)
  | _ => (s.devIdx, core)

/-- Messages held at core `c`'s interface for an entry in transit (R16). -/
def heldNode (c : Nat) : Nat := 0x10000 + c
/-- The node a home's messages go to. -/
def homeNode (c : Nat) : Home → Nat
  | .core k => k
  | .port p => portNode p
  | .host => pcieNode
  | .code => pcieNode
  | .dev d => devNode d
  | .transit => heldNode c

/-- A trap with an address. -/
def trapAt (cause sub : Nat) (a : Word) (detail : Word := 0) : TrapInfo := ⟨cause, sub, a, detail⟩

/-- Steps 3–7 of R127 on an access of `size` bytes at `off` in a segment: the trap, or the address. -/
def State.segCheck (s : State) (g : Seg) (off : Int) (size : Nat) (r w : Bool) (align : Nat) : Except TrapInfo Word :=
  let a := g.addr off
  if !g.valid then .error (trapAt 6 1 g.base)
  else if (r && !g.r) || (w && !g.w) then .error (trapAt 6 3 g.base)
  else if off < 0 || off + size > g.limit then .error (trapAt 5 1 a)
  else if a.toNat % align != 0 then .error (trapAt 8 0 a)
  else match s.r15Span s.ctx.core a size with
    | some t => .error (trapAt t.1 t.2 a (if t.1 = 7 then wd ((tagOf a).toNat * 16) else 0))
    | none => .ok a

/-- The park of step 2 of R127. -/
def State.segBusy (s : State) (sg : Nat) : Option Park :=
  if s.view.sgBusy.getLsbD sg then some Park.other else none

/-- Step 8 of R127 for an access that only this core's scratchpad performs; a light or travelling thread that addresses
another home has no trap here (R290). -/
def State.homeCheck (s : State) (a : Word) (barrier : Bool := false) : Option TrapInfo :=
  match s.homeOf s.ctx.core a with
  | .host => some (trapAt 5 5 a)
  | .code => some (trapAt 5 5 a)
  | .core k => if k = s.ctx.core || s.view.kind != 0 then none else some (trapAt 5 3 a)
  | .port _ => if barrier then some (trapAt 5 5 a) else if s.view.kind != 0 then none else some (trapAt 5 3 a)
  | .dev _ => if barrier && spaceOf a = 2 then some (trapAt 5 5 a) else if s.view.kind != 0 then none else some (trapAt 5 3 a)
  | .transit => if barrier && spaceOf a = 2 then some (trapAt 5 5 a) else if s.view.kind != 0 then none else some (trapAt 5 3 a)

/-- Is the address in the issuing core's own scratchpad? -/
def State.isLocal (s : State) (a : Word) : Bool := s.homeOf s.ctx.core a == .core s.ctx.core

/-- The global address a unit of core `c` reports for its scratchpad offset (R14): the own device, and the logical core
whose entry names `c`. -/
def State.spadAddr (s : State) (c : Nat) (tag : BitVec 4) (off : Nat) : Word :=
  let l := (((s.coreAt c).place.find? fun e => e.2.valid && e.2.phys == c).map (·.1)).getD c
  wd (tag.toNat * 2 ^ 60 + 2 ^ 57 + 0x3FFF * 2 ^ 43 + l * 2 ^ 31 + off)

/-- Instructions an uncommitted task's threads may not issue (R319). -/
def State.uncommitted (s : State) : Option TrapInfo :=
  if (tget s.tasks s.view.task).any (·.committed) then none else some ⟨0x0E, 1, 0, 0⟩

/-- Granules that `n` bytes at an offset touch. -/
def granulesOf (off n : Nat) : List Nat :=
  if n = 0 then [] else (List.range ((off + n - 1) / 64 - off / 64 + 1)).map fun i => off / 64 + i

/-- DETAIL of a tag mismatch: the expected tag and the granule's (R128). -/
def tagDetail (want got : BitVec 4) : Word := wd (want.toNat * 16 + got.toNat)

/-- The tag check of a scratchpad access to granules (R128). -/
def State.tagCheckAt (s : State) (c : Nat) (g : Seg) (a : Word) (gs : List Nat) : Option TrapInfo :=
  if g.tagx then none
  else gs.findSome? fun i =>
    let t := s.spadTagAt c i
    if t == tagOf a then none else some (trapAt 7 1 a (tagDetail (tagOf a) t))
/-- The tag check of `n` bytes. -/
def State.tagCheck (s : State) (c : Nat) (g : Seg) (a : Word) (n : Nat) : Option TrapInfo :=
  s.tagCheckAt c g a (granulesOf (offOf a) n)

/-- Is a granule owned by a copy in flight (R122)? -/
def Core.owned (k : Core) (g : Nat) : Bool := k.copies.any fun x => x.owned.contains g

/-- Does a copy wait for local accesses still queued, its own or those of a copy before it (R270)? -/
def Core.copyQueued (k : Core) (o : CopyOp) : Bool := k.copies.any fun x => x.id ≤ o.id && x.waits + x.pushWaits != 0
/-- Is a granule owned by a copy that does not itself wait for accesses in the queue? An access already queued waits for
such a copy, and goes before any other (DEDUCED, log 74; R122, R282). -/
def Core.ownedLate (k : Core) (g : Nat) : Bool := k.copies.any fun x => x.owned.contains g && !k.copyQueued x
/-- Step 10 of R127 (R122, R123, R133). -/
def State.resourcePark (s : State) (dc : Option Nat) (gs : List Nat) (write : Bool) : Option Park :=
  if (match dc with | some d => decide (s.view.dcount d ≥ 63) | none => false) then some Park.other
  else if gs.any s.curCore.owned then some Park.other
  else if write && s.undoBlocks s.ctx.core gs then some Park.other
  else none

/-! Memory operands. -/

/-- Access size by TY: 1, 2, 4 or 8 bytes (R32, R129). -/
def tySize (ty : BitVec 3) : Nat := if ty = 3 then 8 else 2 ^ (ty.toNat % 4)
/-- Is the load sign-extending (R32)? `.s64` and `.n64` are one. -/
def tySigned (ty : BitVec 3) : Bool := ty.toNat < 4

/-- An operand's segment number and offset. -/
structure MemRef where
  sg : Nat
  off : Int
  deriving DecidableEq, Repr

/-- Format CM's operand: the index scaled by the access size (R31). -/
def State.refCM (s : State) (sg : BitVec 3) (ix : Bool) (idx : BitVec 4) (lit : Lit) (scale : Nat) : MemRef :=
  ⟨sg.toNat, (if ix then sint (s.sval4 idx) * scale else 0) + litDisp lit⟩
/-- The operand `[sgN + sK]` of formats CR and CW, unscaled. -/
def State.refR (s : State) (m : MemR) (before : List (BitVec 5) := []) : MemRef :=
  ⟨m.sg.toNat, sint (s.sval m.idx before) + litDisp m.lit⟩
/-- The registers format CM's index reads. -/
def idxReads (ix : Bool) (idx : BitVec 4) : List RegDst := if ix then [short idx] else []

/-- Steps 3–7 of R127 on an operand. -/
def State.check (s : State) (m : MemRef) (size : Nat) (r w : Bool) (align : Nat) : Except TrapInfo Word :=
  s.segCheck (s.view.seg m.sg) m.off size r w align

/-- Steps 3–9 of R127 for a local access. -/
def State.checkLocal (s : State) (m : MemRef) (size : Nat) (r w : Bool) (align : Nat) (tags : Bool := true) :
    Except TrapInfo Word :=
  match s.check m size r w align with
  | .error t => .error t
  | .ok a =>
    match s.homeCheck a with
    | some t => .error t
    | none =>
      if tags && s.isLocal a then
        match s.tagCheck s.ctx.core (s.view.seg m.sg) a size with
        | some t => .error t
        | none => .ok a
      else .ok a

/-- The trap of a check, if any. -/
def trapOf {α : Type} (e : Except TrapInfo α) : Option TrapInfo := match e with | .error t => some t | .ok _ => none
/-- The address a check found. -/
def addrOf (e : Except TrapInfo Word) : Word := match e with | .ok a => a | .error _ => 0

/-! Local accesses (R120, R121). -/

/-- The cycle the next local access of a core is performed: two after it is queued, or after those queued in the cycles
before; accesses queued in one cycle share theirs (R121, R153). -/
def State.localSlot (s : State) (c : Nat) : Nat :=
  let k := s.coreAt c
  Nat.max (s.cycle + 2) (if k.localAt = s.cycle then k.localFree - 1 else k.localFree)
/-- The place of `n` accesses at the end of the queue, one cycle each, is taken. -/
def State.takeSlots (s : State) (c n : Nat) : State :=
  s.modCore c fun k => { k with localFree := s.localSlot c + n, localAt := s.cycle }

/-- Puts an access on the local access queue: its granules, which lie in different banks, are performed in one cycle,
in the order given (R119–R121). -/
def State.queueLocal (s : State) (c : Nat) (as : List LocalAcc) : State :=
  let p := s.localSlot c
  let s := s.takeSlots c 1
  as.foldl (fun s a => (s.at p ⟨.localAccessPerformed c a, {}⟩).modWho a.who fun t => { t with localOut := t.localOut + 1 }) s

/-- Puts the granules of a unit's transfer on the local access queue, one in each cycle (R178, R184, R210). -/
def State.queueRun (s : State) (c : Nat) (as : List LocalAcc) : State :=
  let p := s.localSlot c
  let s := s.takeSlots c (Nat.max 1 as.length)
  as.zipIdx.foldl (fun (s : State) (a : LocalAcc × Nat) =>
    (s.at (p + a.2) ⟨.localAccessPerformed c a.1, {}⟩).modWho a.1.who fun t => { t with localOut := t.localOut + 1 }) s

/-- One access of the issuing thread. -/
def State.localAccess (s : State) (off : Nat) (noundo : Bool) (op : LocalOp) : State :=
  s.queueLocal s.ctx.core [⟨s.me, s.ctx.org, off, noundo, op⟩]

/-- Bytes with their scratchpad offsets. -/
def cellsAt (off : Nat) (bs : List Byte) : List (Nat × Byte) := bs.mapIdx fun i b => (off + i, b)

end Sys2Proof.Machine
end

