-- ==== Sys2Proof/Machine/Flow.lean ====
section
/-! DEFINITION. Control flow (R109–R118), how a thread leaves its slot for another core (R289, R290, R297), the
directory entries code is fetched through (R295), and a bundle that is no instruction (R43). -/

namespace Sys2Proof.Machine

/-- A node that names no core: a replica without a placement entry (R292 step 1). -/
def noNode : Nat := 0x3FFFF

/-- A thread's departure begins: the slot is parked until the destination answers (R289). `via` names the home it goes to. -/
def State.depart (s : State) (dest kind : Nat) (addr : Word) (via : Word := addr) : State :=
  (s.modCur fun t => { t with depart := some ⟨dest, kind, addr, false, false, s.cycle, via, false⟩ }).parkCur Park.other

/-- The core node a light or travelling thread goes to for an address (R290): a port's is its port core. -/
def travelNode (c : Nat) (h : Home) : Nat :=
  match h with
  | .port p => portCore p
  | h => homeNode c h

/-- The trap of a bundle that has travelled eight times without issuing (R291). -/
def State.tooFar (s : State) (a : Word) : Option TrapInfo := if s.view.travels ≥ 8 then some (trapAt 0x10 5 a) else none

/-- The directory entry of (task, segment) at a core (R295). -/
def Core.codeEntry (k : Core) (task seg : Nat) : Option CodeEntry :=
  k.codeDir.find? fun e => e.task == task && e.seg == seg && !e.free

/-- SEGMAP.COUNT (R296). -/
def Thread.segCount (t : Thread) : Nat := wbits t.segmap 0 9
/-- The coppice table entry of segment `g` at core `c`: its scratchpad offset (R296). -/
def Thread.copOff (t : Thread) (g : Nat) : Nat := wbits t.segmap 32 20 + 32 * g
/-- NREP of a segment (R296). -/
def State.nrep (s : State) (c : Nat) (t : Thread) (g : Nat) : Nat := leNat (s.spadRead c (t.copOff g) 2)
/-- The logical core of replica `j` (R296). -/
def State.replicaCore (s : State) (c : Nat) (t : Thread) (g j : Nat) : Nat := leNat (s.spadRead c (t.copOff g + 2 + 2 * j) 2)
/-- The node of replica `j` (R296), through the placement table; in transit, what is sent there is held (R16). -/
def State.replica (s : State) (c : Nat) (t : Thread) (g j : Nat) : Nat :=
  match tget (s.coreAt c).place (s.replicaCore c t g j) with
  | some p => if !p.valid then noNode else if p.transit then heldNode c else p.phys
  | none => noNode
/-- The address that names replica `j`'s core. -/
def State.replicaAddr (s : State) (c : Nat) (t : Thread) (g j : Nat) : Word :=
  wd (2 ^ 57 + 0x3FFF * 2 ^ 43 + s.replicaCore c t g j % 4096 * 2 ^ 31)
/-- The replica a thread goes to of its own accord (R297). -/
def State.ownReplica (s : State) (c : Nat) (t : Thread) (g : Nat) : Nat := t.tid % 2 ^ 32 % s.nrep c t g

/-- A PC as an address. -/
def pcWord (t : Word32) : Word := t.setWidth 64
/-- The segment number of a PC (R26). -/
def segOf (t : Word32) : Nat := bits t.toNat 16 16

/-- The directory's segment a thread fetches its PC from (R295). -/
def Thread.fetchSeg (t : Thread) : Nat := if t.kind = 2 then segOf t.pc else 0
/-- The 64 bits of a bundle at `pc` under a directory entry (R295). -/
def State.bundleOf (s : State) (c : Nat) (e : CodeEntry) (pc : Word32) : Word :=
  wd (leNat ((List.range 8).map fun i => mget s.istore (istoreKey c ((e.origin + pc.toNat % 65536 + i) % 65536))))
/-- The bundle at a thread's PC, 0 if its core holds no code there. -/
def State.bundleAt (s : State) (c : Nat) (t : Thread) : Word :=
  match (s.coreAt c).codeEntry t.task t.fetchSeg with
  | some e => s.bundleOf c e t.pc
  | none => 0

/-- A thread's next bundle as the origin of what it causes (R155, R356). -/
def State.nextOrg (s : State) (c : Nat) (t : Thread) : Origin := ⟨t.pc, s.bundleAt c t, false, t.srep.isSome⟩
/-- The trap of a transfer to `t` (R26, R109, R297). -/
def State.jumpTrap (s : State) (t : Word32) : Option TrapInfo :=
  let th := s.view
  if t.toNat % 8 != 0 then some (trapAt 8 0 (pcWord t))
  else if th.kind != 2 then (if segOf t != 0 then some (trapAt 0x17 1 (pcWord t)) else none)
  else if (s.curCore.codeEntry th.task (segOf t)).isSome then none
  else if segOf t ≥ th.segCount || s.nrep s.ctx.core th (segOf t) = 0 then some (trapAt 0x0F 1 (pcWord t))
  else none

/-- The transfer itself (R109, R297). -/
def State.jumpTo (s : State) (t : Word32) : State :=
  let th := s.view
  let s := s.modCur fun x => { x with pc := t }
  if th.kind = 2 && (s.curCore.codeEntry th.task (segOf t)).isNone then
    let j := s.ownReplica s.ctx.core th (segOf t)
    s.depart (s.replica s.ctx.core th (segOf t) j) 1 (pcWord t) (s.replicaAddr s.ctx.core th (segOf t) j)
  else s

/-- The target of a displacement (R109). -/
def State.dispTarget (s : State) (d : Disp) : Word32 :=
  match d with
  | .short x => s.ctx.org.pc + 8 * x.signExtend 32
  | .long x => s.ctx.org.pc + 8 * x
/-- The return address of the bundle being issued (R112). -/
def State.nextPc (s : State) : Word32 := s.ctx.org.pc + 8

/-- `nop`, C-word (R116). -/
def execNopC (h : CHead) (s : State) : Out := runC h {} s
/-- `br` (R111). -/
def execBr (h : CHead) (d : Disp) (s : State) : Out :=
  runC h { trap3 := fun s => s.jumpTrap (s.dispTarget d), effect := fun s => s.jumpTo (s.dispTarget d) } s
/-- `call` (R112). -/
def execCall (h : CHead) (d : Disp) (s : State) : Out :=
  runC h
    { acc := fun _ => scalarAcc [] [(15, some 1)]
      trap3 := fun s => s.jumpTrap (s.dispTarget d)
      effect := fun s => (s.result 15 1 (pcWord s.nextPc)).jumpTo (s.dispTarget d) } s
/-- `ret` (R113). -/
def execRet (h : CHead) (s : State) : Out :=
  runC h
    { acc := fun _ => scalarAcc [15] []
      trap3 := fun s => s.jumpTrap ((s.sval 15).setWidth 32)
      effect := fun s => s.jumpTo ((s.sval 15).setWidth 32) } s
/-- `jr` (R113). -/
def execJr (h : CHead) (a : BitVec 5) (s : State) : Out :=
  runC h
    { acc := fun _ => scalarAcc [a] []
      trap3 := fun s => s.jumpTrap ((s.sval a).setWidth 32)
      effect := fun s => s.jumpTo ((s.sval a).setWidth 32) } s
/-- `loop` (R114). -/
def execLoop (h : CHead) (cnt : BitVec 4) (d : BitVec 14) (s : State) : Out :=
  let target (s : State) : Word32 := s.ctx.org.pc + 8 * d.signExtend 32
  runC h
    { acc := fun _ => scalarAcc [] [(cnt.setWidth 5, some 1)] [short cnt]
      trap3 := fun s => if s.sval4 cnt - 1 != 0 then s.jumpTrap (target s) else none
      effect := fun s =>
        let c := s.sval4 cnt - 1
        let s := s.result (cnt.setWidth 5) 1 c
        if c != 0 then s.jumpTo (target s) else s } s
/-- `yield` (R98, R115): marks the slot yielded and leaves no greedy slot; a `nop` under round-robin. -/
def execYield (h : CHead) (s : State) : Out :=
  runC h
    { effect := fun s =>
        if s.curCore.issuepol.getLsbD 0 then s
        else s.modCore s.ctx.core fun k => { k with yielded := setBit k.yielded s.ctx.slot true, greedy := none } } s

/-- A word of the bundle decodes to no instruction: the trap of R43. The subject's flag names the A-word, its numbers the
cause and subcode. -/
def execIllegalEncodingIssue (s : State) : Out :=
  if s.cur.isNone then .fault .noThread else .next (s.issueTrap s.subj.b ⟨s.subj.n, s.subj.m, 0, 0⟩)

end Sys2Proof.Machine
end

