-- ==== Sys2Proof/Machine/Local.lean ====
section
/-! DEFINITION. Scratchpad, segment and tag instructions (R119–R145): what each checks, and what it queues. -/

namespace Sys2Proof.Machine

/-! Requests (R258–R260, R277). -/

/-- The scope class of a home relative to a core (R277). -/
def State.classOf (s : State) (c : Nat) (a : Word) (h : Home) : Nat :=
  match h with
  | .core k => if k = c then 0 else if k / 288 = c / 288 then 1 else 2
  | .port p => if portCore p = c then 0 else if p / 32 = c / 288 then 1 else 2
  | .host => 2
  | .code => 2
  | .dev _ => 3
  | .transit => if spaceOf a = 1 && s.ownDev c (wbits a 43 14) then 2 else 3

/-- The step a request's arrival is. -/
def reqStep (r : Req) : Instr :=
  match r.kind with
  | .read => .globalRead r
  | .launchRec => .globalRead r
  | .copyRead => .globalRead r
  | .codeRead => .globalRead r
  | .write => .globalWrite r
  | .copyWrite => .globalWrite r
  | .atomic => .atomicAtHome r
  | .reduce => .atomicAtHome r
  | .amsg => .atomicAtHome r
  | .segRead => .globalRead r
  | .tagRead => .globalRead r
  | .tagWrite => .globalWrite r
  | .heap => .atomicAtHome r
  | .flush => .flushReadAtHome r
/-- Has the request a reply that AOUT counts (R258)? -/
def reqCounts (r : Req) : Bool := r.kind == .atomic || r.kind == .amsg
/-- Is the request one of a copy's, which are a source of their own (R18, R282), or of a code load's (R366)? The thread
counts neither, and no replay filter keeps them. -/
def ofCopy (r : Req) : Bool := r.kind == .copyRead || r.kind == .copyWrite || r.kind == .codeRead
/-- The source a request belongs to: its thread, or its copy (R18). -/
def reqSource (r : Req) : Nat × Nat := (r.who.tid, if ofCopy r then r.copyId + 1 else 0)
/-- Does the request write? -/
def reqWrites (r : Req) : Bool := r.kind == .write || r.kind == .copyWrite || r.kind == .atomic || r.kind == .reduce ||
  r.kind == .tagWrite || r.kind == .heap
/-- The node of a request's home, by the table of the issuing core as it stands (R16). -/
def State.reqNode (s : State) (c : Nat) (r : Req) : Nat := homeNode c (s.homeOf c r.addr)

/-- A request of the issuing thread through a segment. -/
def State.newReq (s : State) (kind : ReqKind) (a : Word) (size : Nat) (g : Seg) : Req where
  node := homeNode s.ctx.core (s.homeOf s.ctx.core a)
  who := s.me
  org := s.ctx.org
  kind := kind
  addr := a
  size := size
  data := []
  cmp := 0
  op := 0
  ty := 0
  signed := false
  dst := .none
  dc := none
  bar := none
  tagx := g.tagx
  noundo := g.noundo
  pdid := s.view.pdid
  rin := s.curCore.rinCur.toNat
  cls := s.classOf s.ctx.core a (s.homeOf s.ctx.core a)
  seq := ((s.cur.getD Thread.reset).seq + 1).toNat
  copyId := 0
  gran := 0

/-- Counts one more request of the issuing thread (R258, R277). -/
def State.countOut (s : State) (cls : Nat) (atomic : Bool) : State :=
  s.modCur fun t =>
    { t with seq := t.seq + 1, outst := vset t.outst cls (vget 0 t.outst cls + 1), aout := t.aout + atomic.toNat }
/-- One request fewer is outstanding. -/
def State.countIn (s : State) (w : SlotRef) (cls : Nat) (atomic : Bool) : State :=
  s.modWho w fun t => { t with outst := vset t.outst cls (vget 0 t.outst cls - 1), aout := t.aout - atomic.toNat }

/-- Sends a request's step to its home: one to the own core enters the local access queue (R276). -/
def State.emit (s : State) (c : Nat) (r : Req) : State :=
  if r.node = c then
    (s.takeSlots c 1).at (s.localSlot c) ⟨reqStep r, {}⟩
  else s.send c r.node (reqStep r)
/-- Sends a request of the issuing thread and keeps it until it is acknowledged (R258, R260). -/
def State.sendReq (s : State) (r : Req) : State :=
  let c := s.ctx.core
  let s := (s.countOut r.cls (reqCounts r)).modCore c fun k => { k with unacked := k.unacked ++ [r] }
  (s.emit c r).after 32768 .requestResendTimeout { core := c, n := r.who.tid, m := r.seq }

/-- Requests outstanding (R258). -/
def Thread.outAll (t : Thread) : Nat := t.outst.toList.foldl (· + ·) 0
/-- The park of one more request (R258). -/
def Thread.outPark (t : Thread) (atomic : Bool) : Option Park :=
  if t.outAll ≥ 255 || (atomic && t.aout ≥ 16) then some Park.other else none

/-- Is the home another core, for a travelling thread: a port's is its port core (R261, R290)? -/
def State.elsewhere (s : State) (a : Word) : Bool :=
  match s.homeOf s.ctx.core a with
  | .host => false
  | .code => false
  | h => travelNode s.ctx.core h != s.ctx.core
/-! The checks of R127 and what a local access is. -/

/-- How an instruction uses the scratchpad: its operand, size, rights, alignment, whether it checks tags, whether only
scratchpad can hold its object (R396), its counter, and whether it writes. -/
structure LocalUse where
  ref : State → MemRef
  size : Nat
  r : Bool := false
  w : Bool := false
  align : Nat := 1
  tags : Bool := true
  barrier : Bool := false
  dc : Option Nat := none
  write : Bool := false
  touch : Nat → List Nat := fun off => granulesOf off size

/-- Steps 3–7 of R127. -/
def LocalUse.addr (u : LocalUse) (s : State) : Except TrapInfo Word := s.check (u.ref s) u.size u.r u.w u.align
/-- The segment an access names. -/
def LocalUse.seg (u : LocalUse) (s : State) : Seg := s.view.seg (u.ref s).sg
/-- Steps 3–9 of R127, and R291. -/
def LocalUse.trap (u : LocalUse) (s : State) : Option TrapInfo :=
  match u.addr s with
  | .error t => some t
  | .ok a =>
    (s.homeCheck a u.barrier) <|>
    (if s.isLocal a then (if u.tags then s.tagCheckAt s.ctx.core (u.seg s) a (u.touch (offOf a)) else none)
     else if s.elsewhere a then s.tooFar a else none)
/-- Does the address lie at another core's home, so that a light thread travels (R290)? -/
def LocalUse.far (u : LocalUse) (s : State) : Bool :=
  let a := addrOf (u.addr s)
  !s.isLocal a && s.elsewhere a
/-- Step 10 of R127, or the travel of R290; at the port that is the home, the park of a request (R258). -/
def LocalUse.park (u : LocalUse) (s : State) : Option Park :=
  let a := addrOf (u.addr s)
  if u.far s then some Park.other
  else if s.isLocal a then s.resourcePark u.dc (u.touch (offOf a)) u.write
  else s.view.outPark false <|> s.resourcePark u.dc [] false
/-- The departure of R290. -/
def LocalUse.onPark (u : LocalUse) (s : State) : State :=
  if u.far s then
    let a := addrOf (u.addr s)
    s.depart (travelNode s.ctx.core (s.homeOf s.ctx.core a)) 0 a
  else s
/-- A word that makes one local access. A light thread at the port core that is its operand's home makes it there, by the
request `port` completes (R127 step 8, R290). -/
def LocalUse.spec (u : LocalUse) (acc : Access) (effect : Word → State → State)
    (port : Req → State → State × Req := fun r s => (s, r)) : WordSpec where
  acc _ := acc
  park2 s := s.segBusy (u.ref s).sg
  trap3 := u.trap
  park4 := u.park
  onPark := u.onPark
  effect s :=
    let a := addrOf (u.addr s)
    let s' :=
      if s.isLocal a then effect a s
      else
        let r := port { s.newReq .read a u.size (u.seg s) with dc := u.dc } s
        r.1.sendReq r.2
    match u.dc with
    | some d => s'.incD d
    | none => s'

/-- The use of a format CM access (R129). -/
def cmUse (m : CM) (write : Bool) : LocalUse where
  ref s := s.refCM m.sg m.ix m.idx m.lit (tySize m.ty)
  size := tySize m.ty
  r := !write
  w := write
  align := tySize m.ty
  dc := some m.dc.toNat
  write := write

/-- `ld` (R129). -/
def execLd (h : CHead) (m : CM) (s : State) : Out :=
  let u := cmUse m false
  runC h (u.spec (scalarAcc [] [(m.reg, none)] (idxReads m.ix m.idx)) (fun a s =>
    let r := s.track m.reg
    r.1.localAccess (offOf a) false (.read (tySize m.ty) (tySigned m.ty) r.2 (some m.dc.toNat)))
    fun r s =>
      let d := s.track m.reg
      (d.1, { r with signed := tySigned m.ty, dst := d.2 })) s

/-- `st` (R129). -/
def execSt (h : CHead) (m : CM) (s : State) : Out :=
  let u := cmUse m true
  runC h (u.spec (scalarAcc [m.reg] [] (idxReads m.ix m.idx)) (fun a s =>
    s.localAccess (offOf a) (u.seg s).noundo
      (.write (cellsAt (offOf a) (toLE (tySize m.ty) (s.sval m.reg).toNat)) true (some m.dc.toNat)))
    fun r s => (s, { r with kind := .write, data := toLE (tySize m.ty) (s.sval m.reg).toNat })) s

/-- Registers of a group (R130). -/
def groupRegs (v : BitVec 5) (n : Nat) : List Nat := (List.range n).map fun i => v.toNat + i

/-- The use of a format CV access (R130). -/
def cvUse (m : CV) (write : Bool) : LocalUse where
  ref s := s.refCM m.sg m.ix m.idx m.lit (64 * 2 ^ m.g.toNat)
  size := 64 * 2 ^ m.g.toNat
  r := !write
  w := write
  align := 64
  dc := some m.dc.toNat
  write := write

/-- A thread that holds no vector state traps (R11, R130, R268). -/
def needsAll (s : State) : Option (Nat × Nat) := if s.view.holdsAll then none else some (1, 5)
/-- Only an anchored thread may; a handler may not (R268). -/
def anchoredOnly (s : State) : Option (Nat × Nat) := if s.view.kind = 0 then none else some (1, 5)

/-- A stream register is named outside the rules of R154. -/
def State.boundReg (s : State) (r : Nat) : Option Stream := if r < 28 then none else vget none s.view.streams (r - 28)

/-- Trap of `ldv` and `stv` on a bound stream register (R154). -/
def streamNamed (v : BitVec 5) (n : Nat) (s : State) : Option TrapInfo :=
  if (groupRegs v n).any fun r => (s.boundReg r).isSome then some ⟨2, 2, 0, 0⟩ else none

/-- `ldv` (R130): the group is full as its last granule is written. -/
def execLdv (h : CHead) (m : CV) (s : State) : Out :=
  let u := cvUse m false
  let n := 2 ^ m.g.toNat
  let rs := groupRegs m.vr n
  let spec := u.spec (scalarAcc [] [] (idxReads m.ix m.idx) (rs.map fun r => (.vreg r, none))) fun a s =>
    let s := rs.foldl (fun s r => s.modCur (·.mark (.vreg r) true)) s
    s.queueLocal s.ctx.core (rs.mapIdx fun i r =>
      ⟨s.me, s.ctx.org, offOf a + 64 * i, false, .readV r (if i + 1 = n then some (m.vr.toNat, n) else none)
        (if i + 1 = n then some m.dc.toNat else none)⟩)
  runC h { spec with kind := needsAll, trap3 := fun s => streamNamed m.vr n s <|> u.trap s } s

/-- `stv` (R130). -/
def execStv (h : CHead) (m : CV) (s : State) : Out :=
  let u := cvUse m true
  let n := 2 ^ m.g.toNat
  let rs := groupRegs m.vr n
  let spec := u.spec (scalarAcc [] [] (idxReads m.ix m.idx ++ rs.map .vreg)) fun a s =>
    s.queueLocal s.ctx.core (rs.mapIdx fun i r =>
      ⟨s.me, s.ctx.org, offOf a + 64 * i, (u.seg s).noundo,
        .write (cellsAt (offOf a + 64 * i) (toLE 64 (s.view.vreg r).toNat)) (i + 1 = n) (some m.dc.toNat)⟩)
  runC h { spec with kind := needsAll, trap3 := fun s => streamNamed m.vr n s <|> u.trap s } s

/-- The trap of `ldp` (R136). -/
def ldpTrap (m : CP) (s : State) : Option TrapInfo :=
  let size := wbits s.view.pwsize 0 9
  let n := tySize m.ty
  if size = 0 then some (trapAt 9 2 0)
  else if m.off.toNat + n > size then some (trapAt 9 1 0)
  else if m.off.toNat % n != 0 then some (trapAt 8 0 0)
  else none

/-- `ldp` (R136). -/
def execLdp (h : CHead) (m : CP) (s : State) : Out :=
  let off (s : State) : Nat := wbits s.view.pwbase 0 20 + m.off.toNat
  runC h
    { acc := fun _ => scalarAcc [] [(m.reg, none)]
      trap3 := ldpTrap m
      park4 := fun s => s.resourcePark none (granulesOf (off s) (tySize m.ty)) false
      effect := fun s =>
        let r := s.track m.reg
        r.1.localAccess (off s) false (.read (tySize m.ty) (tySigned m.ty) r.2 none) } s

/-- The use of `segld` and `segst` (R131): 16 bytes, the index scaled by 16. -/
def segUse (m : CSeg) (write : Bool) : LocalUse where
  ref s := s.refCM m.sg m.ix m.idx m.lit 16
  size := 16
  r := !write
  w := write
  align := 16
  dc := some m.dc.toNat
  write := write

/-- `segld` (R131): bundles that name sg[K] wait until it completes. -/
def execSegld (h : CHead) (m : CSeg) (s : State) : Out :=
  let u := segUse m false
  let spec := u.spec (scalarAcc [] [] (idxReads m.ix m.idx)) (fun a s =>
    (s.modCur fun t => { t with sgBusy := setBit t.sgBusy m.k.toNat true }).localAccess (offOf a) false
      (.segld m.k.toNat (some m.dc.toNat))) fun r s =>
    (s.modCur fun t => { t with sgBusy := setBit t.sgBusy m.k.toNat true }, { r with kind := .segRead, op := m.k.toNat })
  runC h { spec with park2 := fun s => s.segBusy m.sg.toNat <|> s.segBusy m.k.toNat } s

/-- `segst` (R131). -/
def execSegst (h : CHead) (m : CSeg) (s : State) : Out :=
  let u := segUse m true
  let spec := u.spec (scalarAcc [] [] (idxReads m.ix m.idx)) (fun a s =>
    let g := s.view.seg m.k.toNat
    s.localAccess (offOf a) (u.seg s).noundo (.segst g.base g.attr (some m.dc.toNat))) fun r s =>
    let g := s.view.seg m.k.toNat
    (s, { r with kind := .write, data := toLE 8 g.base.toNat ++ toLE 8 g.attr.toNat })
  runC h { spec with park2 := fun s => s.segBusy m.sg.toNat <|> s.segBusy m.k.toNat } s

/-- The use of `tagset` and `tagget` (R132): the whole granule, no tag check. -/
def tagUse (m : MemR) (before : List (BitVec 5)) (write : Bool) : LocalUse where
  ref s := s.refR m before
  size := 64
  r := !write
  w := write
  align := 64
  tags := false
  write := write

/-- `tagset` (R132). -/
def execTagset (h : CHead) (a : BitVec 5) (m : MemR) (s : State) : Out :=
  let u := tagUse m [a] true
  runC h (u.spec (scalarAcc [a, m.idx] []) (fun x s =>
    s.localAccess (offOf x) (u.seg s).noundo (.tagset (tagOf (s.sval a))))
    fun r s => (s, { r with kind := .tagWrite, tagx := true, data := [(tagOf (s.sval a)).setWidth 8] })) s

/-- `tagget` (R132). -/
def execTagget (h : CHead) (a : BitVec 5) (m : MemR) (s : State) : Out :=
  let u := tagUse m [] false
  runC h (u.spec (scalarAcc [m.idx] [(a, none)]) (fun x s =>
    let r := s.track a
    r.1.localAccess (offOf x) false (.tagget x r.2)) fun r s =>
      let d := s.track a
      (d.1, { r with kind := .tagRead, tagx := true, dst := d.2 })) s

/-- The index of the tag table (R137). -/
def tagIndex (x : Word) : Nat := wbits x 6 8 ^^^ wbits x 14 8
/-- KEY of an address (R137). -/
def tagKey (x : Word) : BitVec 54 := BitVec.ofNat 54 (wbits x 6 54)
/-- What `tlook` finds (R138). -/
def tlookOf (t : Table (BitVec 54 × BitVec 32)) (x : Word) : Word :=
  match tget t (tagIndex x) with
  | some e => if e.1 = tagKey x then e.2.setWidth 64 else allOnes
  | none => allOnes
/-- What `tfill` displaces (R139). -/
def tfillOld (t : Table (BitVec 54 × BitVec 32)) (x : Word) : Word :=
  match tget t (tagIndex x) with
  | some e => wd (e.1.toNat * 64)
  | none => allOnes
/-- The table after `tfill` (R139). -/
def tfillNew (t : Table (BitVec 54 × BitVec 32)) (x v : Word) : Table (BitVec 54 × BitVec 32) :=
  if wbits v 0 32 = 0xFFFFFFFF then tdel t (tagIndex x) else tset t (tagIndex x) (tagKey x, v.setWidth 32)

/-- `tlook` (R138): acts at issue; the result is written 2 cycles later (R137). -/
def execTlook (h : CHead) (a b : BitVec 5) (s : State) : Out :=
  runC h
    { acc := fun _ => scalarAcc [b] [(a, none)]
      effect := fun s => s.resultTracked a 2 (tlookOf s.curCore.tagTable (s.sval b)) } s
/-- `tfill` (R139). -/
def execTfill (h : CHead) (a b c : BitVec 5) (s : State) : Out :=
  runC h
    { acc := fun _ => scalarAcc [b, c] [(a, none)]
      effect := fun s =>
        let x := s.sval b
        let v := s.sval c [b]
        let old := tfillOld s.curCore.tagTable x
        (s.modCore s.ctx.core fun k => { k with tagTable := tfillNew k.tagTable x v }).resultTracked a 2 old } s

/-- The use of `hsift` (R143): the header granule, with both rights. -/
def hsiftUse (m : MemR) : LocalUse where
  ref s := s.refR m
  size := 64
  r := true
  w := true
  align := 64
  write := true

/-- `hsift` (R143): one at a time in the heap unit. -/
def execHsift (h : CHead) (m : MemR) (c : BitVec 5) (s : State) : Out :=
  let u := hsiftUse m
  let busy (s : State) : State := s.modCore s.ctx.core fun k => { k with heapUntil := s.cycle + 2 }
  let spec := u.spec (scalarAcc [m.idx, c] []) (fun x s =>
    let g := u.seg s
    (busy s).localAccess (offOf x) g.noundo
      (.hsift x (offOf x + g.limit - (u.ref s).off.toNat) (s.sval c [m.idx]) g.tagx)) fun r s =>
    (busy s, { r with
      kind := .heap, gran := (u.seg s).limit - (u.ref s).off.toNat, data := toLE 8 (s.sval c [m.idx]).toNat })
  runC h { spec with park4 := fun s => u.park s <|> (if s.curCore.heapUntil != 0 then some Park.other else none) } s

/-- `waitd` (R134). -/
def execWaitd (h : CHead) (n : BitVec 2) (s : State) : Out :=
  runC h { park4 := fun s => if s.view.dcount n.toNat = 0 then none else some Park.other } s

/-! What the bank and the heap unit do (R121, R131, R142, R143). -/

/-- A heap entry's score as a value; every NaN is below −∞ (R142). -/
def scoreOf (e : Nat) : Num := readFmt (fmtOf 0) false (e / 2 ^ 32)
/-- Is one score greater than another (R142)? -/
def scoreGt (a b : Num) : Bool := if b.isNaN then !a.isNaN else if a.isNaN then false else ltNum b a
/-- `Better(x, y)` (R142). -/
def better (x y : Nat) : Bool :=
  scoreGt (scoreOf x) (scoreOf y) || (!scoreGt (scoreOf y) (scoreOf x) && x % 2 ^ 32 < y % 2 ^ 32)

/-- The larger of the two child positions' worse entry: the child that the other child is better than (R143). -/
def worseChild (e : List Nat) (i : Nat) : Option Nat :=
  let l := 2 * i + 1
  let r := 2 * i + 2
  if l ≥ e.length then none
  else if r ≥ e.length then some l
  else if better (e.getD l 0) (e.getD r 0) then some r else some l
/-- Exchanges two entries. -/
def swapAt (e : List Nat) (i j : Nat) : List Nat := (e.set i (e.getD j 0)).set j (e.getD i 0)
/-- `SiftUp` (R143): the entries afterwards, and the places written. -/
def siftUp : Nat → List Nat → Nat → List Nat × List Nat
  | 0, e, _ => (e, [])
  | n + 1, e, i =>
    if i > 0 && better (e.getD ((i - 1) / 2) 0) (e.getD i 0) then
      let r := siftUp n (swapAt e ((i - 1) / 2) i) ((i - 1) / 2)
      (r.1, i :: (i - 1) / 2 :: r.2)
    else (e, [])
/-- `SiftDown` (R143): the entries afterwards, and the places written. -/
def siftDown : Nat → List Nat → Nat → List Nat × List Nat
  | 0, e, _ => (e, [])
  | n + 1, e, i =>
    match worseChild e i with
    | some j =>
      if better (e.getD i 0) (e.getD j 0) then
        let r := siftDown n (swapAt e i j) j
        (r.1, i :: j :: r.2)
      else (e, [])
    | none => (e, [])
/-- Offers a candidate: the entries and LAST afterwards, and the places of the entries written (R143). -/
def heapOffer (cap : Nat) (e : List Nat) (c : Nat) : List Nat × Nat × List Nat :=
  if e.length < cap then
    let r := siftUp 16 (e ++ [c]) e.length
    (r.1, 2 ^ 64 - 1, e.length :: r.2)
  else if better c (e.getD 0 0) then
    let r := siftDown 16 (e.set 0 c) 0
    (r.1, e.getD 0 0, 0 :: r.2)
  else (e, c, [])
/-- ⌈log2 n⌉ for n > 0. -/
def clog2 (n : Nat) : Nat := if n ≤ 1 then 0 else Nat.log2 (n - 1) + 1

/-- Eight-byte words of a byte list. -/
def words8 : Nat → List Byte → List Nat
  | 0, _ => []
  | n + 1, bs => leNat (bs.take 8) :: words8 n (bs.drop 8)

/-- The granules of a heap: of its header, and of its entries if CAP is one a heap can have (R142). -/
def State.heapGranules (s : State) (c h : Nat) : List Nat :=
  let cap := leNat (s.spadRead c h 4)
  granulesOf h (if cap ≤ 8192 then 16 + 8 * cap else 64)
/-- What an offer writes, by offset from the header (R143): every entry that moved, whatever its bytes were, CNT when it
rises, and LAST. -/
def heapWrites (cap n : Nat) (entries : List Nat) (cand : Nat) : List (Nat × List Byte) :=
  let r := heapOffer cap entries cand
  (r.2.2.eraseDups.map fun i => (16 + 8 * i, toLE 8 (r.1.getD i 0))) ++
    [if n < cap then (4, toLE 4 (n + 1) ++ toLE 8 r.2.1) else (8, toLE 8 r.2.1)]
/-- Is a heap's header bad: CAP out of range, or the heap beyond the bytes its segment leaves it (R143)? -/
def heapBad (cap room : Nat) : Bool := cap == 0 || cap > 8192 || 16 + 8 * cap > room
/-- The heap unit is busy from the cycle in which the access is performed, as long as R143 says (DESIGN CHOICE, log 69);
`last` is its last cycle. -/
def State.heapBusy (s : State) (c n : Nat) : State :=
  let last := s.cycle + 2 + 2 * clog2 (n + 1)
  (s.modCore c fun k => { k with heapUntil := last }).at last ⟨.hsiftComplete, { core := c }⟩
/-- The heap unit's operation at the scratchpad (R143): the checks made after issue, then the whole update. -/
def State.doHsift (s : State) (c : Nat) (a : LocalAcc) (addr : Word) (limit : Nat) (cand : Word)
    (tagx : Bool) : State :=
  let h := a.off
  let cap := leNat (s.spadRead c h 4)
  let n := leNat (s.spadRead c (h + 4) 4)
  let s := s.heapBusy c n
  if heapBad cap (limit - h) then s.reportTrap a.who a.org (trapAt 5 1 addr)
  else
    let miss := if tagx then none else (s.heapGranules c h).find? fun g => s.spadTagAt c g != tagOf addr
    match miss with
    | some g => s.reportTrap a.who a.org (trapAt 7 1 addr (tagDetail (tagOf addr) (s.spadTagAt c g)))
    | none =>
      let held := Nat.min n cap
      (heapWrites cap n (words8 held (s.spadRead c (h + 16) (8 * held))) cand.toNat).foldl
        (fun s x => s.spadWrite c (h + x.1) x.2 a.noundo) s

/-- The heap unit is free again (R143). -/
def execHsiftComplete (s : State) : Out :=
  .next (s.modCore s.subj.core fun k => if k.heapUntil ≤ s.cycle then { k with heapUntil := 0 } else k)

/-- A local load writes its destination; its counter falls (R121, R133). -/
def execLocalLoadWriteback (w : Wb) (s : State) : Out := .next ((s.writeFull w.who w.dst w.val).decD w.who w.dc)

/-- `Covers(e, d)` (R131). -/
def covers (e d : Seg) : Bool :=
  e.valid && wbits e.base 57 3 == wbits d.base 57 3 && wbits e.base 0 57 ≤ wbits d.base 0 57 &&
  wbits d.base 0 57 + d.limit ≤ wbits e.base 0 57 + e.limit && (!d.r || e.r) && (!d.w || e.w) && (!d.tagx || e.tagx) &&
  d.noundo == e.noundo

/-- The two words of a descriptor's 16 bytes, as `segld` reads them (R131). -/
def segWords (b : List Byte) : Word × Word := (wd (leNat (b.take 8)), wd (leNat ((b.drop 8).take 8)))
/-- An address with another TAG (R132). -/
def tagged (a : Word) (t : BitVec 4) : Word := (a &&& 0x0FFFFFFFFFFFFFFF) ||| (t.setWidth 64 <<< 60)
/-- A descriptor from its 16 bytes, as a register holds it: ATTR[63:48] reads zero (R124). -/
def segOf16 (b : List Byte) : Seg := ⟨wd (leNat (b.take 8)), wd (leNat ((b.drop 8).take 6))⟩

/-- The segment set of a domain at a core: the cached copy, or one fetched now (R125, R352); none without an installed
set, which needs V of the descriptor (R397). A core caches eight sets; the one cached longest ago makes room (DESIGN CHOICE, log 25). -/
def State.segSet (s : State) (c pdid : Nat) : State × Option (List Seg) :=
  let d := s.domAt pdid
  if !d.v then (s, none)
  else match tget (s.coreAt c).segCache pdid with
    | some l => (s, some l)
    | none =>
      match s.vreadLong pdid 3 (wbits d.segset 0 43) 128 false with
      | (s, none) => (s, none)
      | (s, some b) =>
        let l := (List.range 8).map fun i => segOf16 (b.drop (16 * i))
        (s.modCore c fun k =>
          { k with segCache := (if k.segCache.length ≥ 8 then k.segCache.drop 1 else k.segCache) ++ [(pdid, l)] }, some l)

/-- A `segld` completes: the descriptor is refused under R47 or written (R131). -/
def execSegldComplete (who : SlotRef) (org : Origin) (k : Nat) (base attr : Word) (dc : Option Nat) (s : State) : Out :=
  let d : Seg := ⟨base, attr⟩
  let r := ((s.who who).map fun t => s.segSet who.core t.pdid).getD (s, none)
  let set := r.2.getD []
  let s := (r.1.modWho who fun t => { t with sgBusy := setBit t.sgBusy k false }).decD who dc
  if wbits attr 48 16 != 0 || (d.valid && !set.any fun e => covers e d) then .next (s.reportTrap who org (trapAt 6 2 0))
  else .next (s.modWho who fun t => { t with sg := vset t.sg k d })

end Sys2Proof.Machine
end

