-- ==== Sys2Proof/Machine/Vector.lean ====
section
/-! DEFINITION. Vector and stream instructions (R146–R169), and the vector conversions (R74–R77). A register group is
read as one number, register i of the group at bits 512 i; a pair lane therefore lies where R146 puts it. -/

namespace Sys2Proof.Machine

/-! Streams (R151–R155). -/

/-- DIR: a write stream. -/
def Stream.isWrite (x : Stream) : Bool := x.desc.getLsbD 63
/-- LEN. -/
def streamLen (d : Word) : Nat := wbits d 46 14
/-- STRIDE, signed. -/
def streamStride (d : Word) : Int := sintOf (wbits d 32 14) 14
/-- Scratchpad offset of granule `i`. -/
def Stream.off (x : Stream) (i : Nat) : Nat := ((offOf x.addr : Int) + 64 * streamStride x.desc * i).toNat
/-- Global address of granule `i`. -/
def Stream.granAddr (x : Stream) (i : Nat) : Word := x.addr + BitVec.ofInt 64 (64 * streamStride x.desc * i)

/-- How a vector instruction uses registers: source groups in field order, whether the destination is a source, the
destination group, latency, lane masks read, and the cycles it holds the vector unit (R148, R150). -/
structure VecUse where
  srcs : List (Nat × Nat)
  accum : Bool := false
  dst : Option (Nat × Nat) := none
  lat : Nat := 2
  masks : List Nat := []
  units : Nat := 1
  payload : Bool := false

/-- The registers of a group. -/
def regsOf (g : Nat × Nat) : List Nat := (List.range g.2).map fun i => g.1 + i
/-- Do two groups overlap in part (R148)? -/
def partOverlap (d x : Nat × Nat) : Bool := (regsOf d).any (regsOf x).contains && d != x
/-- Is the group one register bound to a stream? -/
def State.streamOf (s : State) (g : Nat × Nat) : Option Stream := if g.2 = 1 then s.boundReg g.1 else none
/-- Is some register of the group bound although the group is larger (R154)? -/
def State.boundInside (s : State) (g : Nat × Nat) : Bool := g.2 != 1 && (regsOf g).any fun r => (s.boundReg r).isSome

/-- Accesses of a vector instruction: a bound stream register is neither read nor written (R152). -/
def VecUse.acc (u : VecUse) (s : State) : Access :=
  let groups := u.srcs ++ (if u.accum then u.dst.toList else [])
  { reads := (groups.flatMap fun g => if (s.streamOf g).isSome then [] else (regsOf g).map fun r => (.vreg r, false)) ++
      u.masks.map fun m => (.mreg m, false)
    writes := u.dst.toList.flatMap fun g =>
      if (s.streamOf g).isSome then [] else (regsOf g).map fun r => (.vreg r, some u.lat)
    pops := [], pushes := []
    streamPops := (u.srcs.filter fun g => (s.streamOf g).isSome).map (·.1)
    streamPushes := (u.dst.toList.filter fun g => (s.streamOf g).isSome).map (·.1) }

/-- Stream misuse (R154) of the sources and the destination. -/
def VecUse.misuse (u : VecUse) (s : State) : Option TrapInfo :=
  let bad : Option TrapInfo := some ⟨2, 2, 0, 0⟩
  if (u.srcs ++ u.dst.toList).any s.boundInside then bad
  else if u.srcs.any (fun g => match s.streamOf g with | some x => x.isWrite | none => false) then bad
  else if u.dst.any (fun g => match s.streamOf g with | some x => !x.isWrite || u.accum | none => false) then bad
  else none

/-- How many granules of a stream the A-word beside a C-word takes before it: of two fields of a bundle the one at the higher
bit position comes first (R153), in a push as in a pop (DESIGN CHOICE, log 84). -/
def State.before (s : State) (r : Nat) (pop : Bool) : Nat :=
  (if pop then s.ctx.found.acc.streamPops else s.ctx.found.acc.streamPushes).count r
/-- Index of the granule the `k`-th source pops: its stream's position and the earlier pops of the same register, `skip` of
them by the word beside. -/
def popIndex (x : Stream) (srcs : List (Nat × Nat)) (k : Nat) (g : Nat × Nat) (skip : Nat := 0) : Nat :=
  x.pos + skip + (srcs.take k).count g
/-- Granules of a stream that the word beside takes before a word of use `u`: one at most is a C-word's payload. -/
def VecUse.skip (u : VecUse) (s : State) (r : Nat) (pop : Bool) : Nat := if u.payload then s.before r pop else 0

/-- The trap of one stream access: exhausted (R154), or a mismatched tag of an available granule (R153). -/
def State.streamTrap (s : State) (x : Stream) (i : Nat) (pop : Bool) : Option TrapInfo :=
  if i ≥ streamLen x.desc then some (trapAt 2 2 (x.granAddr (streamLen x.desc)))
  else if pop && !x.tagx && x.avail.any (fun a => a.1 == i && a.2.2) && s.spadTagAt s.ctx.core (x.off i / 64) != x.tag then
    some (trapAt 7 1 (x.granAddr i) (tagDetail x.tag (s.spadTagAt s.ctx.core (x.off i / 64))))
  else none

/-- The issue traps of a vector instruction (R148, R153, R154); a word that fails both R148 and R154 traps IllegalOverlap
(DESIGN CHOICE, log 84: no rule orders the two). -/
def VecUse.trap (u : VecUse) (s : State) : Option TrapInfo :=
  if u.dst.any fun d => u.srcs.any (partOverlap d) then some ⟨3, 0, 0, 0⟩
  else u.misuse s <|>
    ((u.srcs.mapIdx fun k g => match s.streamOf g with
        | some x => s.streamTrap x (popIndex x u.srcs k g (u.skip s g.1 true)) true
        | none => none).findSome? id) <|>
    (u.dst.bind fun g => match s.streamOf g with
        | some x => s.streamTrap x (x.pos + u.skip s g.1 false) false
        | none => none)

/-- Parks of a vector instruction: the unit busy (R150), a stream empty or full (R153). -/
def VecUse.park (u : VecUse) (s : State) : Option Park :=
  let empty := (u.srcs.mapIdx fun k g => match s.streamOf g with
    | some x => !(x.avail.any fun a => a.1 == popIndex x u.srcs k g (u.skip s g.1 true) && a.2.2)
    | none => false).any id
  let full := u.dst.any fun g => match s.streamOf g with
    | some x => x.pushes + u.skip s g.1 false ≥ 4
    | none => false
  if (u.units != 0 && s.curCore.vecUntil > s.cycle) || empty || full then some Park.other else none

/-- The value of a source group (R148, R153). -/
def State.vsrc (s : State) (srcs : List (Nat × Nat)) (k : Nat) (skip : Nat := 0) : Nat :=
  let g := srcs.getD k (0, 0)
  match s.streamOf g with
  | some x => ((x.avail.find? fun a => a.1 == popIndex x srcs k g skip).map fun a => a.2.1.toNat).getD 0
  | none => (regsOf g).foldr (fun r acc => (s.view.vreg r).toNat + acc * 2 ^ 512) 0

/-- The destination group's value before the instruction. -/
def State.vdst (s : State) (u : VecUse) : Nat :=
  (u.dst.map fun g => (regsOf g).foldr (fun r acc => (s.view.vreg r).toNat + acc * 2 ^ 512) 0).getD 0

/-- Queues the read of granule `i` of a bound read stream (R153). -/
def State.queueStreamRead (s : State) (r i : Nat) (x : Stream) : State :=
  if i < streamLen x.desc then s.localAccess (x.off i) false (.streamRead (r + 32 * x.gen) i) else s

/-- A bound register's stream is replaced. -/
def Thread.setStream (t : Thread) (r : Nat) (x : Option Stream) : Thread := { t with streams := vset t.streams (r - 28) x }

/-- Pops the next granule of a read stream, and queues the read four beyond it (R153). -/
def State.popStream (s : State) (r : Nat) : State :=
  match (s.cur.getD Thread.reset).streams[r - 28]?.getD none with
  | none => s
  | some x =>
    let s := s.modCur (·.setStream r (some { x with pos := x.pos + 1, avail := x.avail.filter (·.1 != x.pos) }))
    s.queueStreamRead r (x.pos + 4) x

/-- The pops of a vector instruction, and the unit's occupation (R150, R153). -/
def VecUse.take (u : VecUse) (s : State) : State :=
  let s := u.srcs.foldl (fun s g => match s.streamOf g with | some _ => s.popStream g.1 | none => s) s
  if u.units = 0 then s
  else (s.modCore s.ctx.core fun k => { k with vecUntil := s.cycle + u.units }).after u.units .vectorUnitFree
    { core := s.ctx.core }

/-- Bytes of a 512-bit mask whose bits are set, as a 64-bit byte mask. -/
def byteMask (mask : Nat) : Word := wd ((List.range 64).foldl (fun a j => if mask / 2 ^ (8 * j) % 2 = 1 then a + 2 ^ j else a) 0)

/-- A push takes its entry and its granule (R153). -/
def State.reservePush (s : State) (r : Nat) : State :=
  s.modCur fun t => match vget none t.streams (r - 28) with
    | some x => t.setStream r (some { x with pos := x.pos + 1, pushes := x.pushes + 1 })
    | none => t
/-- Writes a vector result when due: to the registers of the group under the mask, or as a push (R102, R147, R153). -/
def State.vresult (s : State) (u : VecUse) (val mask : Nat) (flags : BitVec 5) : State :=
  match u.dst with
  | none => s
  | some g =>
    match s.streamOf g with
    | some x =>
      let at_ := x.off x.pos
      let s := s.reservePush g.1
      (s.addDue .none u.lat 0 0 flags).after u.lat
        (.streamPushQueued s.me s.ctx.org g.1 ⟨at_, x.noundo, if x.tagx then none else some x.tag⟩
          (BitVec.ofNat 512 val) (byteMask mask))
    | none =>
      (List.range g.2).foldl (fun s i =>
        s.addDue (.vreg (g.1 + i)) u.lat (val / 2 ^ (512 * i) % 2 ^ 512) (mask / 2 ^ (512 * i) % 2 ^ 512)
          (if i = 0 then flags else 0)) s

/-- A vector instruction: its result, the bits written and the flags, from the source groups and the old destination. -/
def vecSpec (u : VecUse) (f : State → List Nat → Nat → Nat × Nat × BitVec 5) : WordSpec where
  acc := u.acc
  kind := needsAll
  trap3 := u.trap
  park4 := u.park
  effect s :=
    let r := f s ((List.range u.srcs.length).map (s.vsrc u.srcs)) (s.vdst u)
    (u.take s).vresult u r.1 r.2.1 r.2.2

/-! Lanes (R146–R149). -/

/-- Registers of a group of `g` units (R148). -/
def groupLen (g : BitVec 2) (pair : Bool) : Nat := 2 ^ g.toNat * (if pair then 2 else 1)
/-- Integer lane width (R38). -/
def intWidth (w : BitVec 2) : Nat := 8 * 2 ^ w.toNat
/-- Float lane width (R38). -/
def fltWidth (w : BitVec 2) : Nat := (fmtOf w.toNat).width
/-- Lanes of a unit (R146): 512 / b, and sixteen for a pair. -/
def laneCount (b : Nat) : Nat := if b = 64 then 16 else 512 / b
/-- Lane `k` of a group's value. -/
def lane (v b k : Nat) : Nat := v / 2 ^ (b * k) % 2 ^ b

/-- Puts the lanes of `n` together from a function that gives each written lane's value and flags. -/
def gather (n b : Nat) (f : Nat → Option (Nat × BitVec 5)) : Nat × Nat × BitVec 5 :=
  (List.range n).foldl (fun a k =>
    match f k with
    | some y => (a.1 + y.1 % 2 ^ b * 2 ^ (b * k), a.2.1 + (2 ^ b - 1) * 2 ^ (b * k), a.2.2 ||| y.2)
    | none => a) (0, 0, 0)

/-- Is lane `k` of a group active under a mask (R147)? -/
def active (m : Word) (b k : Nat) : Bool := m.getLsbD (k % laneCount b)

/-- An element-wise operation on groups (R156). -/
def lanewise (m : Word) (n b : Nat) (a c d : Nat) (f : Nat → Nat → Nat → Nat × BitVec 5) : Nat × Nat × BitVec 5 :=
  gather n b fun k => if active m b k then some (f (lane a b k) (lane c b k) (lane d b k)) else none

/-- The use of format VR. -/
def vrUse (o : VR) (int acc : Bool) (lat : Nat) : VecUse where
  srcs := let n := groupLen o.g (int && o.w == 3); [(o.va.toNat, n), (o.vb.toNat, n)]
  accum := acc
  dst := some (o.vd.toNat, groupLen o.g (int && o.w == 3))
  lat := lat
  masks := [o.vm.toNat]
  units := 2 ^ o.g.toNat

/-- A float VR instruction (R157). -/
def vrFloat (o : VR) (acc : Bool) (lat : Nat) (f : Fmt → Nat → Nat → Nat → Nat → Nat × BitVec 5) : WordSpec :=
  let b := fltWidth o.w
  vecSpec (vrUse o false acc lat) fun s v d =>
    lanewise (s.view.mreg o.vm.toNat) (2 ^ o.g.toNat * laneCount b) b (v.getD 0 0) (v.getD 1 0) d
      (f (fmtOf o.w.toNat) (effRM 7 s.view.rm))

/-- An integer VR instruction, latency 2 (R158). -/
def vrInt (o : VR) (f : Nat → Nat → Nat → Nat) : WordSpec :=
  let b := intWidth o.w
  vecSpec (vrUse o true false 2) fun s v d =>
    lanewise (s.view.mreg o.vm.toNat) (2 ^ o.g.toNat * laneCount b) b (v.getD 0 0) (v.getD 1 0) d
      fun x y _ => (f b x y, 0)

/-- A float operation on bits from one on values. -/
def onNums (f : Fmt → Nat → Num → Num → Num → Nat × BitVec 5) (m : Fmt) (mode a b d : Nat) : Nat × BitVec 5 :=
  f m mode (readFmt m false a) (readFmt m false b) (readFmt m false d)

/-- The use of format VU. -/
def vuUse (o : VU) (int : Bool) (lat : Nat) : VecUse where
  srcs := [(o.va.toNat, groupLen o.g (int && o.w == 3))]
  dst := some (o.vd.toNat, groupLen o.g (int && o.w == 3))
  lat := lat
  masks := [o.vm.toNat]
  units := 2 ^ o.g.toNat

/-- A float VU instruction. -/
def vuFloat (o : VU) (lat : Nat) (f : Fmt → Nat → Nat × BitVec 5) : WordSpec :=
  let b := fltWidth o.w
  vecSpec (vuUse o false lat) fun s v _ =>
    lanewise (s.view.mreg o.vm.toNat) (2 ^ o.g.toNat * laneCount b) b (v.getD 0 0) 0 0 fun x _ _ => f (fmtOf o.w.toNat) x

/-- An integer VU instruction. -/
def vuInt (o : VU) (f : Nat → Nat → Nat) : WordSpec :=
  let b := intWidth o.w
  vecSpec (vuUse o true 2) fun s v _ =>
    lanewise (s.view.mreg o.vm.toNat) (2 ^ o.g.toNat * laneCount b) b (v.getD 0 0) 0 0 fun x _ _ => (f b x, 0)

/-- The smaller or larger of two lanes (R156). -/
def pickInt (signed max : Bool) (b x y : Nat) : Nat :=
  let lt (p q : Nat) : Bool := if signed then sintOf p b < sintOf q b else p < q
  if max then (if lt x y then y else x) else (if lt y x then y else x)
/-- Arithmetic right shift of a lane. -/
def sraLane (b x y : Nat) : Nat := ((sintOf x b / ((2 ^ (y % b) : Nat) : Int)) % ((2 ^ b : Nat) : Int)).toNat

/-! The element-wise instructions (R156–R158). -/

/-- `vadd`, float. -/
def execVaddF (h : AHead) (o : VR) (s : State) : Out := runA h (vrFloat o false 4 (onNums fun f m a b _ => fAdd f m a b)) s
/-- `vadd`, integer. -/
def execVaddI (h : AHead) (o : VR) (s : State) : Out := runA h (vrInt o fun _ x y => x + y) s
/-- `vsub`, float. -/
def execVsubF (h : AHead) (o : VR) (s : State) : Out :=
  runA h (vrFloat o false 4 (onNums fun f m a b _ => fAdd f m a b.negate)) s
/-- `vsub`, integer. -/
def execVsubI (h : AHead) (o : VR) (s : State) : Out := runA h (vrInt o fun b x y => x + 2 ^ b - y) s
/-- `vmul`, float. -/
def execVmulF (h : AHead) (o : VR) (s : State) : Out := runA h (vrFloat o false 4 (onNums fun f m a b _ => fMul f m a b)) s
/-- `vmul`, integer. -/
def execVmulI (h : AHead) (o : VR) (s : State) : Out := runA h (vrInt o fun _ x y => x * y) s
/-- `vfma`. -/
def execVfma (h : AHead) (o : VR) (s : State) : Out := runA h (vrFloat o true 4 (onNums fFma)) s
/-- `vfms`: a × b − d. -/
def execVfms (h : AHead) (o : VR) (s : State) : Out :=
  runA h (vrFloat o true 4 (onNums fun f m a b d => fFma f m a b d.negate)) s
/-- `vmin`, float (R90). -/
def execVminF (h : AHead) (o : VR) (s : State) : Out := runA h 
    (vrFloat o false 2 fun m _ a b _ => fMinMax m false a b (readFmt m false a) (readFmt m false b)) s
/-- `vmin`, signed. -/
def execVminS (h : AHead) (o : VR) (s : State) : Out := runA h (vrInt o (pickInt true false)) s
/-- `vmin`, unsigned. -/
def execVminN (h : AHead) (o : VR) (s : State) : Out := runA h (vrInt o (pickInt false false)) s
/-- `vmax`, float (R90). -/
def execVmaxF (h : AHead) (o : VR) (s : State) : Out :=
  runA h (vrFloat o false 2 fun m _ a b _ => fMinMax m true a b (readFmt m false a) (readFmt m false b)) s
/-- `vmax`, signed. -/
def execVmaxS (h : AHead) (o : VR) (s : State) : Out := runA h (vrInt o (pickInt true true)) s
/-- `vmax`, unsigned. -/
def execVmaxN (h : AHead) (o : VR) (s : State) : Out := runA h (vrInt o (pickInt false true)) s
/-- `vabs`, float: the sign bit cleared, no flag. -/
def execVabsF (h : AHead) (o : VU) (s : State) : Out := runA h (vuFloat o 2 fun m x => (x % 2 ^ (m.width - 1), 0)) s
/-- `vneg`, float: the sign bit inverted, no flag. -/
def execVnegF (h : AHead) (o : VU) (s : State) : Out := runA h (vuFloat o 2 fun m x => (x ^^^ 2 ^ (m.width - 1), 0)) s
/-- `vabs`, integer. -/
def execVabsI (h : AHead) (o : VU) (s : State) : Out := runA h (vuInt o fun b x => (sintOf x b).natAbs) s
/-- `vneg`, integer. -/
def execVnegI (h : AHead) (o : VU) (s : State) : Out := runA h (vuInt o fun b x => 2 ^ b - x) s
/-- `vmov`. -/
def execVmov (h : AHead) (o : VU) (s : State) : Out := runA h (vuInt o fun _ x => x) s
/-- `vand`. -/
def execVand (h : AHead) (o : VR) (s : State) : Out := runA h (vrInt o fun _ x y => x &&& y) s
/-- `vor`. -/
def execVor (h : AHead) (o : VR) (s : State) : Out := runA h (vrInt o fun _ x y => x ||| y) s
/-- `vxor`. -/
def execVxor (h : AHead) (o : VR) (s : State) : Out := runA h (vrInt o fun _ x y => x ^^^ y) s
/-- `vshl`. -/
def execVshl (h : AHead) (o : VR) (s : State) : Out := runA h (vrInt o fun b x y => x * 2 ^ (y % b)) s
/-- `vshr`. -/
def execVshr (h : AHead) (o : VR) (s : State) : Out := runA h (vrInt o fun b x y => x / 2 ^ (y % b)) s
/-- `vsra`. -/
def execVsra (h : AHead) (o : VR) (s : State) : Out := runA h (vrInt o sraLane) s

/-! Compare, select, masks (R159–R161). -/

/-- The relation CC on float lanes and its NV (R38, R159). -/
def fltCC (cc : Nat) (m : Fmt) (a b : Nat) : Bool × BitVec 5 :=
  let x := readFmt m false a
  let y := readFmt m false b
  if cc = 0 then fCompare 0 x y
  else if cc = 1 then let r := fCompare 0 x y; (!r.1, r.2)
  else if cc = 2 then fCompare 1 x y else if cc = 3 then fCompare 2 x y
  else if cc = 4 then fCompare 1 y x else if cc = 5 then fCompare 2 y x else fCompare 3 x y
/-- The relation CC on integer lanes (R38, R159). -/
def intCC (cc b x y : Nat) : Bool × BitVec 5 :=
  let p := sintOf x b
  let q := sintOf y b
  ((if cc = 0 then x == y else if cc = 1 then x != y
    else if cc = 2 then decide (p < q) else if cc = 3 then decide (p ≤ q) else if cc = 4 then decide (q < p)
    else if cc = 5 then decide (q ≤ p)
    else if cc = 6 then decide (x < y) else if cc = 7 then decide (x ≤ y) else if cc = 8 then decide (y < x)
    else decide (y ≤ x)), 0)

/-- `vcmp` (R159): one unit, a mask result. -/
def vcmpSpec (o : VC) (b n : Nat) (f : Nat → Nat → Bool × BitVec 5) : WordSpec :=
  let u : VecUse := { srcs := [(o.va.toNat, n), (o.vb.toNat, n)], masks := [o.vm.toNat] }
  { acc := fun s => { u.acc s with writes := [(.mreg o.md.toNat, some 2)] }
    kind := needsAll
    trap3 := u.trap
    park4 := u.park
    effect := fun s =>
      let x := s.vsrc u.srcs 0
      let y := s.vsrc u.srcs 1
      let m := s.view.mreg o.vm.toNat
      let r := (List.range (laneCount b)).foldl (fun a k =>
        if active m b k then
          let c := f (lane x b k) (lane y b k)
          (a.1 + (if c.1 then 2 ^ k else 0), a.2 ||| c.2)
        else a) ((0 : Nat), (0 : BitVec 5))
      (u.take s).addDue (.mreg o.md.toNat) 2 r.1 (2 ^ 64 - 1) r.2 }
/-- `vcmp`, float. -/
def execVcmpF (h : AHead) (o : VC) (s : State) : Out :=
  runA h (vcmpSpec o (fltWidth o.w) 1 (fltCC o.cc.toNat (fmtOf o.w.toNat))) s
/-- `vcmp`, integer. -/
def execVcmpI (h : AHead) (o : VC) (s : State) : Out :=
  runA h (vcmpSpec o (intWidth o.w) (groupLen 0 (o.w == 3)) (intCC o.cc.toNat (intWidth o.w))) s
/-- `vsel` (R160): the mask selects, and every lane is written. -/
def execVsel (h : AHead) (o : VR) (s : State) : Out :=
  let b := intWidth o.w
  runA h (vecSpec (vrUse o true false 2) fun s v _ =>
    let m := s.view.mreg o.vm.toNat
    gather (2 ^ o.g.toNat * laneCount b) b fun k =>
      some (if active m b k then lane (v.getD 0 0) b k else lane (v.getD 1 0) b k, 0)) s

/-- Mask logic, latency 2 (R161). -/
def maskSpec (md : BitVec 3) (ms : List Nat) (f : Thread → Word) : WordSpec where
  acc _ := { reads := ms.map fun m => (.mreg m, false), writes := [(.mreg md.toNat, some 2)], pops := [], pushes := [] }
  kind := needsAll
  effect s := s.addDue (.mreg md.toNat) 2 (f s.view).toNat (2 ^ 64 - 1)
/-- `mand`. -/
def execMand (h : AHead) (md ma mb : BitVec 3) (s : State) : Out :=
  runA h (maskSpec md [ma.toNat, mb.toNat] fun t => t.mreg ma.toNat &&& t.mreg mb.toNat) s
/-- `mor`. -/
def execMor (h : AHead) (md ma mb : BitVec 3) (s : State) : Out :=
  runA h (maskSpec md [ma.toNat, mb.toNat] fun t => t.mreg ma.toNat ||| t.mreg mb.toNat) s
/-- `mnot`. -/
def execMnot (h : AHead) (md ma : BitVec 3) (s : State) : Out := runA h (maskSpec md [ma.toNat] fun t => ~~~(t.mreg ma.toNat)) s
/-- `mpop`. -/
def execMpop (h : AHead) (sd : BitVec 5) (ma : BitVec 3) (s : State) : Out :=
  runA h
    { acc := fun _ => scalarAcc [] [(sd, some 2)] [.mreg ma.toNat]
      kind := needsAll
      effect := fun s => s.result sd 2
        (wd ((List.range 64).countP fun i => (s.view.mreg ma.toNat).getLsbD i)) } s

/-! Permutation and lane transfer (R162–R164). -/

/-- `vperm` (R162). -/
def execVperm (h : AHead) (o : VP) (s : State) : Out :=
  let b := intWidth o.w
  let n := groupLen 0 (o.w == 3)
  let u : VecUse := { srcs := [(o.va.toNat, n), (o.vb.toNat, n)], dst := some (o.vd.toNat, n), masks := [o.vm.toNat] }
  runA h (vecSpec u fun s v _ =>
    let m := s.view.mreg o.vm.toNat
    gather (laneCount b) b fun k =>
      if active m b k then some (lane (v.getD 0 0) b (lane (v.getD 1 0) b k % laneCount b), 0) else none) s
/-- Active lanes below `k` under a mask. -/
def rank (m : Word) (b k : Nat) : Nat := (List.range k).countP (active m b)
/-- The use of `vcompress` and `vexpand` (R163). -/
def vceUse (o : VCE) : VecUse :=
  let n := groupLen 0 (o.w == 3)
  { srcs := [(o.va.toNat, n)], dst := some (o.vd.toNat, n), masks := [o.vm.toNat] }
/-- `vcompress` (R163). -/
def execVcompress (h : AHead) (o : VCE) (s : State) : Out :=
  let b := intWidth o.w
  runA h (vecSpec (vceUse o) fun s v _ =>
    let m := s.view.mreg o.vm.toNat
    let on := (List.range (laneCount b)).filter (active m b)
    gather (laneCount b) b fun j => some (match on[j]? with | some l => lane (v.getD 0 0) b l | none => 0, 0)) s
/-- `vexpand` (R163). -/
def execVexpand (h : AHead) (o : VCE) (s : State) : Out :=
  let b := intWidth o.w
  runA h (vecSpec (vceUse o) fun s v _ =>
    let m := s.view.mreg o.vm.toNat
    gather (laneCount b) b fun k => if active m b k then some (lane (v.getD 0 0) b (rank m b k), 0) else none) s
/-- Adds a scalar source or destination to a vector word's accesses. -/
def withScalar (a b : Access) : Access :=
  { a with reads := b.reads ++ a.reads, writes := b.writes ++ a.writes, pops := b.pops ++ a.pops, pushes := b.pushes ++ a.pushes }
/-- `vbcast` (R164). -/
def execVbcast (h : AHead) (v x : BitVec 5) (w : BitVec 2) (s : State) : Out :=
  let b := intWidth w
  let u : VecUse := { srcs := [], dst := some (v.toNat, groupLen 0 (w == 3)) }
  let spec := vecSpec u fun s _ _ => gather (laneCount b) b fun _ => some ((s.sval x).toNat, 0)
  runA h { spec with acc := fun s => withScalar (u.acc s) (scalarAcc [x] []) } s
/-- `vext` (R164): zero-extends; with W = 3 a pair lane of the even register. -/
def execVext (h : AHead) (x v : BitVec 5) (l : BitVec 6) (w : BitVec 2) (s : State) : Out :=
  let b := intWidth w
  let u : VecUse := { srcs := [(v.toNat, groupLen 0 (w == 3))] }
  runA h
    { acc := fun s => withScalar (u.acc s) (scalarAcc [] [(x, some 2)])
      kind := needsAll
      trap3 := u.trap
      park4 := u.park
      effect := fun s =>
        let y := lane (s.vsrc u.srcs 0) b l.toNat
        (u.take s).result x 2 (wd y) } s
/-- `vins` (R164): the other lanes keep their value. -/
def execVins (h : AHead) (o : VX) (s : State) : Out :=
  let b := intWidth o.w
  let u : VecUse := { srcs := [], accum := true, dst := some (o.v.toNat, groupLen 0 (o.w == 3)) }
  let spec := vecSpec u fun s _ _ => gather (laneCount b) b fun k => if k = o.lane.toNat then some ((s.sval o.s).toNat, 0) else none
  runA h { spec with acc := fun s => withScalar (u.acc s) (scalarAcc [o.s] []) } s

/-! Reductions (R165). -/

/-- Op of a reduction on optional lanes, absent ones with no effect (R165). -/
def redOp (op : Nat) (m : Fmt) (mode b : Nat) (x y : Option Nat × BitVec 5) : Option Nat × BitVec 5 :=
  match x.1, y.1 with
  | none, _ => (y.1, x.2 ||| y.2)
  | _, none => (x.1, x.2 ||| y.2)
  | some p, some q =>
    let r : Nat × BitVec 5 :=
      if op = 0 then onNums (fun f md a c _ => fAdd f md a c) m mode p q 0
      else if op = 1 then fMinMax m false p q (readFmt m false p) (readFmt m false q)
      else if op = 2 then fMinMax m true p q (readFmt m false p) (readFmt m false q)
      else if op = 3 then ((p + q) % 2 ^ b, 0)
      else if op = 4 then (pickInt true false b p q, 0) else if op = 5 then (pickInt true true b p q, 0)
      else if op = 6 then (pickInt false false b p q, 0) else if op = 7 then (pickInt false true b p q, 0)
      else if op = 8 then (p &&& q, 0) else if op = 9 then (p ||| q, 0) else (p ^^^ q, 0)
    (some r.1, x.2 ||| y.2 ||| r.2)
/-- The identity of a reduction (R165); `none` is absent. -/
def redId (op b : Nat) (m : Fmt) : Option Nat :=
  if op = 0 then some (2 ^ (m.width - 1)) else if op = 3 || op = 9 || op = 10 then some 0
  else if op = 8 then some (2 ^ b - 1) else none
/-- Final of an absent result (R165). -/
def redFinal (op b : Nat) (m : Fmt) : Nat :=
  if op = 1 then (convert m false 0 (.inf false)).1 else if op = 2 then (convert m false 0 (.inf true)).1
  else if op = 4 then 2 ^ (b - 1) - 1 else if op = 5 then 2 ^ (b - 1) else if op = 6 then 2 ^ b - 1 else 0
/-- Combines the halves of a list until `n` elements are left: element i with element i + half. -/
def fold2 (f : Option Nat × BitVec 5 → Option Nat × BitVec 5 → Option Nat × BitVec 5) :
    Nat → Nat → List (Option Nat × BitVec 5) → List (Option Nat × BitVec 5)
  | 0, _, xs => xs
  | fuel + 1, n, xs =>
    if xs.length ≤ n then xs
    else fold2 f fuel n (List.zipWith f (xs.take (xs.length / 2)) (xs.drop (xs.length / 2)))
/-- `vred` (R165). -/
def execVred (h : AHead) (o : VRD) (s : State) : Out :=
  let op := o.op.toNat
  let flt := op ≤ 2
  let b := if flt then fltWidth o.w else intWidth o.w
  let pair := !flt && o.w == 3
  let u : VecUse :=
    { srcs := [(o.va.toNat, groupLen o.g pair)], dst := some (o.vd.toNat, groupLen 0 pair), lat := 6
      masks := [o.vm.toNat], units := 2 ^ o.g.toNat }
  runA h (vecSpec u fun s v _ =>
    let m := s.view.mreg o.vm.toNat
    let f := fmtOf o.w.toNat
    let xs := (List.range (2 ^ o.g.toNat * laneCount b)).map fun k =>
      ((if active m b k then some (lane (v.getD 0 0) b k) else redId op b f), (0 : BitVec 5))
    let r := (fold2 (redOp op f (effRM 7 s.view.rm) b) 16 1 xs).headD (none, 0)
    (r.1.getD (redFinal op b f), 2 ^ (512 * groupLen 0 pair) - 1, r.2)) s

/-! Approximations (R166, R167). -/

/-- The largest r < 2^k with p r, for p true up to some point: bisection by bits. -/
def largest (p : Nat → Bool) : Nat → Nat → Nat
  | 0, r => r
  | k + 1, r => if p (r + 2 ^ k) then largest p k (r + 2 ^ k) else largest p k r
/-- C_i (R166). -/
def nodeRcp (i : Nat) : Nat := (2 ^ 23 + (64 + i)) / (2 * (64 + i))
/-- G_i (R166): the nearest integer to sqrt(2^37 / (32 + i)). -/
def nodeRsq (i : Nat) : Nat := (largest (fun k => k * k * (32 + i) ≤ 2 ^ 39) 18 0 + 1) / 2
/-- H_i (R166): the nearest integer to 2^(16 + i/64). -/
def nodeExp (i : Nat) : Nat := (largest (fun k => k ^ 64 ≤ 2 ^ (64 * 17 + i)) 19 0 + 1) / 2
/-- L_i (R166): the nearest integer to 2^16 log2(1 + i/64). -/
def nodeLog (i : Nat) : Nat := (Nat.log2 ((64 + i) ^ 131072) - 786432 + 1) / 2
/-- The numerator of `Interp` over 2^16 × den, t = rem / den (R166). -/
def interp (node : Nat → Nat) (i rem den : Nat) : Nat := node i * (den - rem) + node (i + 1) * rem
/-- i, the remainder of t, and its denominator, for scale × (m / 2^lg − 1) (R166). -/
def splitAt' (scale m lg : Nat) : Nat × Nat := (scale * (m - 2 ^ lg) / 2 ^ lg, scale * (m - 2 ^ lg) % 2 ^ lg)
/-- Steps 3–5 of R166. -/
def approxRound (m : Fmt) (neg : Bool) (v : Nat) (e : Int) : Nat × BitVec 5 :=
  match m with
  | .int _ _ => (0, 0)
  | .flt eb mb bias =>
    if v != 0 && ilog2 v e < 1 - (bias : Int) then (signBit eb mb neg, fUF ||| fNX)
    else
      let r := roundFlt eb mb bias false 0 neg v e
      if r.2 &&& fOF != 0 then (signBit eb mb neg + (2 ^ eb - 1) * 2 ^ mb, fOF ||| fNX) else (r.1, 0)
/-- A special result, no rounding (R167). -/
def special (m : Fmt) (x : Num) (f : BitVec 5) : Nat × BitVec 5 := ((convert m false 0 x).1, f)
/-- `vrcp` on a lane. -/
def rcpLane (f : Fmt) (x : Nat) : Nat × BitVec 5 :=
  match readFmt f false x with
  | .nan s => special f (.nan false) (if s then fNV else 0)
  | .inf n => special f (.fin n 0 0) 0
  | .fin n m e =>
    if m = 0 then special f (.inf n) fDZ
    else
      let lg := Nat.log2 m
      let p := splitAt' 64 m lg
      approxRound f n (interp nodeRcp p.1 p.2 (2 ^ lg)) (-16 - lg - (e + lg))
/-- `vrsq` on a lane. -/
def rsqLane (f : Fmt) (x : Nat) : Nat × BitVec 5 :=
  match readFmt f false x with
  | .nan s => special f (.nan false) (if s then fNV else 0)
  | .inf n => if n then special f (.nan false) fNV else special f (.fin false 0 0) 0
  | .fin n m e =>
    if m = 0 then special f (.inf n) fDZ
    else if n then special f (.nan false) fNV
    else
      let lg := Nat.log2 m
      let ex : Int := e + lg
      let odd := ex % 2 != 0
      let e' := if odd then ex - 1 else ex
      let p := splitAt' 32 (if odd then 2 * m else m) lg
      approxRound f false (interp nodeRsq p.1 p.2 (2 ^ lg)) (-16 - lg - e' / 2)
/-- `vexp2` on a lane. -/
def exp2Lane (f : Fmt) (x : Nat) : Nat × BitVec 5 :=
  match readFmt f false x with
  | .nan s => special f (.nan false) (if s then fNV else 0)
  | .inf n => if n then special f (.fin false 0 0) 0 else special f (.inf false) 0
  | .fin n m e =>
    if m != 0 && ilog2 m e ≥ 12 then
      (if n then special f (.fin false 0 0) (fUF ||| fNX) else special f (.inf false) (fOF ||| fNX))
    else
      let k := (-e).toNat
      let v := scaled n m e (-(k : Int))
      let den : Nat := 2 ^ k
      let fr : Nat := (v % (den : Int)).toNat
      approxRound f false (interp nodeExp (64 * fr / den) (64 * fr % den) den) (v / (den : Int) - 16 - k)
/-- `vlog2` on a lane. -/
def log2Lane (f : Fmt) (x : Nat) : Nat × BitVec 5 :=
  match readFmt f false x with
  | .nan s => special f (.nan false) (if s then fNV else 0)
  | .inf n => if n then special f (.nan false) fNV else special f (.inf false) 0
  | .fin n m e =>
    if m = 0 then special f (.inf true) fDZ
    else if n then special f (.nan false) fNV
    else
      let lg := Nat.log2 m
      let p := splitAt' 64 m lg
      let v : Int := (e + lg) * ((2 ^ (16 + lg) : Nat) : Int) + (interp nodeLog p.1 p.2 (2 ^ lg) : Nat)
      approxRound f (v < 0) v.natAbs (-16 - (lg : Int))
/-- `vrcp`. -/
def execVrcp (h : AHead) (o : VU) (s : State) : Out := runA h (vuFloat o 6 rcpLane) s
/-- `vrsq`. -/
def execVrsq (h : AHead) (o : VU) (s : State) : Out := runA h (vuFloat o 6 rsqLane) s
/-- `vexp2`. -/
def execVexp2 (h : AHead) (o : VU) (s : State) : Out := runA h (vuFloat o 6 exp2Lane) s
/-- `vlog2`. -/
def execVlog2 (h : AHead) (o : VU) (s : State) : Out := runA h (vuFloat o 6 log2Lane) s

/-! Conversions (R74–R77). -/

/-- Elements of a `vcvt` (R74). -/
def cvtCount (bf bt : Nat) : Nat := let m := Nat.min bf bt; if m < 64 then 512 / m else 16
/-- Units of a group of `n` registers of width-`b` elements. -/
def unitsOf (n b : Nat) : Nat := if b = 64 then n / 2 else n
/-- The use of `vcvt` (R74). -/
def vcvtUse (o : ACV) : VecUse :=
  let bf := (fmtOf o.frm.toNat).width
  let bt := (fmtOf o.dst.toNat).width
  let n := cvtCount bf bt
  { srcs := [(o.a.toNat, n * bf / 512)], dst := some (o.d.toNat, n * bt / 512), lat := 3
    units := Nat.max (unitsOf (n * bf / 512) bf) (unitsOf (n * bt / 512) bt) }
/-- `vcvt` (R74). -/
def execVcvt (h : AHead) (o : ACV) (s : State) : Out :=
  let ff := fmtOf o.frm.toNat
  let ft := fmtOf o.dst.toNat
  runA h (vecSpec (vcvtUse o) fun s v _ =>
    let t := s.view
    gather (cvtCount ff.width ft.width) ft.width fun k =>
      some (convert ft t.topx (effRM o.rm.toNat t.rm) (readFmt ff t.topx (lane (v.getD 0 0) ff.width k)))) s
/-- Registers of 64 elements of an unpacked side (R75). -/
def bxRegs (ft : BitVec 2) : Nat := if ft = 0 then 4 else 2
/-- `vpackbx` (R75). -/
def execVpackbx (h : AHead) (o : VBX) (s : State) : Out :=
  let f := fmtOf o.ft.toNat
  let w := bxWidth o.bx.toNat
  let n := bxRegs o.ft
  let u : VecUse := { srcs := [(o.va.toNat, n)], dst := some (o.vd.toNat, 1), lat := 3, units := n }
  runA h (vecSpec u fun s v _ =>
    let t := s.view
    let blks := (List.range 4).map fun b =>
      packBlock ((List.range 16).map fun i => readFmt f false (lane (v.getD 0 0) f.width (16 * b + i))) w
        (effRM o.rm.toNat t.rm) t.topx
    let val := (blks.mapIdx fun b k =>
      (k.1 + 256 * k.2.1 + 65536 * k.2.2.1) * 2 ^ (8 * bxBytes w * b)).foldl (· + ·) 0
    (val, 2 ^ 512 - 1, blks.foldl (fun a k => a ||| k.2.2.2) 0)) s
/-- `vunpbx` (R76). -/
def execVunpbx (h : AHead) (o : VBX) (s : State) : Out :=
  let f := fmtOf o.ft.toNat
  let w := bxWidth o.bx.toNat
  let n := bxRegs o.ft
  let u : VecUse := { srcs := [(o.va.toNat, 1)], dst := some (o.vd.toNat, n), lat := 3, units := n }
  runA h (vecSpec u fun s v _ =>
    let t := s.view
    gather 64 f.width fun k =>
      let blk := v.getD 0 0 / 2 ^ (8 * bxBytes w * (k / 16)) % 2 ^ (8 * bxBytes w)
      some (convert f false (effRM o.rm.toNat t.rm)
        (blockElem w t.topx (blk % 256) (blk / 256 % 256) (blk / 65536) (k % 16)))) s

/-! Streams (R152, R155). -/

/-- The segment, offset and address checks of a descriptor (R152): R15 for every granule, then the home of every granule.
The trap's address is the first granule's that fails. -/
def sbindCheck (d : Word) (s : State) : Option TrapInfo :=
  let g := s.view.seg (wbits d 60 3)
  let off := wbits d 0 32
  let last : Int := off + 64 * streamStride d * (streamLen d - 1 : Nat)
  let a := g.addr off
  let lo : Int := if last < off then last else off
  let hi : Int := (if last < off then (off : Int) else last) + 64
  if !g.valid then some (trapAt 6 1 g.base)
  else if (!d.getLsbD 63 && !g.r) || (d.getLsbD 63 && !g.w) then some (trapAt 6 3 g.base)
  else if streamLen d != 0 && (lo < 0 || hi > g.limit) then some (trapAt 5 1 a)
  else if off % 64 != 0 || wbits g.base 0 6 != 0 then some (trapAt 8 0 a)
  else
    let x : Stream := ⟨d, a, 0, false, false, 0, [], 0, 0⟩
    let grans := (List.range (streamLen d)).map x.granAddr
    ((grans.find? fun b => (s.r15 s.ctx.core b).isSome).map (trapAt 5 2)) <|>
    ((grans.find? fun b => !s.isLocal b).map (trapAt 5 3))

/-- `sbind` (R152). -/
def execSbind (h : AHead) (v x : BitVec 5) (s : State) : Out :=
  runA h
    { acc := fun _ => scalarAcc [x] []
      kind := needsAll
      park2 := fun s => let d := s.sval x; if d = 0 then none else s.segBusy (wbits d 60 3)
      trap3 := fun s => let d := s.sval x; if d = 0 then none else sbindCheck d s
      park4 := fun s => match s.boundReg v.toNat with
        | some y => if y.pushes != 0 then some Park.other else none
        | none => none
      effect := fun s =>
        let d := s.sval x
        let g := s.view.seg (wbits d 60 3)
        let a := g.addr (wbits d 0 32)
        let y : Stream := ⟨d, a, tagOf a, g.tagx, g.noundo, 0, [], 0, s.cycle⟩
        if d = 0 then s.modCur (·.setStream v.toNat none)
        else
          let s := s.modCur (·.setStream v.toNat (some y))
          if y.isWrite then s
          else s.queueLocal s.ctx.core ((List.range (Nat.min 4 (streamLen d))).map fun i =>
            ⟨s.me, s.ctx.org, y.off i, false, .streamRead (v.toNat + 32 * y.gen) i⟩) } s

/-- What SREPN becomes with a count of 0: the rest of the lowest-numbered bound read stream (R155). -/
def Thread.restOfStream (t : Thread) : Nat :=
  ((t.streams.toList.findSome? fun x => match x with
    | some y => if y.isWrite then none else some (streamLen y.desc - y.pos)
    | none => none)).getD 0
/-- `srep` (R155). -/
def execSrep (h : AHead) (x : BitVec 5) (s : State) : Out :=
  runA h
    { acc := fun _ => scalarAcc [x] []
      kind := needsAll
      effect := fun s =>
        let n := wbits (s.sval x) 0 14
        s.modCur fun t => { t with srep := some (if n = 0 then t.restOfStream else n) } } s

/-! Steps. -/

/-- The vector unit is free again (R150). -/
def execVectorUnitFree (s : State) : Out :=
  .next (s.modCore s.subj.core fun k => if k.vecUntil ≤ s.cycle then { k with vecUntil := 0 } else k)

/-- A granule of a read stream becomes available to a pop (R153); `reg` carries the binding's cycle above bit 5. -/
def execStreamReadAvailable (who : SlotRef) (reg idx : Nat) (s : State) : Out :=
  .next (s.modWho who fun t =>
    match vget none t.streams (reg % 32 - 28) with
    | some x =>
      if x.gen = reg / 32 then
        t.setStream (reg % 32) (some { x with avail := x.avail.map fun a => if a.1 == idx then (a.1, a.2.1, true) else a })
      else t
    | none => t)

/-- A push enters the local access queue in the cycle its result is due (R153), whether or not its thread still stands
there. -/
def execStreamPushQueued (who : SlotRef) (org : Origin) (reg : Nat) (off : PushAt) (val : VReg) (mask : Word) (s : State) : Out :=
  let s := s.modWho who fun t =>
    match vget none t.streams (reg - 28) with
    | some x => t.setStream reg (some { x with pushes := x.pushes - 1 })
    | none => t
  .next (s.queueLocal who.core [⟨who, org, off.off, off.noundo, .streamWrite reg val mask off.tag⟩])

end Sys2Proof.Machine
end

