-- ==== Sys2Proof/Machine/Tile.lean ====
section
/-! DEFINITION. Tiles and the matrix unit (R170–R193): tile geometry, the element-wise and matrix operations with their
order of sums, the matrix queue, the column select unit, the load path, and remote matrix commands. -/

namespace Sys2Proof.Machine

/-! Tile configurations (R172, R173). -/

/-- ROWS + 1. -/
def tcRows (c : Word) : Nat := wbits c 0 6 + 1
/-- Row bytes. -/
def tcRb (c : Word) : Nat := 16 * (wbits c 16 3 + 1)
/-- FMT. -/
def tcFmt (c : Word) : Nat := wbits c 28 4
/-- CMP. -/
def tcCmp (c : Word) : Bool := c.getLsbD 27
/-- IBASE. -/
def tcIbase (c : Word) : Nat := wbits c 48 16
/-- Is the format a block format? -/
def tcBX (c : Word) : Bool := tcFmt c ≥ 13
/-- w of the block format. -/
def tcW (c : Word) : Nat := bxWidth (tcFmt c - 13)
/-- Data bytes of a compressed slot (R173). -/
def tcSlotBytes (c : Word) : Nat := if tcW c = 2 then 2 else if tcW c = 4 then 4 else 8
/-- Data bytes of a block or group of a BX tile. -/
def tcBlk (c : Word) : Nat := if tcCmp c then tcSlotBytes c else 2 * tcW c
/-- Blocks or groups per row of a BX tile. -/
def tcBlocks (c : Word) : Nat := tcRb c / tcBlk c
/-- Bits of an element of a format that is no block format. -/
def tcBits (c : Word) : Nat := (fmtOf (tcFmt c)).width
/-- K, elements per row, dense (R173). -/
def tcK (c : Word) : Nat :=
  if tcBX c then 16 * tcBlocks c else if tcCmp c then 2 * tcRb c else tcRb c * 8 / tcBits c
/-- Bytes of a scratchpad row (R173). -/
def tcRow (c : Word) : Nat :=
  if tcBX c then tcBlocks c * (if tcCmp c then 2 + tcW c else 2 + 2 * tcW c) else tcRb c
/-- PITCH, or the row size (R183). -/
def tcPitch (c : Word) : Nat := if wbits c 32 16 = 0 then tcRow c else wbits c 32 16

/-- The traps of a TCFG write (R172): cause and subcode. -/
def tcfgTrap (c : Word) : Option (Nat × Nat) :=
  if wbits c 19 8 != 0 || wbits c 6 10 != 0 then some (2, 1)
  else if tcFmt c = 8 || tcFmt c = 12 || tcRows c * tcRb c > 4096 || wbits c 32 16 % 16 != 0 ||
      (tcCmp c && !(tcFmt c = 3 || tcFmt c = 4 || tcFmt c ≥ 13)) ||
      (tcBX c && (tcRb c % tcBlk c != 0 || tcRows c * tcBlocks c > 1024)) then some (2, 2)
  else none

/-! Tile bytes and elements (R170, R173). -/

/-- Bytes of a physical tile; the scale plane starts at 4,096. -/
def tread (m : Memory) (phys off n : Nat) : List Byte := mread m (phys * 8192 + off) n
/-- Writes bytes of a physical tile. -/
def twrite (m : Memory) (phys : Nat) (ws : List (Nat × List Byte)) : Memory :=
  ws.foldl (fun m w => mwrite m (phys * 8192 + w.1) w.2) m
/-- The bits of element `e` of row `r`, `b` bits wide. -/
def tbits (m : Memory) (t : TileRef) (r e b : Nat) : Nat :=
  leNat (tread m t.phys (r * tcRb t.cfg + e * (b / 8)) (b / 8))
/-- E and sub-exponent byte of block `j` of row `r`. -/
def tscale (m : Memory) (t : TileRef) (r j : Nat) : Nat × Nat :=
  let n := 4096 + 2 * (r * tcBlocks t.cfg + j)
  (leNat (tread m t.phys n 1), leNat (tread m t.phys (n + 1) 1))
/-- Val of a dense element (R58, R59, R64). -/
def tval (m : Memory) (topx : Bool) (t : TileRef) (r k : Nat) : Num :=
  if tcBX t.cfg then
    let j := k / 16
    let w := tcW t.cfg
    let e := tscale m t r j
    blockElem w topx e.1 e.2 (leNat (tread m t.phys (r * tcRb t.cfg + j * (2 * w)) (2 * w))) (k % 16)
  else readFmt (fmtOf (tcFmt t.cfg)) topx (tbits m t r k (tcBits t.cfg))
/-- Val of slot `q` of group `g` of a compressed row (R181). -/
def tslot (m : Memory) (topx : Bool) (t : TileRef) (r g q : Nat) : Num :=
  if tcBX t.cfg then
    let w := tcW t.cfg
    let e := tscale m t r g
    if nanBlock topx e.1 e.2 then .nan false
    else
      let f := leNat (tread m t.phys (r * tcRb t.cfg + g * tcSlotBytes t.cfg) w) / 2 ^ (w * q) % 2 ^ w
      .fin (f / 2 ^ (w - 1) == 1) (f % 2 ^ (w - 1)) ((e.1 : Int) - 127 - (e.2 / 4 ^ (q / 2) % 4 : Nat) - (w - 1))
  else readFmt (fmtOf (tcFmt t.cfg)) topx (leNat (tread m t.phys (r * tcRb t.cfg + 8 * g + q) 1))

/-! Sums (R180, R181). -/

/-- A product with its invalidity (0 × ∞) and whether a factor signals. -/
def prodOf (x y : Num) : Num × Bool × Bool :=
  let bad := (x.isZero && y.isInf) || (x.isInf && y.isZero)
  ((if x.isNaN || y.isNaN then .nan false else (mulNum x y).getD (.nan false)), bad, x.isSig || y.isSig)

/-- The sum of a group's products rounded to FP32 in RNE, and its flags (R180). -/
def groupSum (ps : List (Num × Num)) : Num × BitVec 5 :=
  let qs := ps.map fun p => prodOf p.1 p.2
  let pos := qs.any fun q => q.1 == .inf false
  let neg := qs.any fun q => q.1 == .inf true
  let nv : BitVec 5 := if (pos && neg) || qs.any fun q => q.2.1 || q.2.2 then fNV else 0
  if (pos && neg) || qs.any fun q => q.2.1 || q.1.isNaN then (.nan false, nv)
  else
    let x : Option Num := match qs with
      | [] => some (.fin false 0 0)
      | q :: r => r.foldl (fun (a : Option Num) z => a.bind fun v => addNum 0 v z.1) (some q.1)
    let r := convert (fmtOf 0) false 0 (x.getD (.nan false))
    (readFmt (fmtOf 0) false r.1, r.2 ||| nv)

/-- One accumulation in FP32, RNE (R180). -/
def accAdd (acc : Nat) (g : Num × BitVec 5) : Nat × BitVec 5 :=
  let r := fAdd (fmtOf 0) 0 (readFmt (fmtOf 0) false acc) g.1
  (r.1, r.2 ||| g.2)

/-- The scaled result (R180): acc × sa × sb plus D or +0, rounded once. -/
def scaleOut (acc sa sb d : Num) : Nat × BitVec 5 :=
  let fs := [acc, sa, sb]
  let nan := fs.any Num.isNaN || d.isNaN
  let sig := fs.any Num.isSig || d.isSig
  let bad := fs.any Num.isZero && fs.any Num.isInf
  if bad then (canonNaN 8 23, fNV)
  else finish (fmtOf 0) 0 nan sig (((mulNum acc sa).bind fun p => mulNum p sb).bind fun p => addNum 0 p d)

/-- Is the operation `tmma` or `tmmas`? -/
def MOp.isMma (m : MOp) : Bool := m.fn == 1 || m.fn == 2
/-- Tile `k` among the sources. -/
def MOp.src (m : MOp) (k : Nat) : TileRef := m.srcs.getD k m.dst
/-- ACC. -/
def MOp.acc (m : MOp) : Bool := m.isMma && m.opt.getLsbD 8
/-- SCL. -/
def MOp.scl (m : MOp) : Bool := m.isMma && m.opt.getLsbD 7
/-- kstep of an operand format, dense (R175). -/
def kstepOf (fmt : Nat) : Nat :=
  if fmt = 13 then 64 else if fmt = 14 || fmt = 3 || fmt = 4 then 32 else if fmt = 0 then 2 else 16
/-- K elements that one step covers. -/
def MOp.kstep (m : MOp) : Nat := (if m.fn = 2 then 2 else 1) * kstepOf (tcFmt (m.src 0).cfg)
/-- Steps of one 8 × 8 block. -/
def MOp.blockSteps (m : MOp) : Nat := (tcK (m.src 1).cfg + m.kstep - 1) / m.kstep
/-- The pairs group `g` multiplies for output (i, j) (R180, R181). -/
def MOp.pairs (m : MOp) (mem : Memory) (i j g : Nat) : List (Num × Num) :=
  let a := m.src 0
  let b := m.src 1
  if m.fn = 2 then
    let pos := leNat (tread mem (m.src 2).phys (i * tcRb (m.src 2).cfg + 4 * g) 4)
    (List.range (m.opt.toNat % 16)).map fun q =>
      (tslot mem m.topx a i g q, tval mem m.topx b j (16 * g + pos / 16 ^ q % 16))
  else (List.range (Nat.min 16 (tcK a.cfg - 16 * g))).map fun k =>
    (tval mem m.topx a i (16 * g + k), tval mem m.topx b j (16 * g + k))
/-- Accumulates groups `g0` to `g1 - 1`. -/
def MOp.accumulate (m : MOp) (mem : Memory) (i j g0 g1 acc : Nat) : Nat × BitVec 5 :=
  (List.range (g1 - g0)).foldl (fun a k =>
    let r := accAdd a.1 (groupSum (m.pairs mem i j (g0 + k)))
    (r.1, a.2 ||| r.2)) (acc, 0)
/-- Element i of a scale vector. -/
def scaleElem (bs : List Byte) (i : Nat) : Num := readFmt (fmtOf 0) false (leNat ((bs.drop (4 * i)).take 4))

/-- What `tmma` and `tmmas` have written when `upto` steps are done, the accumulators of the block in progress, and the
flags (R175, R180, R192). -/
def MOp.mmaOut (m : MOp) (mem : Memory) (upto : Nat) : List (Nat × List Byte) × List Nat × BitVec 5 :=
  let M := tcRows (m.src 0).cfg
  let N := tcRows (m.src 1).cfg
  let groups := (tcK (m.src 1).cfg + 15) / 16
  let kk := m.blockSteps
  (List.range (M * N)).foldl (fun a x =>
    let i := x / N
    let j := x % N
    let blk := i / 8 * ((N + 7) / 8) + j / 8
    let st := Nat.min (upto - blk * kk) kk
    let bs := Nat.min (m.base - blk * kk) kk
    if st = 0 || bs = kk then a
    else
      let d := tbits mem m.dst i j 32
      let acc0 := if bs = 0 then (if m.acc && !m.scl then d else 0) else m.accs.getD (i % 8 * 8 + j % 8) 0
      let g0 := bs * m.kstep / 16
      let g1 := if st = kk then groups else st * m.kstep / 16
      let r := m.accumulate mem i j g0 g1 acc0
      if st = kk then
        let f := if m.scl then scaleOut (readFmt (fmtOf 0) false r.1) (scaleElem m.scales.1 i) (scaleElem m.scales.2 j)
            (if m.acc then readFmt (fmtOf 0) false d else .fin false 0 0)
          else (r.1, 0)
        (a.1 ++ [(i * tcRb m.dst.cfg + 4 * j, toLE 4 f.1)], a.2.1, a.2.2 ||| r.2 ||| f.2)
      else (a.1, a.2.1.set (i % 8 * 8 + j % 8) r.1, a.2.2 ||| r.2)) ([], List.replicate 64 0, 0)

/-! The other operations (R186–R188). -/

/-- Rows and elements of a tile. -/
def cellsOf (rows k : Nat) : List (Nat × Nat) := (List.range rows).flatMap fun r => (List.range k).map fun e => (r, e)

/-- `ttrans` (R186). -/
def MOp.transOut (m : MOp) (mem : Memory) : List (Nat × List Byte) :=
  let a := m.src 0
  let b := tcBits a.cfg
  (cellsOf (tcRows a.cfg) (tcK a.cfg)).map fun x =>
    (x.2 * tcRb m.dst.cfg + x.1 * (b / 8), toLE (b / 8) (tbits mem a x.1 x.2 b))
/-- `tadd` (R186). -/
def MOp.addOut (m : MOp) (mem : Memory) : List (Nat × List Byte) × BitVec 5 :=
  let a := m.src 0
  let b := m.src 1
  let f := fmtOf (tcFmt a.cfg)
  let w := f.width
  (cellsOf (tcRows a.cfg) (tcK a.cfg)).foldl (fun z x =>
    let u := tbits mem a x.1 x.2 w
    let v := tbits mem b x.1 x.2 w
    let r := if tcFmt a.cfg = 7 then ((u + v) % 2 ^ 32, 0) else fAdd f 0 (readFmt f false u) (readFmt f false v)
    (z.1 ++ [(x.1 * tcRb m.dst.cfg + x.2 * (w / 8), toLE (w / 8) r.1)], z.2 ||| r.2)) ([], 0)
/-- `tcvt` (R187). -/
def MOp.cvtOut (m : MOp) (mem : Memory) : List (Nat × List Byte) × BitVec 5 :=
  let a := m.src 0
  let d := m.dst.cfg
  if tcBX d then
    let w := tcW d
    (cellsOf (tcRows d) (tcBlocks d)).foldl (fun z x =>
      let b := packBlock ((List.range 16).map fun i => tval mem m.topx a x.1 (16 * x.2 + i)) w m.rm m.topx
      let n := 4096 + 2 * (x.1 * tcBlocks d + x.2)
      (z.1 ++ [(x.1 * tcRb d + x.2 * (2 * w), toLE (2 * w) b.2.2.1), (n, toLE 1 b.1 ++ toLE 1 b.2.1)], z.2 ||| b.2.2.2))
      ([], 0)
  else
    let f := fmtOf (tcFmt d)
    (cellsOf (tcRows d) (tcK d)).foldl (fun z x =>
      let r := convert f m.topx m.rm (tval mem m.topx a x.1 x.2)
      (z.1 ++ [(x.1 * tcRb d + x.2 * (f.width / 8), toLE (f.width / 8) r.1)], z.2 ||| r.2)) ([], 0)
/-- Does score `x` rank above score `y` (R188)? -/
def ranksAbove (x y : Num) : Bool := if y.isNaN then !x.isNaN else if x.isNaN then false else ltNum y x
/-- Puts a row in the ranking, after every row that does not rank below it. -/
def rankInsert (score : Nat → Num) (r : Nat) : List Nat → List Nat
  | [] => [r]
  | x :: xs => if ranksAbove (score r) (score x) then r :: x :: xs else x :: rankInsert score r xs
/-- k of a `tsel` (R188). -/
def tselK (opt : BitVec 9) : Nat := let k := opt.toNat / 8 % 64; if k = 0 then 64 else k
/-- `tsel` (R188). -/
def MOp.selOut (m : MOp) (mem : Memory) : List (Nat × List Byte) :=
  let a := m.src 0
  (List.range (tcK a.cfg)).flatMap fun c =>
    let rows := (List.range (tcRows a.cfg)).foldl (fun l r => rankInsert (fun i => tval mem m.topx a i c) r l) []
    (rows.take (tselK m.opt)).mapIdx fun q r => (q * tcRb m.dst.cfg + 4 * c, toLE 4 (tcIbase a.cfg * 65536 + r))

/-- What a finished operation writes, and its flags (R176, R186). -/
def MOp.result (m : MOp) (mem : Memory) : List (Nat × List Byte) × BitVec 5 :=
  match m.fn with
  | 0 => ([(0, List.replicate 6144 0)], 0)
  | 3 => (m.transOut mem, 0)
  | 4 => m.addOut mem
  | 5 => m.cvtOut mem
  | 6 => (m.selOut mem, 0)
  | _ => let r := m.mmaOut mem m.steps; (r.1, r.2.2)

/-! Tile words (R171, R174, R175, R185). -/

/-- The names an A-word of major 0x31 uses, destination first, then A, B and TM. -/
def tileNames (fn : Nat) (td ta tb tm : Nat) : Nat × List Nat :=
  match fn with
  | 0 => (td, [])
  | 1 => (td, [ta, tb])
  | 2 => (td, [ta, tb, tm])
  | 4 => (td, [ta, tb])
  | _ => (td, [ta])
/-- Names of a word, from its bits (R185). -/
def wordNames (w : BitVec 32) : Nat × List Nat :=
  let v := w.toNat
  tileNames (bits v 9 4) (bits v 19 3) (bits v 16 3) (bits v 13 3) (bits v 4 3)

/-- Is the name mapped (R171)? -/
def Thread.mapped (t : Thread) (i : Nat) : Bool := t.twin.getLsbD (32 + i)
/-- The tile of a name with its configuration (R171, R174). -/
def Thread.tile (t : Thread) (i : Nat) : TileRef := ⟨wbits t.twin (4 * i) 4, vget 0 t.tcfg i⟩

/-- Is an operand format accepted by `tmma` (R185)? -/
def mmaFmt (f : Nat) : Bool := f ≤ 4 || f ≥ 13
/-- Do the formats of A and B go together? -/
def mmaPair (a b : Nat) : Bool := a == b || (a == 3 && b == 4) || (a == 4 && b == 3)
/-- Is D right for an M × N result (R185)? -/
def mmaDst (d : Word) (M N : Nat) : Bool := tcFmt d == 0 && !tcCmp d && tcRows d == M && tcRb d == 4 * N
/-- Does the conversion pair stand in R187? -/
def tcvtPair (a b : Nat) : Bool :=
  let plain (f : Nat) : Bool := f ≤ 7 || (9 ≤ f && f ≤ 11)
  (plain a && plain b) || (a ≥ 13 && b ≤ 2) || (a ≤ 2 && b ≥ 13)

/-- Do the captured configurations suit the operation (R185, R187, R188)? The bound of 32 rows on A and B is taken for `tmma`
alone (DESIGN CHOICE, log 84: of `tmmas` R185 says only "the same format rule as `tmma`"). -/
def tileSuits (fn : Nat) (opt : BitVec 9) (d : TileRef) (srcs : List TileRef) : Bool :=
  let a := (srcs.getD 0 d).cfg
  let b := (srcs.getD 1 d).cfg
  let c := d.cfg
  match fn with
  | 0 => true
  | 1 =>
    !tcCmp a && !tcCmp b && mmaFmt (tcFmt a) && mmaFmt (tcFmt b) && mmaPair (tcFmt a) (tcFmt b) && tcRows a ≤ 32 &&
    tcRows b ≤ 32 && tcK a == tcK b && mmaDst c (tcRows a) (tcRows b)
  | 2 =>
    let m := (srcs.getD 2 d).cfg
    tcCmp a && !tcCmp b && mmaFmt (tcFmt b) && mmaPair (tcFmt a) (tcFmt b) && tcK a == tcK b &&
    tcFmt m == 11 && !tcCmp m && tcRows m == tcRows a && tcRb m == 4 * (tcK a / 16) && mmaDst c (tcRows a) (tcRows b)
  | 3 =>
    tcFmt a < 12 && !tcCmp a && tcFmt c == tcFmt a && !tcCmp c && tcRows c == tcK a && tcK c == tcRows a
  | 4 =>
    (tcFmt a ≤ 2 || tcFmt a == 7) && tcFmt b == tcFmt a && tcFmt c == tcFmt a && tcRows b == tcRows a &&
    tcRows c == tcRows a && tcRb b == tcRb a && tcRb c == tcRb a && !tcCmp a && !tcCmp b && !tcCmp c
  | 5 =>
    tcFmt c == opt.toNat / 32 && tcRows c == tcRows a && tcK c == tcK a && !tcCmp a && !tcCmp c
  | _ =>
    tcFmt a ≤ 2 && !tcCmp a && 4 * tcK a ≤ 128 && tselK opt ≤ tcRows a && tcFmt c == 11 && !tcCmp c &&
    tcRows c == tselK opt && tcRb c == 4 * tcK a

/-- Traps of a tile word at issue (R185, R187, R193), from the thread whose names it uses: cause and subcode. -/
def Thread.tileTrap (t : Thread) (fn : Nat) (opt : BitVec 9) (names : Nat × List Nat) : Option (Nat × Nat) :=
  let d := t.tile names.1
  let srcs := names.2.map t.tile
  if fn == 5 && !tcvtPair (tcFmt (srcs.getD 0 d).cfg) (opt.toNat / 32) then some (1, 6)
  else if !t.mapped names.1 || names.2.any fun n => !t.mapped n then some (1, 8)
  else if !tileSuits fn opt d srcs then some (2, 3)
  else if fn != 4 && srcs.any fun x => x.phys == d.phys then some (3, 0)
  else none

/-- Steps of an operation (R175, R188). -/
def tileSteps (fn : Nat) (opt : BitVec 9) (d : TileRef) (srcs : List TileRef) : Nat :=
  let a := (srcs.getD 0 d).cfg
  let b := (srcs.getD 1 d).cfg
  let blocks := ((tcRows a + 7) / 8) * ((tcRows b + 7) / 8)
  let ks := kstepOf (tcFmt a)
  let size (t : TileRef) : Nat := tcRows t.cfg * tcRb t.cfg
  match fn with
  | 0 => 8
  | 1 => blocks * ((tcK a + ks - 1) / ks)
  | 2 => blocks * ((tcK b + 2 * ks - 1) / (2 * ks))
  | 6 => 2 + tcRows a * ((tcK a + 15) / 16) + tselK opt
  | _ => ((srcs.foldl (fun n t => Nat.max n (size t)) (size d)) + 255) / 256

/-- A new operation of a thread (R174). -/
def Thread.newOp (t : Thread) (id slot tid : Nat) (org : Origin) (w : BitVec 32) (remote : Option RCmd) : MOp :=
  let names := wordNames w
  let d := t.tile names.1
  let srcs := names.2.map t.tile
  let fn := bits w.toNat 9 4
  let opt : BitVec 9 := w.setWidth 9
  { id := id, slot := slot, tid := tid, org := org, fn := fn, opt := opt, word := w, dst := d, srcs := srcs
    remote := remote, steps := tileSteps fn opt d srcs, done := 0, lastAt := 0, started := false
    topx := (remote.map (·.topx)).getD t.topx, rm := effRM (if fn = 5 then opt.toNat / 4 % 8 else 0) t.rm
    msca := t.msca, mscb := t.mscb
    scales := ([], []), scaleLeft := 0, scaleAt := 0, flags := 0, failed := false, base := 0, accs := [] }

/-! Busy tiles (R179). -/

/-- Tiles an operation reads: its sources, and D where it accumulates. -/
def MOp.reads (m : MOp) : List Nat := m.srcs.map (·.phys) ++ (if m.acc then [m.dst.phys] else [])
/-- Does a load-path operation or payload write its tile? -/
def LOp.writes (o : LOp) : Bool := o.kind == .tld || o.kind == .trest || o.kind == .payloadIn

/-- What R179 compares of an operation: its class (0 matrix, 1 `tsel`, 2 other), slot, reads and writes. -/
structure TileUse where
  cls : Nat
  slot : Nat
  reads : List Nat
  writes : List Nat
  deriving DecidableEq, Repr

/-- The use of a matrix or select operation. -/
def MOp.use (m : MOp) : TileUse := ⟨if m.fn == 6 then 1 else 0, m.slot, m.reads, [m.dst.phys]⟩
/-- The use of a load-path operation or payload. -/
def LOp.use (o : LOp) : TileUse :=
  ⟨2, o.who.slot, if o.writes then [] else [o.tile.phys], if o.writes then [o.tile.phys] else []⟩
/-- The pending operations of a core that have entered their queues. -/
def Core.tileUses (k : Core) : List TileUse := k.mops.map (·.use) ++ k.selops.map (·.use) ++ k.lops.map (·.use)
/-- Remote operations that have arrived and wait in the network interface: pending, and the matrix operations among them not
bound to finish before one that enters its queue now (R179, R190). -/
def Core.waitUses (k : Core) : List TileUse := k.rcmdWait.map fun m => { m.use with cls := if m.fn == 6 then 1 else 2 }
/-- Does new operation `p` conflict with pending operation `o` (R179)? -/
def tileConflict (roten : Bool) (o p : TileUse) : Bool :=
  !(o.cls == 0 && p.cls == 0 && (!roten || o.slot == p.slot)) && !(o.cls == 1 && p.cls == 1) &&
  (o.writes.any (fun t => p.reads.contains t || p.writes.contains t) || o.reads.any p.writes.contains)
/-- ISSUEPOL.ROTEN (R96). -/
def Core.roten (k : Core) : Bool := k.issuepol.getLsbD 1
/-- Does a new operation conflict with a pending one that has entered its queue? -/
def Core.tileTaken (k : Core) (p : TileUse) : Bool := k.tileUses.any fun o => tileConflict k.roten o p
/-- Does a new operation conflict with any pending one? -/
def Core.tileBusy (k : Core) (p : TileUse) : Bool := k.tileTaken p || k.waitUses.any fun o => tileConflict k.roten o p

/-! The matrix queue and the column select unit (R176–R178, R188). -/

/-- Has an operation a step to take? One that a scale read ended has none (R178). -/
def MOp.unstepped (m : MOp) : Bool := m.done < m.steps && !m.failed
/-- The operation after those that wait only for their scale reads: it may step, unless one of them uses its tiles
(R176, R179; DEDUCED, log 64). -/
def Core.nextOf (k : Core) : Option MOp :=
  let before := (k.mops.takeWhile fun m => !m.unstepped).filter fun m => !m.failed
  (k.mops.find? (·.unstepped)).filter fun m =>
    !before.any fun o => tileConflict false { o.use with cls := 2 } { m.use with cls := 2 }
/-- The operations whose turn it is: the next one, which the one before it has left behind with its last step (R176), or
with ROTEN the oldest unfinished one of each slot (R177). -/
def Core.heads (k : Core) : List MOp :=
  if k.roten then ((List.range 16).filterMap fun sl => k.mops.find? fun m => m.slot == sl && !m.failed).filter (·.unstepped)
  else k.nextOf.toList
/-- Is there a step to take? -/
def Core.matrixWork (k : Core) : Bool := k.mops.any (·.unstepped)
/-- Replaces an operation. -/
def Core.modOp (k : Core) (id : Nat) (f : MOp → MOp) : Core :=
  { k with mops := k.mops.map fun m => if m.id == id then f m else m }

/-- Queues the scale reads of an operation that starts (R178). -/
def State.queueScales (s : State) (c : Nat) (m : MOp) : State :=
  let who : SlotRef := ⟨c, m.slot, m.tid⟩
  let rd (second : Bool) (w : Word) (n : Nat) : List LocalAcc :=
    let gs := (n + 63) / 64
    (List.range gs).map fun i =>
      ⟨who, m.org, wbits w 0 20 + 64 * i, false,
        .scale m.id second (i + 1 = gs) (Nat.min 64 (n - 64 * i)) (tagOf w)⟩
  s.queueRun c (rd false m.msca (4 * tcRows (m.src 0).cfg) ++ rd true m.mscb (4 * tcRows (m.src 1).cfg))

/-- What an operation samples as it starts (R178). One of the thread's own has what the thread held at issue, which R178 keeps
equal to that, whatever the bundle's other word writes (R60); a remote one takes the granting thread's RM, MSCA and MSCB as
they stand, and keeps the TOPX it carried (R61). -/
def MOp.sample (m : MOp) (t : Thread) : MOp :=
  if m.remote.isNone then m
  else { m with rm := effRM (if m.fn == 5 then m.opt.toNat / 4 % 8 else 0) t.rm, msca := t.msca, mscb := t.mscb }
/-- An operation starts: it samples its values and queues its scale reads (R178). -/
def State.startOp (s : State) (c : Nat) (m : MOp) : State :=
  let m := ((s.who ⟨c, m.slot, m.tid⟩).map m.sample).getD m
  let m := { m with started := true, scaleLeft := if m.scl then 2 else 0 }
  let s := s.modCore c (·.modOp m.id fun _ => m)
  if m.scl then s.queueScales c m else s
/-- Starts the operations whose turn it is, in the cycle after the last step at the earliest (R176, R177). -/
def State.startHeads (s : State) (c : Nat) : State :=
  if s.cycle < (s.coreAt c).matAt then s
  else (s.coreAt c).heads.foldl (fun s m => if m.started then s else s.startOp c m) s

/-- Starts what may start, and has the unit step while there is work (R176, R177). -/
def State.kickMatrix (s : State) (c : Nat) : State :=
  let s := s.startHeads c
  if (s.coreAt c).matrixWork && !s.agenda.any fun e => e.2.ins == .matrixStep && e.2.subj.core == c then
    s.at (Nat.max s.cycle (s.coreAt c).matAt) ⟨.matrixStep, { core := c }⟩
  else s

/-- Starts the next `tsel`, in the cycle after the one before it has finished (R188). -/
def State.kickSelect (s : State) (c : Nat) : State :=
  match (s.coreAt c).selops with
  | [] => s
  | m :: r =>
    if m.started then s
    else
      (s.modCore c fun k => { k with selops := { m with started := true } :: r }).at
        (Nat.max s.cycle (s.coreAt c).selAt + m.steps - 1) ⟨.tselFinish, { core := c, n := m.id }⟩

/-- Is there room for an operation in its queue (R176, R188)? -/
def Core.opRoom (k : Core) (m : MOp) : Bool := if m.fn == 6 then k.selops.length < 4 else k.mops.length < 8
/-- An operation enters its queue. -/
def State.enterOp (s : State) (c : Nat) (m : MOp) : State :=
  if m.fn == 6 then (s.modCore c fun k => { k with selops := k.selops ++ [m] }).kickSelect c
  else (s.modCore c fun k => { k with mops := k.mops ++ [m] }).kickMatrix c
/-- Takes the next operation number. -/
def State.opId (s : State) (c : Nat) : State × Nat :=
  (s.modCore c fun k => { k with nextOp := k.nextOp + 1 }, (s.coreAt c).nextOp)

/-- Remote commands waiting in the network interface enter while they may, in order (R190). One whose tiles conflict with a
pending operation waits there too, with those behind it (DESIGN CHOICE, log 84: the rule names a full queue alone). -/
def State.drainRemote (s : State) (c : Nat) : Nat → State
  | 0 => s
  | n + 1 =>
    match (s.coreAt c).rcmdWait with
    | [] => s
    | m :: r =>
      if (s.coreAt c).opRoom m && !(s.coreAt c).tileTaken m.use then
        ((s.modCore c fun k => { k with rcmdWait := r }).enterOp c m).drainRemote c n
      else s

/-- An operation that has finished frees its tiles, and what waited for them goes on (R176, R179). -/
def State.tilesFreed (s : State) (c : Nat) : State :=
  (((s.kickMatrix c).kickSelect c).drainRemote c 16)

/-- The cycle in which an operation that has done its steps and its scale reads finishes (R176, R178): as that cycle ends,
so that it is pending in it and in the next no more. -/
def State.finishSoon (s : State) (c : Nat) (m : MOp) : State :=
  s.at (Nat.max m.lastAt (if m.scl then m.scaleAt + 1 else 0)) ⟨.matrixOpFinish, { core := c, n := m.id }⟩

/-- The operation that takes the step of this cycle (R100). -/
def State.stepping (s : State) (c : Nat) : Option MOp :=
  let k := s.coreAt c
  k.heads.find? fun m => m.started && (!k.roten || m.slot == wbits k.rottab (4 * (s.cycle % 16)) 4)

/-- One cycle of the matrix unit (R100, R175–R177); a cut's pause stops it (R335). -/
def execMatrixStep (s : State) : Out :=
  let c := s.subj.core
  if (s.coreAt c).paused then .next (s.after 1 .matrixStep { core := c })
  else
  let s := s.startHeads c
  let s := match s.stepping c with
    | none => s
    | some m =>
      let m := { m with done := m.done + 1, lastAt := s.cycle }
      let s := s.modCore c fun k => { k.modOp m.id fun _ => m with matAt := s.cycle + 1 }
      if m.done = m.steps && m.scaleLeft = 0 then s.finishSoon c m else s
  .next (if (s.coreAt c).matrixWork then s.after 1 .matrixStep { core := c } else s)

/-- Answers a remote command (R190). -/
def State.answerRemote (s : State) (c : Nat) (r : RCmd) (res : RRes) : State :=
  s.send c r.who.core (.remoteCommandReply r res)

/-- A matrix operation finishes: its destination is written, its flags enter, its sender is answered (R70, R176, R190). -/
def execMatrixOpFinish (s : State) : Out :=
  let c := s.subj.core
  match (s.coreAt c).mops.find? (·.id == s.subj.n) with
  | none => .next s
  | some m =>
    let r := m.result (s.coreAt c).tiles
    let flags := if m.failed then 0 else m.flags ||| r.2
    let s := s.modCore c fun k =>
      { k with
        tiles := if m.failed then k.tiles else twrite k.tiles m.dst.phys r.1
        matAt := s.cycle + 1
        mops := k.mops.filter (·.id != m.id) }
    let s := match m.remote with
      | none => s.raise ⟨c, m.slot, m.tid⟩ flags
      | some q => s.answerRemote c q (.done flags)
    .next (s.tilesFreed c)

/-- The column select unit finishes an operation (R188). -/
def execTselFinish (s : State) : Out :=
  let c := s.subj.core
  match (s.coreAt c).selops.find? (·.id == s.subj.n) with
  | none => .next s
  | some m =>
    let s := s.modCore c fun k =>
      { k with
        tiles := twrite k.tiles m.dst.phys (m.result k.tiles).1
        selAt := s.cycle + 1
        selops := k.selops.filter (·.id != m.id) }
    let s := match m.remote with | none => s | some q => s.answerRemote c q (.done 0)
    .next (s.tilesFreed c)

/-- An operation ends without writing anything: it takes no further step and is pending no longer, and its word's thread
traps after issue (R178); of a remote command it is the sender that traps (DEDUCED, log 64). -/
def State.failScale (s : State) (c : Nat) (m : MOp) (t : TrapInfo) : State :=
  if m.failed then s
  else
    let s := (s.modCore c (·.modOp m.id fun m => { m with failed := true })).after 0 .matrixOpFinish { core := c, n := m.id }
    match m.remote with
    | none => s.reportTrap ⟨c, m.slot, m.tid⟩ m.org t
    | some q => s.send c q.who.core (.trapReportAfterIssue q.who q.org t)

/-- One granule of a scale read at its bank (R178). -/
def State.doScale (s : State) (c : Nat) (a : LocalAcc) (op : Nat) (second last : Bool) (len : Nat) (tag : BitVec 4) : State :=
  match (s.coreAt c).mops.find? fun m => m.id == op && !m.failed with
  | none => s
  | some m =>
    let got := s.spadTagAt c (a.off / 64)
    let s :=
      if a.off + len > 786432 then s.failScale c m (trapAt 5 4 (s.spadAddr c tag (a.off % 0x100000)))
      else if got != tag then s.failScale c m (trapAt 7 2 (s.spadAddr c tag a.off) (tagDetail tag got))
      else
        let bs := s.spadRead c a.off len
        s.modCore c (·.modOp op fun m =>
          { m with scales := if second then (m.scales.1, m.scales.2 ++ bs) else (m.scales.1 ++ bs, m.scales.2) })
    if last then s.after 0 .scaleReadComplete { core := c, n := op, b := second } else s

/-- A scale read is complete (R178). -/
def execScaleReadComplete (s : State) : Out :=
  let c := s.subj.core
  let s := s.modCore c (·.modOp s.subj.n fun m => { m with scaleLeft := m.scaleLeft - 1, scaleAt := s.cycle })
  match (s.coreAt c).mops.find? (·.id == s.subj.n) with
  | none => .next s
  | some m => .next (if m.scaleLeft = 0 && m.done = m.steps && !m.failed then s.finishSoon c m else s)

/-! Tile arithmetic words (R185–R188). -/

/-- The bits of an A-word of major 0x31. -/
def tileBits (h : AHead) (fn : BitVec 4) (td ta tb : BitVec 3) (opt : BitVec 9) : BitVec 32 :=
  putB h.neg 31 ||| put h.grd 28 ||| put (0x31 : BitVec 6) 22 ||| put td 19 ||| put ta 16 ||| put tb 13 ||| put fn 9 |||
  put opt 0

/-- A tile arithmetic word (R43, R174, R176, R179, R185). -/
def tileSpec (w : BitVec 32) : WordSpec where
  pair s :=
    let a := s.view.tile (bits w.toNat 16 3)
    if bits w.toNat 9 4 == 5 && !tcvtPair (tcFmt a.cfg) (bits w.toNat 5 4) then some (1, 6) else none
  kind := needsAll
  trap3 s := (s.view.tileTrap (bits w.toNat 9 4) (w.setWidth 9) (wordNames w)).map fun t => ⟨t.1, t.2, 0, 0⟩
  park4 s :=
    let m := s.view.newOp 0 s.ctx.slot 0 s.ctx.org w none
    if !s.curCore.opRoom m || s.curCore.tileBusy m.use then some Park.other else none
  effect s :=
    let r := s.opId s.ctx.core
    r.1.enterOp s.ctx.core (s.view.newOp r.2 s.ctx.slot s.view.tid s.ctx.org w none)

/-- `tzero` (R186). -/
def execTzero (h : AHead) (td : BitVec 3) (s : State) : Out := runA h (tileSpec (tileBits h 0 td 0 0 0)) s
/-- The ACC and SCL bits of OPT. -/
def mmaOpt (o : TMM) : BitVec 9 := setBit (setBit 0 8 o.acc) 7 o.scl
/-- `tmma` (R180, R186). -/
def execTmma (h : AHead) (o : TMM) (s : State) : Out := runA h (tileSpec (tileBits h 1 o.td o.ta o.tb (mmaOpt o))) s
/-- `tmmas` (R181, R186). -/
def execTmmas (h : AHead) (o : TMM) (tm : BitVec 3) (n : BitVec 4) (s : State) : Out :=
  runA h (tileSpec (tileBits h 2 o.td o.ta o.tb (mmaOpt o ||| tm.setWidth 9 <<< 4 ||| n.setWidth 9))) s
/-- `ttrans` (R186). -/
def execTtrans (h : AHead) (td ta : BitVec 3) (s : State) : Out := runA h (tileSpec (tileBits h 3 td ta 0 0)) s
/-- `tadd` (R186). -/
def execTadd (h : AHead) (td ta tb : BitVec 3) (s : State) : Out := runA h (tileSpec (tileBits h 4 td ta tb 0)) s
/-- `tcvt` (R187). -/
def execTcvt (h : AHead) (td ta : BitVec 3) (fmt : BitVec 4) (rm : BitVec 3) (s : State) : Out :=
  runA h (tileSpec (tileBits h 5 td ta 0 (fmt.setWidth 9 <<< 5 ||| rm.setWidth 9 <<< 2))) s
/-- `tsel` (R188). -/
def execTsel (h : AHead) (td ta : BitVec 3) (k : BitVec 6) (s : State) : Out :=
  runA h (tileSpec (tileBits h 6 td ta 0 (k.setWidth 9 <<< 3))) s

/-! Tile movement (R182–R184, R191). -/

/-- `tcfg` (R182). -/
def execTcfg (h : CHead) (t : BitVec 3) (b : BitVec 5) (s : State) : Out :=
  runC h
    { acc := fun _ => scalarAcc [b] []
      kind := needsAll
      trap3 := fun s => (tcfgTrap (s.sval b)).map fun x => ⟨x.1, x.2, 0, 0⟩
      effect := fun s =>
        let v := s.sval b
        s.modCur fun x => { x with tcfg := vset x.tcfg t.toNat v } } s

/-- The tile byte that byte `x` of scratchpad row `r` goes with (R183). -/
def rowByte (c : Word) (r x : Nat) : Nat :=
  if tcBX c then
    let len := tcRow c / tcBlocks c
    let j := x / len
    let y := x % len
    let n := r * tcBlocks c + j
    if y < 2 then 4096 + 2 * n + y else r * tcRb c + j * tcBlk c + (y - 2)
  else r * tcRb c + x
/-- The scratchpad offsets of a `tld` or `tst` with their tile bytes (R183). -/
def tileCells (c : Word) (off : Nat) : List (Nat × Nat) :=
  (List.range (tcRows c)).flatMap fun r => (List.range (tcRow c)).map fun x => (off + r * tcPitch c + x, rowByte c r x)
/-- Pad bytes of compressed BX7 slots (R183). -/
def tilePads (c : Word) : List Nat :=
  if tcFmt c = 15 && tcCmp c then
    (List.range (tcRows c)).flatMap fun r => (List.range (tcBlocks c)).map fun j => r * tcRb c + 8 * j + 7
  else []
/-- The granules a `tld` or `tst` touches, in ascending order (R184). -/
def tileGranules (c : Word) (off : Nat) : List Nat :=
  let n := (tcRows c - 1) * tcPitch c + tcRow c
  (granulesOf off n).filter fun g => (List.range (tcRows c)).any fun r =>
    let lo := off + r * tcPitch c
    decide (lo < 64 * g + 64 ∧ 64 * g < lo + tcRow c)

/-- The use of a tile movement instruction. -/
def tileUse (m : MemR) (size align : Nat) (write : Bool) (touch : Nat → List Nat) : LocalUse where
  ref s := s.refR m
  size := size
  r := !write
  w := write
  align := align
  write := write
  touch := touch

/-- A load-path instruction: the name must be mapped; `extra` traps before the checks of R127; then the granules are
queued one per cycle (R183, R184, R191). -/
def loadPathSpec (kind : LoadKind) (t : BitVec 3) (m : MemR) (u : LocalUse) (extra : State → Option TrapInfo) : WordSpec :=
  let spec := u.spec (scalarAcc [m.idx] []) fun a s =>
    let r := s.opId s.ctx.core
    let tile := s.view.tile t.toNat
    let o : LOp := ⟨r.2, kind, s.me, s.ctx.org, t.toNat, tile, offOf a, []⟩
    let gs := u.touch (offOf a)
    let s := r.1.modCore s.ctx.core fun k => { k with lops := k.lops ++ [o] }
    s.queueRun s.ctx.core (gs.zipIdx.map fun g =>
      ⟨s.me, s.ctx.org, 64 * g.1, (u.seg s).noundo, .loadPath r.2 0 (g.2 + 1 = gs.length)⟩)
  { spec with
    kind := needsAll
    trap3 := fun s => extra s <|> u.trap s
    park4 := fun s => u.park s <|>
      (let o : LOp := ⟨0, kind, s.me, s.ctx.org, t.toNat, s.view.tile t.toNat, 0, []⟩
       if s.curCore.tileBusy o.use then some Park.other else none) }

/-- An unmapped name (R171). -/
def unmapped (t : BitVec 3) (s : State) : Option TrapInfo := if s.view.mapped t.toNat then none else some ⟨1, 8, 0, 0⟩

/-- `tld` and `tst` (R183). -/
def tldSpec (kind : LoadKind) (write : Bool) (t : BitVec 3) (m : MemR) (c : Word) : WordSpec :=
  loadPathSpec kind t m (tileUse m ((tcRows c - 1) * tcPitch c + tcRow c) 16 write (tileGranules c))
    fun s => unmapped t s <|> (if tcPitch c < tcRow c then some ⟨2, 3, 0, 0⟩ else none)
/-- `tld` (R183). -/
def execTld (h : CHead) (t : BitVec 3) (m : MemR) (s : State) : Out :=
  runC h (tldSpec .tld false t m (vget 0 s.view.tcfg t.toNat)) s
/-- `tst` (R183). -/
def execTst (h : CHead) (t : BitVec 3) (m : MemR) (s : State) : Out :=
  runC h (tldSpec .tst true t m (vget 0 s.view.tcfg t.toNat)) s
/-- Bytes of a tile image (R191). -/
def imageLen : Nat := 6720
/-- `tsave` (R191). -/
def execTsave (h : CHead) (t : BitVec 3) (m : MemR) (s : State) : Out :=
  runC h (loadPathSpec .tsave t m (tileUse m imageLen 64 true fun off => granulesOf off imageLen) (unmapped t)) s
/-- `trest` (R191). -/
def execTrest (h : CHead) (t : BitVec 3) (m : MemR) (s : State) : Out :=
  runC h (loadPathSpec .trest t m (tileUse m imageLen 64 false fun off => granulesOf off imageLen) (unmapped t)) s

/-- A tile image (R191), with the operation in progress on the tile, if any (R192). -/
def tileImage (m : Memory) (phys : Nat) (cfg : Word) (op : Option MOp) : List Byte :=
  let pad (n : Nat) (bs : List Byte) : List Byte := bs.take n ++ List.replicate (n - bs.length) 0
  match op with
  | none => toLE 8 cfg.toNat ++ List.replicate 568 0 ++ tread m phys 0 6144
  | some o =>
    let r := if o.isMma then o.mmaOut m o.done else ([], List.replicate 64 0, 0)
    toLE 8 cfg.toNat ++ toLE 4 1 ++ toLE 4 o.word.toNat ++ toLE 4 o.done ++ toLE 1 o.topx.toNat ++
    toLE 1 (o.flags ||| r.2.2).toNat ++ List.replicate 42 0 ++ pad 128 o.scales.1 ++ pad 128 o.scales.2 ++
    r.2.1.flatMap (toLE 4) ++ tread (twrite m phys r.1) phys 0 6144

/-- Is an image bad (R191)? -/
def badImage (b : List Byte) : Bool :=
  (tcfgTrap (wd (leNat (b.take 8)))).isSome || leNat ((b.drop 8).take 4) > 1 || leNat ((b.drop 20).take 1) > 1 ||
  leNat ((b.drop 21).take 1) > 31 || leNat ((b.drop 22).take 42) != 0

/-- The operation in progress that an image holds, of the thread `t` of slot `sl` as its names stand (R192); none if it is
none, or if the word does not suit. -/
def imageOp (b : List Byte) (t : Thread) (id sl : Nat) (org : Origin) : Option MOp :=
  let w : BitVec 32 := BitVec.ofNat 32 (leNat ((b.drop 12).take 4))
  match decodeA w with
  | .error _ => none
  | .ok _ =>
    if w.toNat / 2 ^ 22 % 64 != 0x31 || (t.tileTrap (bits w.toNat 9 4) (w.setWidth 9) (wordNames w)).isSome then none
    else
      let m := t.newOp id sl t.tid org w none
      let n := leNat ((b.drop 16).take 4)
      some { m with
        done := Nat.min n m.steps, base := Nat.min n m.steps, started := true
        topx := leNat ((b.drop 20).take 1) == 1, flags := BitVec.ofNat 5 (leNat ((b.drop 21).take 1))
        rm := effRM (if m.fn == 5 then m.opt.toNat / 4 % 8 else 0) t.rm
        scales := (((b.drop 64).take 128), ((b.drop 192).take 128))
        accs := (List.range 64).map fun i => leNat ((b.drop (320 + 4 * i)).take 4) }

/-- A tile image is taken in: the tile, its configuration, and an operation in progress (R191, R192); false if bad. The
operation enters the queue even when all its entries are taken, as recorded words do (DESIGN CHOICE, log 84). -/
def State.takeImage (s : State) (w : SlotRef) (org : Origin) (name phys : Nat) (b : List Byte) : State × Bool :=
  let cfg := wd (leNat (b.take 8))
  if badImage b then (s, false)
  else
    let s' := (s.modCore w.core fun k => { k with tiles := twrite k.tiles phys [(0, b.drop 576)] }).modWho w fun t =>
      { t with tcfg := vset t.tcfg name cfg }
    if leNat ((b.drop 8).take 4) = 0 then (s', true)
    else
      let r := s'.opId w.core
      match (r.1.who w).bind fun t => imageOp b t r.2 w.slot org with
      | none => (s, false)
      | some m =>
        let s := (r.1.modCore w.core fun k => { k with mops := k.mops ++ [m] }).kickMatrix w.core
        (if m.done = m.steps then s.finishSoon w.core { m with lastAt := s.cycle, scaleAt := 0 } else s, true)

/-- Writes single bytes of one granule (R123, R141, R236). -/
def State.spadCells (s : State) (c g : Nat) (cells : List (Nat × Byte)) (noundo : Bool) : State :=
  if cells.isEmpty then s
  else
    let s := s.undoSpad c g (noundo && !(s.markAt c g).mark)
    let s := { s with spad := cells.foldl (fun (m : Memory) (x : Nat × Byte) => mset m (spadKey c x.1) x.2) s.spad }
    (s.disturb c g).fire c g

/-- One granule of the load path at its bank (R183, R184, R191). -/
def State.doLoadPath (s : State) (c : Nat) (a : LocalAcc) (op : Nat) (last : Bool) : State :=
  match (s.coreAt c).lops.find? (·.id == op) with
  | none => s
  | some o =>
    let g := a.off / 64
    let here := (tileCells o.tile.cfg o.off).filter fun x => x.1 / 64 == g
    let tiles := (s.coreAt c).tiles
    let s := match o.kind with
      | .tld =>
        let ws := here.map fun (x : Nat × Nat) => (x.2, s.spadRead c x.1 1)
        let pads := if last then (tilePads o.tile.cfg).map fun p => (p, [(0 : Byte)]) else []
        s.modCore c fun k => { k with tiles := twrite k.tiles o.tile.phys (ws ++ pads) }
      | .tst => s.spadCells c g (here.map fun (x : Nat × Nat) => (x.1, (tread tiles o.tile.phys x.2 1).getD 0 0)) a.noundo
      | .tsave =>
        let img := tileImage tiles o.tile.phys o.tile.cfg none
        s.spadWrite c a.off ((img.drop (a.off - o.off)).take 64) a.noundo
      | _ =>
        let bs := s.spadRead c a.off 64
        s.modCore c fun k =>
          { k with lops := k.lops.map fun x => if x.id == op then { x with buf := x.buf ++ bs } else x }
    if last then
      s.after (if o.kind == .tst || o.kind == .tsave then 0 else 2)
        (if o.kind == .payloadIn then .tilePayloadComplete else .loadPathFinish) { core := c, n := op }
    else s

/-- A load-path operation finishes, as the last cycle in which it is pending ends (R184, R191). -/
def execLoadPathFinish (s : State) : Out :=
  let c := s.subj.core
  match (s.coreAt c).lops.find? (·.id == s.subj.n) with
  | none => .next s
  | some o =>
    let s := s.modCore c fun k => { k with lops := k.lops.filter (·.id != o.id) }
    let s :=
      if o.kind == .trest then
        let r := (s.modCore c fun k => { k with matAt := Nat.max k.matAt (s.cycle + 1) }).takeImage o.who o.org o.name o.tile.phys o.buf
        if r.2 then r.1 else r.1.reportTrap o.who o.org ⟨2, 3, 0, 0⟩
      else s
    .next (s.tilesFreed c)

/-! Remote matrix commands (R189, R190). -/

/-- The entries of a slot are cleared (R189). -/
def State.clearCaps (s : State) (c sl : Nat) : State :=
  s.modCore c fun k => { k with caps := k.caps.map fun e => if e.slot == sl && e.away.isNone then { e with v := false } else e }

/-- The trap of installing descriptor `d` (R189). -/
def installTrap (s : State) (d : Word) : Option TrapInfo :=
  let e := vget noCap s.curCore.caps (wbits d 56 4)
  if wbits d 60 3 != 0 || wbits d 16 24 != 0 || wbits d 7 9 != 0 then some ⟨2, 1, 0, 0⟩
  else if e.v && e.slot != s.ctx.slot then some ⟨0x12, 6, 0, 0⟩
  else none
/-- Does a word make a remote command (R189)? -/
def commandWord (b : Word) : Bool :=
  wbits b 32 32 == 0 && wbits b 22 6 == 0x31 && wbits b 28 4 == 7 && (decodeA (b.setWidth 32)).toOption.isSome
/-- The trap of sending a command (R189); a legal address of another space than 1 is taken for one that names no core:
SegmentBound 2, as a nonzero offset is (DESIGN CHOICE, log 84). -/
def commandTrap (s : State) (a b c : Word) : Option TrapInfo :=
  match s.uncommitted with
  | some t => some t
  | none =>
    match s.r15 s.ctx.core a with
    | some t => some (trapAt t.1 t.2 a)
    | none =>
      if spaceOf a != 1 || offOf a != 0 then some (trapAt 5 2 a)
      else if !commandWord b then some ⟨2, 2, 0, 0⟩
      else if wbits c 36 28 != 0 then some ⟨2, 1, 0, 0⟩
      else none

/-- The message of `tcmd` goes to a core's node. -/
def homeCore : Home → Nat
  | .core k => k
  | _ => 0

/-- `tcmd` (R189). -/
def execTcmd (h : CHead) (a b c : BitVec 5) (s : State) : Out :=
  let va (s : State) := s.sval a
  let vb (s : State) := s.sval b [a]
  let vc (s : State) := s.sval c [a, b]
  runC h
    { acc := fun s => scalarAcc [a, b, c] (if va s = 0 then [] else [(a, none)])
      kind := needsAll
      trap3 := fun s => if va s = 0 then installTrap s (vb s) else commandTrap s (va s) (vb s) (vc s)
      effect := fun s =>
        let d := vb s
        if va s = 0 then
          let e : Cap := ⟨d.getLsbD 63, none, s.ctx.slot, wbits d 48 8, BitVec.ofNat 8 (wbits d 40 8),
            BitVec.ofNat 16 (wbits d 0 16), (vc s).setWidth 32, false⟩
          s.modCore s.ctx.core fun k => { k with caps := vset k.caps (wbits d 56 4) e }
        else
          let home := s.homeOf s.ctx.core (va s)
          let r := s.track a
          r.1.send s.ctx.core (homeNode s.ctx.core home)
            (.remoteCommandArrival ⟨s.me, s.ctx.org, r.2, homeCore home, va s, d.setWidth 32, wbits (vc s) 32 4,
              (vc s).setWidth 32, s.view.pdid, s.view.topx⟩) } s

/-- Why the target refuses a command, in the order of R190; an entry that has moved to another core finds no granting
thread (R369). -/
def Core.refuses (k : Core) (r : RCmd) : Option Nat :=
  let e := vget noCap k.caps r.idx
  let fn := bits r.word.toNat 9 4
  let names := wordNames r.word
  if !e.v && !e.left then some 1
  else if e.key != r.key then some 2
  else if e.frompd != r.pdid then some 3
  else if !e.fmask.getLsbD fn || (names.1 :: names.2).any fun n => !e.tmask.getLsbD n then some 4
  else
    match if e.left then none else tget k.threads e.slot with
    | none => some 5
    | some t => (t.tileTrap fn (r.word.setWidth 9) names).map fun _ => 7

/-- A command is checked at the target and queued, refused, or diverted while the granting thread is saved out (R190,
R192). -/
def execRemoteCommandArrival (r : RCmd) (s : State) : Out :=
  let c := r.target
  let k := s.coreAt c
  let e := vget noCap k.caps r.idx
  if e.v && e.away.isSome then
    .next (s.divert c ⟨.remoteCommandArrival r, {}⟩)
  else
    match k.refuses r with
    | some n => .next (s.answerRemote c r (.refused n))
    | none =>
      let t := (tget k.threads e.slot).getD Thread.reset
      let x := s.opId c
      let m := t.newOp x.2 e.slot t.tid r.org r.word (some r)
      .next ((x.1.modCore c fun k => { k with rcmdWait := k.rcmdWait ++ [m] }).drainRemote c 16)

/-- The sender learns the outcome (R190). -/
def execRemoteCommandReply (r : RCmd) (res : RRes) (s : State) : Out :=
  match res with
  | .done f => .next (s.writeFull r.who r.dst f.toNat)
  | .refused n => .next ((s.writeFull r.who r.dst allOnes.toNat).reportTrap r.who r.org (trapAt 0x12 n r.addr))

end Sys2Proof.Machine
end

