-- ==== Sys2Proof/Machine/Lace.lean ====
section
/-! DEFINITION. Laces (R196–R203): the image and its checks, the input bound and the ring, the canonical form, and the
digest, with the SHAKE256 that R203 and R392 name. -/

namespace Sys2Proof.Machine

/-! SHAKE256: a sponge of rate 136 bytes over a 5 × 5 grid of lanes, kept row by row. -/

/-- The lane in a column and row, both modulo 5. -/
def laneXY (g : List Word) (x y : Nat) : Word := g.getD (x % 5 + 5 * (y % 5)) 0
/-- A grid from what each place holds. -/
def gridOf (f : Nat → Nat → Word) : List Word := (List.range 25).map fun i => f (i % 5) (i / 5)
/-- The degree-8 shift register that makes the round constants, after `n` steps. -/
def rcShift : Nat → Nat
  | 0 => 1
  | n + 1 => let r := 2 * rcShift n; if r < 256 then r else (r - 256) ^^^ 0x71
/-- The constant of a round: its bits at 0, 1, 3, 7, 15, 31 and 63 are the next seven of the shift register. -/
def roundWord (round : Nat) : Word :=
  (List.range 7).foldl (fun w j => if rcShift (7 * round + j) % 2 = 1 then setBit w (2 ^ j - 1) true else w) 0
/-- The rotation of a lane: the walk from (1, 0) by (x, y) ↦ (y, 2x + 3y) turns each lane by one more than the one before. -/
def turnOf (x y : Nat) : Nat → Nat → Nat → Nat → Nat
  | 0, _, _, _ => 0
  | n + 1, u, v, sum =>
    let sum := sum + (24 - n)
    if u = x && v = y then sum % 64 else turnOf x y n v ((2 * u + 3 * v) % 5) sum
/-- Column parities enter the neighbouring columns. -/
def mixColumns (g : List Word) : List Word :=
  let par := (List.range 5).map fun x => (List.range 5).foldl (fun w y => w ^^^ laneXY g x y) 0
  gridOf fun x y => laneXY g x y ^^^ laneXY par (x + 4) 0 ^^^ (laneXY par (x + 1) 0).rotateLeft 1
/-- Lanes are turned and moved: the lane that lands at (x, y) comes from (x + 3y, x). -/
def moveLanes (g : List Word) : List Word :=
  gridOf fun x y =>
    let u := (x + 3 * y) % 5
    (laneXY g u x).rotateLeft (turnOf u x 24 1 0 0)
/-- One round: the two linear parts, the rows' nonlinear part, the round's constant. -/
def spongeRound (g : List Word) (round : Nat) : List Word :=
  let m := moveLanes (mixColumns g)
  gridOf fun x y =>
    laneXY m x y ^^^ (laneXY m (x + 2) y &&& ~~~laneXY m (x + 1) y) ^^^ (if x + y = 0 then roundWord round else 0)
/-- The 24 rounds. -/
def spongeMix (g : List Word) : List Word := (List.range 24).foldl spongeRound g
/-- Takes in `n` blocks of a message. -/
def spongeIn : Nat → List Byte → List Word → List Word
  | 0, _, g => g
  | n + 1, msg, g =>
    let block := words8 17 msg
    spongeIn n (msg.drop 136) (spongeMix (gridOf fun x y => laneXY g x y ^^^ wd (block.getD (x + 5 * y) 0)))
/-- Gives out `n` blocks. -/
def spongeOut : Nat → List Word → List Byte
  | 0, _ => []
  | n + 1, g => (List.range 17).flatMap (fun i => toLE 8 (g.getD i 0).toNat) ++ spongeOut n (spongeMix g)
/-- The first `n` bytes of SHAKE256 of a message: the suffix 1111 and the padding fill the last block. -/
def shake256 (msg : List Byte) (n : Nat) : List Byte :=
  let blocks := msg.length / 136 + 1
  let padded := (List.range (136 * blocks)).map fun i =>
    (if i < msg.length then msg.getD i 0 else if i = msg.length then 0x1F else 0) ||| (if i + 1 = 136 * blocks then (0x80 : Byte) else 0)
  (spongeOut (n / 136 + 1) (spongeIn blocks padded (List.replicate 25 0))).take n

/-! Images (R196–R199). -/

/-- Little-endian field of an image. -/
def imgN (b : List Byte) (off n : Nat) : Nat := leNat ((b.drop off).take n)
/-- NSTATES. -/
def laceStates (b : List Byte) : Nat := imgN b 0 2
/-- INIT. -/
def laceInit (b : List Byte) : Nat := imgN b 2 1
/-- Transitions of a state. -/
def laceCnt (b : List Byte) (st : Nat) : Nat := bits (imgN b 4 8) (2 * st) 2 + 1
/-- Transition word `t` of a state. -/
def laceTr (b : List Byte) (st t : Nat) : Nat := imgN b (128 + 16 * st + 4 * t) 4
/-- The transition words of a state. -/
def laceTrs (b : List Byte) (st : Nat) : List Nat := (List.range (laceCnt b st)).map (laceTr b st)
/-- KIND of a transition. -/
def trKind (w : Nat) : Nat := bits w 29 3
/-- TYPE. -/
def trType (w : Nat) : Nat := bits w 21 8
/-- SHAPE. -/
def trShape (w : Nat) : Nat := bits w 18 3
/-- LABEL. -/
def trLabel (w : Nat) : Nat := bits w 16 2
/-- NEXT. -/
def trNext (w : Nat) : Nat := bits w 11 5
/-- Shape entry `i`. -/
def laceShape (b : List Byte) (i : Nat) : Word := wd (imgN b (64 + 8 * i) 8)
/-- CLASS of a shape entry. -/
def shapeClass (e : Word) : Nat := wbits e 62 2
/-- The tile configuration of a shape entry. -/
def shapeCfg (e : Word) : Word := wd (wbits e 0 32)
/-- Payload bytes of a shape (R198). -/
def shapeBytes (e : Word) : Nat :=
  match shapeClass e with
  | 1 => 8
  | 2 => 64
  | 3 =>
    let c := shapeCfg e
    tcRows c * tcRb c + (if tcBX c then 2 * (tcRows c * tcBlocks c) else 0)
  | _ => 0
/-- Payload bytes of a transition's message (R198): a delegation record is 64 bytes. -/
def trBytes (b : List Byte) (w : Nat) : Nat :=
  if trKind w ≤ 1 then shapeBytes (laceShape b (trShape w)) else if trKind w = 4 || trKind w = 5 then 64 else 0
/-- Is the kind an input kind (R197)? -/
def inputKind (k : Nat) : Bool := k == 1 || k == 3 || k == 5
/-- KIND of a state: that of its first transition. -/
def stKind (b : List Byte) (st : Nat) : Nat := trKind (laceTr b st 0)

/-- Is a shape entry well formed (R198, R199)? -/
def shapeOk (e : Word) : Bool :=
  wbits e 32 30 == 0 && (if shapeClass e = 3 then (tcfgTrap (shapeCfg e)).isNone else wbits e 0 32 == 0)
/-- Is a transition word right for its state (R199)? -/
def trOk (b : List Byte) (k w : Nat) : Bool :=
  trKind w == k && bits w 0 11 == 0 && trNext w < laceStates b &&
  (if k ≤ 1 then shapeClass (laceShape b (trShape w)) != 0 else trShape w == 0) &&
  (if k = 2 || k = 3 || k ≥ 6 then trType w == 0 else true) &&
  (if k = 2 || k = 3 then true else trLabel w == 0) && (if k ≥ 6 then trNext w == 0 else true)
/-- Is a state right (R196, R199)? -/
def stOk (b : List Byte) (st : Nat) : Bool :=
  if st < laceStates b then
    let k := stKind b st
    let ts := laceTrs b st
    (k == 2 || k == 3 || ts.length == 1) && ts.all (trOk b k) &&
    ((k != 2 && k != 3) || (ts.map trLabel).Nodup) &&
    ((List.range 4).drop ts.length).all fun t => laceTr b st t == 0
  else (List.range 4).all fun t => laceTr b st t == 0
/-- GROUP. -/
def laceGroup (b : List Byte) : Bool := imgN b 3 1 == 1
/-- Does the image obey R196 and R199, the ring apart? -/
def laceOk (b : List Byte) : Bool :=
  1 ≤ laceStates b && laceStates b ≤ 32 && laceInit b < laceStates b && imgN b 3 1 ≤ 1 && imgN b 12 1 ≤ 64 &&
  imgN b 13 3 == 0 && imgN b 16 4 % 64 == 0 && imgN b 20 44 == 0 &&
  (List.range 8).all (fun i => shapeOk (laceShape b i)) && (List.range 32).all (stOk b) &&
  (!laceGroup b || (List.range (laceStates b)).all fun st => let k := stKind b st; k == 0 || k == 2 || k ≥ 6)

/-! Reachable states, the input bound, the ring (R200, R203). -/

/-- Insertion of a transition by label. -/
def byLabel (w : Nat) : List Nat → List Nat
  | [] => [w]
  | x :: r => if trLabel w < trLabel x then w :: x :: r else x :: byLabel w r
/-- A state's transitions in ascending label. -/
def trsSorted (b : List Byte) (st : Nat) : List Nat := (laceTrs b st).foldl (fun l w => byLabel w l) []
/-- The states a state leads to. -/
def nexts (b : List Byte) (st : Nat) : List Nat := if stKind b st ≥ 6 then [] else (trsSorted b st).map trNext
/-- Breadth-first numbering (R203): `i` states of `seen` have been expanded. -/
def bfs (b : List Byte) : Nat → Nat → List Nat → List Nat
  | 0, _, seen => seen
  | n + 1, i, seen =>
    match seen[i]? with
    | none => seen
    | some st => bfs b n (i + 1) ((nexts b st).foldl (fun l x => if l.contains x then l else l ++ [x]) seen)
/-- The states reachable from INIT, in canonical order. -/
def laceOrder (b : List Byte) : List Nat := bfs b 33 0 [laceInit b]
/-- For every state, the input transitions on the longest path of at most `n` from it without an output transition. -/
def inputDepths (b : List Byte) : Nat → List Nat
  | 0 => List.replicate (laceStates b) 0
  | n + 1 =>
    let d := inputDepths b n
    (List.range (laceStates b)).map fun st =>
      if inputKind (stKind b st) then 1 + ((nexts b st).map fun x => d.getD x 0).foldl Nat.max 0 else 0
/-- INB (R200): none when unbounded, that is when a path repeats a state. -/
def laceInb (b : List Byte) : Option Nat :=
  let n := laceStates b
  let ds := inputDepths b n
  let d := ((laceOrder b).map fun st => ds.getD st 0).foldl Nat.max 0
  if d ≥ n then none else some d
/-- Ring slots (R200). -/
def laceRing (b : List Byte) : Nat :=
  let m := if imgN b 12 1 = 0 then 8 else imgN b 12 1
  match laceInb b with
  | none => m
  | some i => Nat.min i m
/-- Slot bytes (R200): the largest input payload of the lace, its unreachable states apart (R199). -/
def laceSlot (b : List Byte) : Nat :=
  let big := ((laceOrder b).flatMap (laceTrs b)).foldl
    (fun n w => if inputKind (trKind w) then Nat.max n (trBytes b w) else n) 0
  Nat.max 64 ((big + 63) / 64 * 64)
/-- RINGOFF (R196). -/
def laceRingOff (b : List Byte) : Nat := if imgN b 16 4 = 0 then 640 else imgN b 16 4

/-- A kind exchanged with its dual (R203). -/
def dualKind (k : Nat) : Nat :=
  match k with
  | 0 => 1
  | 1 => 0
  | 2 => 3
  | 3 => 2
  | 4 => 5
  | 5 => 4
  | k => k
/-- The canonical form, of the lace or of its dual (R203). -/
def canonical (b : List Byte) (dual : Bool) : List Byte :=
  let order := laceOrder b
  let num (st : Nat) : Nat := order.findIdx (· == st)
  toLE 2 order.length ++ List.replicate 6 0 ++ order.flatMap fun st =>
    (trsSorted b st).flatMap fun w =>
      let k := trKind w
      toLE 1 (num st) ++ toLE 1 (if dual then dualKind k else k) ++ toLE 1 (trType w) ++ toLE 1 (trLabel w) ++
      toLE 1 (if k ≥ 6 then 0 else num (trNext w)) ++ List.replicate 3 0 ++
      toLE 8 (if k ≤ 1 then (laceShape b (trShape w)).toNat else 0)
/-- A digest (R203). -/
def digest (form : List Byte) : Word := wd (leNat (shake256 form 8))

/-- The lace of an image at a scratchpad offset (R204); none if R199 refuses it or its ring passes `segEnd`. -/
def laceOf (b : List Byte) (off segEnd : Nat) : Option Lace :=
  if !laceOk b then none
  else
    let form := canonical b false
    let ring := laceRing b
    let len := laceSlot b
    let at_ := off + laceRingOff b
    if ring != 0 && at_ + ring * len > segEnd then none
    else some ⟨b, digest form, digest (canonical b true), form, ring, len, at_, laceGroup b⟩

end Sys2Proof.Machine
end

