-- ==== Sys2Proof/Machine/Channel.lean ====
section
/-! DEFINITION. Channel instructions and what their messages do at an eyelet (R194–R221, R225–R228). -/

namespace Sys2Proof.Machine

/-! Eyelets and where their messages go (R194, R205, R206). -/

/-- An eyelet of a core. -/
def Core.ey (k : Core) (e : Nat) : Eyelet := vget Eyelet.reset k.eyelets e
/-- An eyelet. -/
def State.eyAt (s : State) (c e : Nat) : Eyelet := (s.coreAt c).ey e
/-- Applies a function to an eyelet. -/
def State.modEy (s : State) (c e : Nat) (f : Eyelet → Eyelet) : State :=
  s.modCore c fun k => { k with eyelets := vset k.eyelets e (f (k.ey e)) }
/-- An eyelet's own location. -/
def State.ownLoc (s : State) (c e : Nat) : EyLoc := ⟨s.devIdx, c, e, false⟩
/-- The node of a location. -/
def State.locNode (s : State) (l : EyLoc) : Nat :=
  if l.dev != s.devIdx then devNode l.dev else if l.port then portNode ((corePort l.core).getD 0) else l.core
/-- A location as an identity word (R206). -/
def locWord (l : EyLoc) (pd : Nat) : Word :=
  wd (l.dev * 2 ^ 48 + pd * 2 ^ 40 + l.core * 2 ^ 16 + (if l.port then 16 else 0) + l.ey)
/-- The location and PDID an identity word names. -/
def wordLoc (w : Word) : EyLoc × Nat := (⟨wbits w 48 14, wbits w 16 12, wbits w 0 4, w.getLsbD 4⟩, wbits w 40 8)

/-- Sends a channel event to a peer, or holds it while the peer's entry is in transit (R221). -/
def State.toMember (s : State) (c e : Nat) (m : Member) (i : Instr) : State :=
  if m.transit then
    s.modEy c e fun y =>
      { y with members := y.members.map fun x => if x.loc == m.loc then { x with heldOut := x.heldOut ++ [⟨i, {}⟩] } else x }
  else s.send c (s.locNode m.loc) i
/-- ALLOW: the least allowance over the peers (R228). -/
def Eyelet.allow (y : Eyelet) : Nat :=
  match y.members with
  | [] => 0
  | m :: r => r.foldl (fun a x => Nat.min a x.allow) m.allow
/-- Sends a message to every peer and takes a unit of allowance of each (R201, R228). -/
def State.chanSend (s : State) (c e : Nat) (m : ChMsg) : State :=
  let own := s.ownLoc c e
  let s := (s.eyAt c e).members.foldl (fun s p => s.toMember c e p (.channelMessageArrival own p.loc p.connid m)) s
  s.modEy c e fun y => { y with sent := true, members := y.members.map fun p => { p with allow := p.allow - 1 } }
/-- Returns one unit of allowance to the peer (R201). -/
def State.returnAllow (s : State) (c e : Nat) : State :=
  (s.eyAt c e).members.foldl (fun s p => s.toMember c e p (.allowanceReturn (s.ownLoc c e) p.loc p.connid)) s
/-- The thread that holds an eyelet, as the source of what is sent through it (R18). -/
def State.holderTid (s : State) (c e : Nat) : Nat := ((s.threadAt c (s.eyAt c e).owner).map (·.tid)).getD 0
/-- Sends a close notice to every peer (R215). -/
def State.notify (s : State) (c e reason : Nat) : State :=
  let y := s.eyAt c e
  y.members.foldl (fun s p =>
    s.toMember c e p (.closeNoticeArrival p.loc ⟨s.ownLoc c e, p.connid, p.own, reason, y.state, false, 0, s.holderTid c e⟩)) s

/-- The eyelet leaves its connection: UNBOUND, laced (R195). -/
def Eyelet.unbind (y : Eyelet) : Eyelet :=
  { y with
    life := .unbound, members := [], ring := [], head := 0, reason := 0, psu := false, pstate := 0, pdetail := 0
    sent := false, deleg := none, slots := 0, target := none }
/-- The number by which the link tables name the channel of an eyelet. -/
def linkOwner (c e : Nat) : Nat := c * 16 + e
/-- Releases a channel's link reservations (R227). -/
def State.freeLinks (s : State) (c e : Nat) : State :=
  { s with linkSlots := s.linkSlots.filter fun x => x.2 != linkOwner c e }
/-- The peers of an eyelet, with those of ended connections that are in transit (R221). -/
def State.peersOf (s : State) (c e : Nat) : List Member :=
  (s.eyAt c e).members ++ ((s.coreAt c).leaving.filter (·.1 == e)).map (·.2)
/-- The peer's own view of a connection in transit: its CONNID and the old holder's location, by the eyelet's CONNID. -/
def State.transitPeer (s : State) (l : EyLoc) (connid : Nat) : Nat × EyLoc :=
  let ms := if l.port then (vget PEnd.reset (s.portAt ((corePort l.core).getD 0)).ends l.ey).peer.toList else s.peersOf l.core l.ey
  ((ms.find? fun m => m.transit && m.connid == connid).map fun m => (m.own, m.loc)).getD (0, ⟨0, 0, 0, false⟩)

/-- A delegation record that will not be received: the interface closes the delegated channel on the holder's behalf
(R221). -/
def State.orphan (s : State) (c : Nat) (m : ChMsg) : State :=
  if m.kind == .record then
    let pl := wordLoc (wd (imgN m.payload 8 8))
    let at_ := s.transitPeer pl.1 (imgN m.payload 16 2)
    s.send c (s.locNode pl.1) (.closeNoticeArrival pl.1 ⟨at_.2, at_.1, imgN m.payload 16 2, 2, imgN m.payload 18 1, false, 0, m.tid⟩)
  else s
/-- The peers in transit stay, with the traffic held for them, until they are located anew (R221). -/
def State.keepTransit (s : State) (c e : Nat) : State :=
  match (s.eyAt c e).members.filter (·.transit) with
  | [] => s
  | ms => s.modCore c fun k => { k with leaving := k.leaving ++ ms.map fun m => (e, m) }
/-- An eyelet becomes UNBOUND and laced. -/
def State.unbindEy (s : State) (c e : Nat) : State :=
  (((((s.eyAt c e).ring.foldl (fun s m => s.orphan c m) s).keepTransit c e).freeLinks c e)).modEy c e Eyelet.unbind
/-- Answers a connection request (R205). -/
def State.answerConn (s : State) (src : Nat) (r : ConnReq) (o : ConnOut) : State :=
  s.send src (s.locNode r.src) (.connectOutcome r o)
/-- Refuses a held request (R207). -/
def State.refuseHeld (s : State) (c e : Nat) : State :=
  match (s.eyAt c e).held with
  | none => s
  | some r => (s.modEy c e fun y => { y with held := none }).answerConn c r .refused
/-- The eyelet becomes UNBOUND, unlaced and unowned; a held request is refused, and STATE stays (R195, R207, R208). -/
def State.unlaceEy (s : State) (c e : Nat) : State :=
  ((s.refuseHeld c e).unbindEy c e).modEy c e fun y =>
    { Eyelet.reset with connid := y.connid, state := y.state, loading := y.loading, pend := y.pend }
/-- The thread held by this eyelet's closing or delegation goes on (R214, R219). -/
def State.releaseHold (s : State) (c e : Nat) : State :=
  s.modCore c fun k => { k with
    threads := k.threads.map fun x =>
      (x.1, match x.2.hold with
        | some (.closing y) => if y = e then { x.2 with hold := none } else x.2
        | some (.deleg y _) => if y = e then { x.2 with hold := none } else x.2
        | _ => x.2) }
/-- A protocol fault of a checked operation: FAULTED, and a notice with reason 6 (R209); the closure releases the
reservations (R227). -/
def State.faultEy (s : State) (c e : Nat) : State :=
  ((s.notify c e 6).freeLinks c e).modEy c e fun y => { y with life := .faulted, slots := 0 }

/-- Withdraws a connection request that is still held at its target (R216). -/
def State.withdraw (s : State) (c e : Nat) : State :=
  let me := s.ownLoc c e
  { s with cores := s.cores.map fun x =>
      (x.1, { x.2 with eyelets := x.2.eyelets.map fun y => if y.held.any (·.src == me) then { y with held := none } else y }) }
/-- A holder ends: its eyelets close (R216). -/
def State.closeEyelets (s : State) (c sl : Nat) : State :=
  (List.range 16).foldl (fun s e =>
    let y := s.eyAt c e
    if y.lace.isNone || y.owner != sl then s
    else
      let s := if y.life == .opened || y.life == .closing || y.life == .connecting then s.notify c e 2 else s
      let s := if y.life == .connecting then s.withdraw c e else s
      s.unlaceEy c e) s

/-- The peer that a park on an eyelet names: the first one it has, or the one it asks (R229). -/
def Eyelet.peerLoc (y : Eyelet) : Option EyLoc := if y.life == .connecting then y.target else y.members.head?.map (·.loc)
/-- The park of an operation on an eyelet (R229, R244). -/
def State.eyPark (s : State) (kind e : Nat) : Park :=
  match (s.curCore.ey e).peerLoc with
  | none => { kind := kind, obj := e }
  | some l => { kind := kind, obj := e, pdev := l.dev, pcore := l.core, pslot := l.ey }

/-! The checks of R209. -/

/-- A channel operation: its eyelet, the C major and FN that DETAIL names, and the KIND it needs. -/
structure ChanOp where
  ey : Nat
  maj : Nat
  fn : Nat
  kind : Nat
  deriving DecidableEq, Repr

/-- What the checks find: a trap, a protocol fault that also faults the eyelet, a closed channel, an eyelet that is still
loading or connecting, or the transition. -/
inductive Chan where
  | trap (t : TrapInfo)
  | soft (t : TrapInfo)
  | closed (t : TrapInfo)
  | wait
  | ok (w : Nat)
  deriving DecidableEq, Repr

/-- DETAIL of R209. -/
def State.eyDetail (s : State) (maj fn e : Nat) : Word :=
  wd (maj * 2 ^ 24 + fn * 2 ^ 21 + (s.curCore.ey e).state * 2 ^ 16 + e)
/-- A protocol fault at issue. -/
def State.eyFault (s : State) (maj fn e sub : Nat) : TrapInfo := ⟨0x0B, sub, 0, s.eyDetail maj fn e⟩
/-- The ownership rules of R194. -/
def State.eyOwn (s : State) (maj fn e : Nat) : Option TrapInfo :=
  let y := s.curCore.ey e
  if y.lace.isSome && y.owner != s.ctx.slot then some (s.eyFault maj fn e 10)
  else if y.lace.isNone && !y.loading then some (s.eyFault maj fn e 5)
  else none
/-- Is the eyelet loading or connecting, so that what names it parks (R204, R205)? -/
def Eyelet.busy (y : Eyelet) : Bool := y.loading || y.life == .connecting

/-- Steps 1–6 of R209: `pick` finds the transition whose type or label suits, `bad` is a payload that does not. -/
def State.chanCheck (s : State) (o : ChanOp) (pick : List Nat → Option Nat) (bad : Word → Bool) : Chan :=
  let y := s.curCore.ey o.ey
  match s.eyOwn o.maj o.fn o.ey with
  | some t => .trap t
  | none =>
    if y.busy then .wait
    else if y.life == .closed && (!inputKind o.kind || y.ring.isEmpty) then
      .closed ⟨0x0D, y.reason, 0, s.eyDetail o.maj o.fn o.ey ||| y.pdetail⟩
    else if y.life != .opened && y.life != .closed then .trap (s.eyFault o.maj o.fn o.ey 5)
    else
      let img := (y.lace.map (·.image)).getD []
      if stKind img y.state != o.kind then .soft (s.eyFault o.maj o.fn o.ey 2)
      else match pick (laceTrs img y.state) with
        | none => .soft (s.eyFault o.maj o.fn o.ey 3)
        | some w => if bad (laceShape img (trShape w)) then .soft (s.eyFault o.maj o.fn o.ey 4) else .ok w

/-- STATE moves on; an end state ends the channel (R210). -/
def State.chanNext (s : State) (c e w : Nat) : State :=
  let y := s.eyAt c e
  let img := (y.lace.map (·.image)).getD []
  let s := s.modEy c e fun y => { y with state := trNext w }
  if stKind img (trNext w) = 7 then s.unbindEy c e else s
/-- Takes the message at the head of the ring out of it. -/
def Eyelet.popRing (y : Eyelet) : Eyelet :=
  { y with ring := y.ring.drop 1, head := (y.head + 1) % Nat.max 1 ((y.lace.map (·.ring)).getD 1) }

/-- A checked operation (R209): the traps before the checks, the checks, the traps and parks after them, and the effect
with the transition. `st` is PS when ST = 1. -/
structure ChanWord where
  ey : State → Nat
  chk : State → Chan
  pre : State → Option TrapInfo := fun _ => none
  post : State → Option TrapInfo := fun _ => none
  parks : State → Option Park := fun _ => none
  st : Option (BitVec 3) := none
  act : Nat → State → State := fun _ s => s

/-- The word of a checked operation. -/
def ChanWord.spec (o : ChanWord) (acc : State → Access) : WordSpec where
  acc s := let a := acc s; { a with writes := a.writes ++ o.st.toList.map fun p => (.preg p.toNat, some 1) }
  kind := needsAll
  trap3 s := s.uncommitted <|> o.pre s <|> (match o.chk s with
    | .trap t => some t
    | .soft t => some t
    | .closed t => if o.st.isSome then none else some t
    | .wait => none
    | .ok _ => o.post s)
  onTrap s :=
    if (s.uncommitted <|> o.pre s).isSome then s
    else match o.chk s with
      | .soft _ => s.faultEy s.ctx.core (o.ey s)
      | _ => s
  park4 s := match o.chk s with
    | .wait => some (s.eyPark 5 (o.ey s))
    | .ok _ => o.parks s
    | _ => none
  effect s := match o.chk s with
    | .ok w =>
      let s := o.act w s
      match o.st with
      | some p => s.resultP p 1 true
      | none => s
    | _ =>
      match o.st with
      | some p => s.resultP p 1 false
      | none => s
  takes s := match o.chk s with
    | .ok _ => true
    | _ => false

/-! esend and erecv (R210). -/

/-- Is every earlier access of the thread acknowledged, stream pushes on their way to the local queue among them (R274,
R278, R280)? -/
def Thread.acked (t : Thread) : Bool := !t.localBusy && t.outst.toList.all (· == 0)
/-- The transition of a send or receive, its type checked against a literal. -/
def pickType (lit : Option (BitVec 8)) (ts : List Nat) : Option Nat :=
  (ts.head?).filter fun w => match lit with | none => true | some l => trType w == l.toNat
/-- Does the payload operand not suit the shape (step 6 of R209)? -/
def payloadBad (m : CE) (t : Thread) (e : Word) : Bool :=
  shapeClass e != m.pk.toNat + 1 || (m.pk == 2 && wbits (t.tile (m.reg.toNat % 8)).cfg 0 32 != wbits e 0 32)
/-- A vector payload operand: one register, which a stream may be bound to in its own direction (R154). -/
def payloadUse (m : CE) (write : Bool) : VecUse where
  payload := true
  srcs := if write then [] else [(m.reg.toNat, 1)]
  dst := if write then some (m.reg.toNat, 1) else none
  units := 0
/-- Traps of the payload operand itself: an unmapped tile name (R171), a stream named against R153 and R154. -/
def payloadTrap (m : CE) (write : Bool) (s : State) : Option TrapInfo :=
  if m.pk == 2 then unmapped (m.reg.setWidth 3) s else if m.pk == 1 then (payloadUse m write).trap s else none
/-- Payload bytes of a tile (R198): rows, then the scale bytes of a block format. -/
def tilePayload (m : Memory) (t : TileRef) : List Byte :=
  let n := tcRows t.cfg * tcRb t.cfg
  tread m t.phys 0 n ++ (if tcBX t.cfg then tread m t.phys 4096 (2 * (tcRows t.cfg * tcBlocks t.cfg)) else [])
/-- Writes a tile payload into a tile. -/
def putPayload (m : Memory) (t : TileRef) (b : List Byte) : Memory :=
  let n := tcRows t.cfg * tcRb t.cfg
  twrite m t.phys ([(0, b.take n)] ++
    (if tcBX t.cfg then [(4096, (b.drop n).take (2 * (tcRows t.cfg * tcBlocks t.cfg)))] else []))
/-- The PS of a word with ST = 1. -/
def psOf (m : CE) : Option (BitVec 3) := if m.st then some m.ps else none
/-- The park of a tile operand that is busy (R179), or of a stream that is empty or full (R153). -/
def payloadBusy (m : CE) (kind : LoadKind) (s : State) : Option Park :=
  let o : LOp := ⟨0, kind, s.me, s.ctx.org, 0, s.view.tile (m.reg.toNat % 8), 0, []⟩
  if m.pk == 2 && s.curCore.tileBusy o.use || m.pk == 1 && ((payloadUse m (kind == .payloadIn)).park s).isSome then
    some (s.eyPark 5 m.ey.toNat)
  else none

/-- The payload read at issue (R210). -/
def State.payload (s : State) (m : CE) : List Byte :=
  if m.pk == 0 then toLE 8 (s.sval m.reg).toNat
  else if m.pk == 1 then toLE 64 (s.vsrc (payloadUse m false).srcs 0 (s.before m.reg.toNat true))
  else tilePayload s.curCore.tiles (s.view.tile (m.reg.toNat % 8))
/-- A tile source is a reader until its last granule has left (R210); a read stream pops (R153). -/
def State.payloadOut (s : State) (m : CE) : State :=
  if m.pk == 1 then (payloadUse m false).take s
  else if m.pk == 2 then
    let r := s.opId s.ctx.core
    let t := s.view.tile (m.reg.toNat % 8)
    let o : LOp := ⟨r.2, .payloadOut, s.me, s.ctx.org, m.ey.toNat, t, 0, []⟩
    let g := ((tilePayload s.curCore.tiles t).length + 63) / 64
    (r.1.modCore s.ctx.core fun k => { k with lops := k.lops ++ [o] }).after g .tilePayloadComplete
      { core := s.ctx.core, n := r.2 }
  else s
/-- The send itself: message, allowance, STATE (R210). -/
def State.sendStep (s : State) (e w : Nat) (payload : List Byte) : State :=
  (s.chanSend s.ctx.core e ⟨.data, trType w, s.view.topx, payload, s.view.tid⟩).chanNext s.ctx.core e w

/-- Access of the payload operand: a bound stream register is neither read nor written (R152). -/
def payloadAcc (m : CE) (write : Bool) (s : State) : Access :=
  if m.pk == 0 then (if write then scalarAcc [] [(m.reg, none)] else scalarAcc [m.reg] [])
  else if m.pk == 1 then
    if (s.boundReg m.reg.toNat).isSome then Access.none
    else (if write then scalarAcc [] [] [] [(.vreg m.reg.toNat, none)] else scalarAcc [] [] [.vreg m.reg.toNat])
  else Access.none

/-- `esend` (R210). -/
def execEsend (h : CHead) (m : CE) (s : State) : Out :=
  let e := m.ey.toNat
  let o : ChanWord :=
    { ey := fun _ => e
      chk := fun s => s.chanCheck ⟨e, 0x12, 0, 0⟩ (pickType m.lit) (payloadBad m s.view)
      pre := payloadTrap m false
      parks := fun s =>
        if (s.curCore.ey e).allow = 0 then some (s.eyPark 4 e)
        else if m.ord && !s.view.acked then some (s.eyPark 5 e)
        else payloadBusy m .payloadOut s
      st := psOf m
      act := fun w s => (s.payloadOut m).sendStep e w (s.payload m) }
  runC h (o.spec (payloadAcc m false)) s

/-- The scratchpad offset of the ring slot at the head. -/
def Eyelet.headAt (y : Eyelet) : Nat := (y.lace.map fun l => l.ringAt + y.head * l.slotLen).getD 0
/-- The TOPX check of R62 on the message at the head. -/
def topxCheck (e : Nat) (s : State) : Option TrapInfo :=
  match (s.curCore.ey e).ring with
  | [] => none
  | m :: _ => if m.topx == s.view.topx then none else some ⟨0x0C, 1, 0, wd (e + (if m.topx then 16 else 0))⟩
/-- Holds the next bundle, parked as `p`, until a destination is written (R94, R210, R243). -/
def State.holdFull (s : State) (d : RegDst) (op : Option Nat) (p : Park) : State :=
  let h := match d with
    | .sreg r => Hold.full (setBit 0 r true) 0 none none
    | .vreg r => Hold.full 0 (setBit 0 r true) none none
    | .queue q e => Hold.full 0 0 none (some (q, e))
    | _ => Hold.full 0 0 op none
  (s.modCur fun t => { t with hold := some h }).parkCur p
/-- The receive itself (R210); what `erecv.acq` holds is a park of its eyelet (R229). -/
def State.recvStep (s : State) (m : CE) (w : Nat) : State :=
  let c := s.ctx.core
  let e := m.ey.toNat
  let y := s.curCore.ey e
  let off := y.headAt
  let s' := (s.modEy c e Eyelet.popRing).returnAllow c e
  let push := if m.pk == 1 then s.boundReg m.reg.toNat else none
  let r : State × RegDst × Option Nat :=
    if m.pk == 2 then
      let i := s'.opId c
      let t := s.view.tile (m.reg.toNat % 8)
      let o : LOp := ⟨i.2, .payloadIn, s.me, s.ctx.org, e, t, off, []⟩
      let g := (trBytes ((y.lace.map (·.image)).getD []) w + 63) / 64
      let x := i.1.modCore c fun k => { k with lops := k.lops ++ [o] }
      (x.queueRun c ((List.range g).map fun k =>
        ⟨s.me, s.ctx.org, off + 64 * k, false, .loadPath i.2 0 (k + 1 = g)⟩), .none, some i.2)
    else
      let d : State × RegDst :=
        if m.pk == 0 then s'.track m.reg
        else match push with
          | some _ => (s'.reservePush m.reg.toNat, .none)
          | none => (s'.modCur (·.mark (.vreg m.reg.toNat) true), .vreg m.reg.toNat)
      let q := push.map fun x => ⟨m.reg.toNat, x.off (x.pos + s.before m.reg.toNat false), x.noundo, if x.tagx then none else some x.tag⟩
      (d.1.localAccess off false (.ringRead e d.2 (m.pk == 1) q), d.2, none)
  let s'' := r.1.chanNext c e w
  if !m.ord then s''
  else if push.isSome then (s''.modCur fun t => { t with hold := some (.push m.reg.toNat) }).parkCur (s.eyPark 5 e)
  else s''.holdFull r.2.1 r.2.2 (s.eyPark 5 e)

/-- `erecv` (R210). -/
def execErecv (h : CHead) (m : CE) (s : State) : Out :=
  let e := m.ey.toNat
  let o : ChanWord :=
    { ey := fun _ => e
      chk := fun s => s.chanCheck ⟨e, 0x13, 0, 1⟩ (pickType m.lit) (payloadBad m s.view)
      pre := payloadTrap m true
      post := topxCheck e
      parks := fun s =>
        if (s.curCore.ey e).ring.isEmpty then some (s.eyPark 3 e) else payloadBusy m .payloadIn s
      st := psOf m
      act := fun w s => s.recvStep m w }
  runC h (o.spec (payloadAcc m true)) s

/-- A tile payload has left, or is written (R179, R210). -/
def execTilePayloadComplete (s : State) : Out :=
  let c := s.subj.core
  match (s.coreAt c).lops.find? (·.id == s.subj.n) with
  | none => .next s
  | some o =>
    let s := s.modCore c fun k => { k with
      lops := k.lops.filter (·.id != o.id)
      tiles := if o.kind == .payloadIn then putPayload k.tiles o.tile o.buf else k.tiles }
    .next (s.tilesFreed c)

/-! esel, eoffer, ealt (R211, R212). -/

/-- `esel` (R211). -/
def execEsel (h : CHead) (e : BitVec 4) (n : BitVec 2) (s : State) : Out :=
  let e := e.toNat
  let o : ChanWord :=
    { ey := fun _ => e
      chk := fun s => s.chanCheck ⟨e, 0x14, 0, 2⟩ (fun ts => ts.find? fun w => trLabel w == n.toNat) (fun _ => false)
      parks := fun s => if (s.curCore.ey e).allow = 0 then some (s.eyPark 4 e) else none
      act := fun w s => (s.chanSend s.ctx.core e ⟨.label, n.toNat, s.view.topx, [], s.view.tid⟩).chanNext s.ctx.core e w }
  runC h (o.spec fun _ => Access.none) s

/-- `eoffer` (R211). -/
def execEoffer (h : CHead) (e : BitVec 4) (b : BitVec 5) (s : State) : Out :=
  let e := e.toNat
  let o : ChanWord :=
    { ey := fun _ => e
      chk := fun s => s.chanCheck ⟨e, 0x14, 1, 3⟩ List.head? (fun _ => false)
      parks := fun s => if (s.curCore.ey e).ring.isEmpty then some (s.eyPark 3 e) else none
      act := fun w s =>
        let c := s.ctx.core
        let y := s.curCore.ey e
        let n := ((y.ring.head?).map (·.type)).getD 0
        let w' := ((laceTrs ((y.lace.map (·.image)).getD []) y.state).find? fun x => trLabel x == n).getD w
        (((s.modEy c e Eyelet.popRing).returnAllow c e).chanNext c e w').resultTracked b 2 (wd n) }
  runC h (o.spec fun _ => scalarAcc [] [(b, none)]) s

/-- Is eyelet `e` ready for `ealt` (R212)? -/
def State.altReady (s : State) (e : Nat) : Bool :=
  let y := s.curCore.ey e
  y.lace.isSome && y.owner == s.ctx.slot &&
  ((y.life == .opened && inputKind (stKind ((y.lace.map (·.image)).getD []) y.state) && !y.ring.isEmpty) ||
   y.life == .closed || y.life == .faulted)
/-- The eyelets of a mask in the order of `ealt` that are ready. -/
def State.altFirst (s : State) (mask : Word) : Option Nat :=
  ((List.range 16).map fun i => (s.view.altlast + 1 + i) % 16).find? fun e => mask.getLsbD e && s.altReady e
/-- The eyelet that the park of an `ealt` names: the first OPEN one of the mask that the thread owns, which is the one
the watchdog then closes (R217); else the first it owns, else the first (DESIGN CHOICE, log 86: R229 names none of
several). -/
def State.altNames (s : State) (mask : Word) : Nat :=
  let es := (List.range 16).filter fun e => mask.getLsbD e
  let own (e : Nat) : Bool := let y := s.curCore.ey e; y.lace.isSome && y.owner == s.ctx.slot
  ((es.find? fun e => own e && (s.curCore.ey e).life == .opened) <|> es.find? own <|> es.head?).getD 0
/-- `ealt` (R212). -/
def execEalt (h : CHead) (a b : BitVec 5) (s : State) : Out :=
  runC h
    { acc := fun _ => scalarAcc [b] [(a, none)]
      kind := needsAll
      trap3 := fun s => s.uncommitted <|>
        (let m := s.sval b
         if wbits m 16 48 != 0 || wbits m 0 16 = 0 then some ⟨2, 2, 0, 0⟩ else none)
      park4 := fun s =>
        let m := s.sval b
        if (s.altFirst m).isSome then none else some (s.eyPark 5 (s.altNames m))
      effect := fun s =>
        let i := (s.altFirst (s.sval b)).getD 0
        (s.modCur fun t => { t with altlast := i }).resultTracked a 2 (wd i) } s

/-! Loading and connecting (R204–R208). -/

/-- `elace` (R204): 40 cycles; the image is read as a local access. -/
def execElace (h : CHead) (e : BitVec 4) (m : MemR) (s : State) : Out :=
  let e := e.toNat
  let u : LocalUse := { ref := fun s => s.refR m, size := 640, r := true, align := 64 }
  let spec := u.spec (scalarAcc [m.idx] []) fun a s =>
    let g := u.seg s
    ((s.modEy s.ctx.core e fun y => { y with loading := true, pend := [] }).localAccess (offOf a) false (.lace e)).after 40
      (.elaceComplete s.me s.ctx.org e a ⟨g.base, g.attr⟩)
  runC h
    { spec with
      kind := needsAll
      trap3 := fun s =>
        let y := s.curCore.ey e
        (if y.lace.isSome && y.owner != s.ctx.slot then some (s.eyFault 0x11 0 e 10)
         else if y.life != .unbound && !y.busy then some (s.eyFault 0x11 0 e 5) else none) <|> u.trap s
      park4 := fun s => if (s.curCore.ey e).busy then some (s.eyPark 5 e) else u.park s } s

/-- The checks of R127 on a loaded lace's ring: the write right, the range in the scratchpad, its tags (R200). -/
def State.ringTrap (s : State) (c : Nat) (g : Seg) (addr : Word) (l : Lace) : Option TrapInfo :=
  let a := addr + wd (l.ringAt - offOf addr)
  let n := l.ring * l.slotLen
  if n = 0 then none
  else if !g.w then some (trapAt 6 3 g.base)
  else ((s.r15Span c a n).map fun t => trapAt t.1 t.2 a) <|> s.tagCheckAt c g a (granulesOf l.ringAt n)
/-- A lace load completes, 40 cycles after issue or once the image has been read (R199, R200, R204, R207). -/
def execElaceComplete (who : SlotRef) (org : Origin) (ey : Nat) (addr : Word) (seg : SegAt) (s : State) : Out :=
  let c := who.core
  let g : Seg := ⟨seg.base, seg.attr⟩
  let img := (s.eyAt c ey).pend
  if img.isEmpty then .next (s.after 1 (.elaceComplete who org ey addr seg))
  else
    let s := s.modEy c ey fun y => { y with loading := false, pend := [] }
    match laceOf img (offOf addr) (offOf addr + g.limit - (addr - g.base).toNat % 2 ^ 57) with
    | none => .next (s.reportTrap who org ⟨0x0B, 8, 0, 0⟩)
    | some l =>
      match s.ringTrap c g addr l with
      | some t => .next (s.reportTrap who org t)
      | none =>
        if (s.who who).isNone then .next s
        else
          .next ((s.refuseHeld c ey).modEy c ey fun y =>
            { y with lace := some l, owner := who.slot, state := laceInit img, grant := none, life := .unbound })

/-- The physical core the issuing core's table gives a SPACE 1 address (R16). -/
def State.physOf (s : State) (c : Nat) (a : Word) : Nat := ((tget (s.coreAt c).place (wbits a 31 12)).map (·.phys)).getD 0
/-- The place an `econn` names (R205); while its entry is in transit, the logical core, and 0x8000 above the logical device
of another device. -/
def econnLoc (s : State) (a : Word) : EyLoc :=
  let port := a.getLsbD 4
  match s.homeOf s.ctx.core a with
  | .core k => ⟨s.devIdx, k, wbits a 0 4, port⟩
  | .dev d => ⟨d, s.physOf s.ctx.core a, wbits a 0 4, port⟩
  | _ => ⟨if s.ownDev s.ctx.core (wbits a 43 14) then s.devIdx else 0x8000 + wbits a 43 14, wbits a 31 12, wbits a 0 4, port⟩
/-- The checks of the target of `econn` (R205 step 1). -/
def econnAddr (s : State) (a : Word) : Option TrapInfo :=
  match s.r15 s.ctx.core a with
  | some t => some (trapAt t.1 t.2 a)
  | none =>
    if spaceOf a != 1 || wbits a 5 15 != 0 ||
      (a.getLsbD 4 && (wbits a 0 4 != 0 || (corePort (s.physOf s.ctx.core a)).isNone)) then some (trapAt 5 2 a)
    else none
/-- May the eyelet make another connection (R205, R228)? -/
def Eyelet.mayConnect (y : Eyelet) : Bool :=
  (y.life == .unbound && y.lace.isSome) ||
  (y.life == .opened && !y.sent && match y.lace with | some l => l.group && y.state == laceInit l.image | none => false)

/-- `econn` (R205, R228). -/
def execEconn (h : CHead) (e : BitVec 4) (b : BitVec 5) (s : State) : Out :=
  let e := e.toNat
  runC h
    { acc := fun _ => scalarAcc [b] []
      kind := needsAll
      trap3 := fun s => s.uncommitted <|> econnAddr s (s.sval b) <|> s.eyOwn 0x11 1 e <|>
        (let y := s.curCore.ey e
         if y.busy || y.mayConnect then none else some (s.eyFault 0x11 1 e 5))
      park4 := fun s => if (s.curCore.ey e).busy then some (s.eyPark 5 e) else none
      effect := fun s =>
        let c := s.ctx.core
        let a := s.sval b
        let y := s.curCore.ey e
        if y.members.length ≥ 8 then s.reportTrap s.me s.ctx.org ⟨0x0B, 6, 0, 0⟩
        else
          let id := (y.connid + 1) % 65536
          let l := y.lace
          let r : ConnReq :=
            { src := s.ownLoc c e, dst := econnLoc s a, holder := s.me, org := s.ctx.org, connid := id
              own := (l.map (·.own)).getD 0, dual := (l.map (·.dual)).getD 0, form := (l.map (·.form)).getD []
              pdid := s.view.pdid, topx := s.view.topx, ring := (l.map (·.ring)).getD 0, grant := y.grant, heldAt := 0 }
          let s := (s.refuseHeld c e).modEy c e fun y =>
            { y with life := .connecting, connid := id, topx := s.view.topx, target := some r.dst }
          let node := match s.homeOf c a with
            | .transit => heldNode c
            | _ => s.locNode r.dst
          s.send c node (if r.dst.port then .portEndpointConnect r else .connectRequestArrival r) } s

/-- A connection request arrives (R207). -/
def execConnectRequestArrival (r : ConnReq) (s : State) : Out :=
  let c := r.dst.core
  let e := r.dst.ey
  let y := s.eyAt c e
  if y.lace.isSome && (y.life == .unbound || y.life == .listen) && y.held.isNone then
    let s := s.modEy c e fun y => { y with held := some { r with heldAt := s.cycle } }
    let w := (s.domAt (s.coreAt c).pdid).chwdog
    .next (if w = 0 then s else s.after (w * 1024) .heldRequestTimeout { core := c, n := e, m := s.cycle })
  else .next (s.answerConn c r .refused)

/-- A held request expires (R207). -/
def execHeldRequestTimeout (s : State) : Out :=
  let y := s.eyAt s.subj.core s.subj.n
  if y.held.any (·.heldAt == s.subj.m) then .next (s.refuseHeld s.subj.core s.subj.n) else .next s

/-- Does the request pass the grants (R208)? -/
def grantOk (r : ConnReq) (y : Eyelet) (pd : Nat) : Bool :=
  r.pdid == pd || (r.grant == some pd && y.grant == some r.pdid)
/-- Are the laces duals (R203)? -/
def dualOk (r : ConnReq) (y : Eyelet) : Bool :=
  match y.lace with
  | some l => l.dual == r.own && l.own == r.dual
  | none => false

/-- `elisten` (R206). -/
def execElisten (h : CHead) (e : BitVec 4) (s : State) : Out :=
  let e := e.toNat
  runC h
    { kind := needsAll
      trap3 := fun s => s.uncommitted <|> s.eyOwn 0x11 2 e <|>
        (let y := s.curCore.ey e
         if y.busy || y.life == .unbound then none else some (s.eyFault 0x11 2 e 5))
      park4 := fun s => if (s.curCore.ey e).busy then some (s.eyPark 5 e) else none
      effect := fun s => s.modEy s.ctx.core e fun y => { y with life := .listen } } s

/-- The request an `eaccept` may take: one is held and its grants stand. -/
def State.takeable (s : State) (e : Nat) : Option ConnReq :=
  let y := s.curCore.ey e
  y.held.filter fun r => grantOk r y s.view.pdid
/-- `eaccept` (R206). -/
def execEaccept (h : CHead) (e : BitVec 4) (b : BitVec 5) (s : State) : Out :=
  let e := e.toNat
  let before (s : State) : Option TrapInfo := s.uncommitted <|> s.eyOwn 0x11 3 e <|>
    (let y := s.curCore.ey e
     if y.busy || y.life == .unbound || y.life == .listen then none else some (s.eyFault 0x11 3 e 5))
  runC h
    { acc := fun _ => scalarAcc [] [(b, none)]
      kind := needsAll
      trap3 := fun s => before s <|>
        (let y := s.curCore.ey e
         if y.busy then none
         else match s.takeable e with
           | some r => if dualOk r y then none else some (s.eyFault 0x11 3 e 1)
           | none => none)
      onTrap := fun s =>
        if (before s).isSome then s
        else match s.takeable e with
          | some r =>
            (s.modEy s.ctx.core e fun y => { y with life := .faulted, held := none }).answerConn s.ctx.core r .notDual
          | none => s
      park4 := fun s =>
        if (s.curCore.ey e).busy || (s.takeable e).isNone then some (s.eyPark 5 e) else none
      onPark := fun s =>
        let y := s.curCore.ey e
        match y.held with
        | some r =>
          if y.busy || grantOk r y s.view.pdid then s
          else (s.modEy s.ctx.core e fun y => { y with held := none }).answerConn s.ctx.core r .grantMissing
        | none => s
      effect := fun s =>
        match s.takeable e with
        | none => s
        | some r =>
          let c := s.ctx.core
          let y := s.curCore.ey e
          let id := (y.connid + 1) % 65536
          let l := y.lace
          let s := s.modEy c e fun y =>
            { y with
              life := .opened, held := none, connid := id, state := (l.map fun l => laceInit l.image).getD 0
              members := [⟨r.src, r.connid, id, r.pdid, r.ring, false, []⟩], topx := r.topx }
          (s.answerConn c r (.accepted ((l.map (·.ring)).getD 0) id s.view.pdid)).resultTracked b 2
            (locWord r.src r.pdid) } s

/-- The connector learns the outcome (R205); one whose holder has gone is closed again (R216). -/
def execConnectOutcome (r : ConnReq) (o : ConnOut) (s : State) : Out :=
  let c := r.src.core
  let e := r.src.ey
  let y := s.eyAt c e
  let mine := y.life == .connecting && y.connid == r.connid && (s.who r.holder).isSome
  let back : Life := if y.members.isEmpty then .unbound else .opened
  match o with
  | .accepted ring id pd =>
    if mine then
      .next (s.modEy c e fun y =>
        { y with
          life := .opened, members := y.members ++ [⟨r.dst, id, r.connid, pd, ring, false, []⟩], target := none
          state := (y.lace.map fun l => laceInit l.image).getD 0 })
    else .next (s.send c (s.locNode r.dst) (.closeNoticeArrival r.dst ⟨r.src, id, r.connid, 2, 0, true, 0, r.holder.tid⟩))
  | .notDual =>
    if mine then .next ((s.modEy c e fun y => { y with life := .faulted, target := none }).reportTrap r.holder r.org ⟨0x0B, 1, 0, 0⟩)
    else .next s
  | .grantMissing =>
    if mine then .next ((s.modEy c e fun y => { y with life := back, target := none }).reportTrap r.holder r.org ⟨0x0B, 7, 0, 0⟩)
    else .next s
  | .refused =>
    if mine then .next ((s.modEy c e fun y => { y with life := back, target := none }).reportTrap r.holder r.org ⟨0x0B, 6, 0, 0⟩)
    else .next s

/-- `egrant` (R208). -/
def execEgrant (h : CHead) (a b : BitVec 5) (s : State) : Out :=
  let ey (s : State) : Nat := wbits (s.sval a) 0 4
  runC h
    { acc := fun _ => scalarAcc [a, b] []
      kind := needsAll
      trap3 := fun s => s.uncommitted <|>
        (if wbits (s.sval a) 4 60 != 0 || wbits (s.sval b [a]) 9 55 != 0 then some ⟨2, 1, 0, 0⟩ else none) <|>
        s.eyOwn 0x11 4 (ey s) <|>
        (if (s.domAt s.view.pdid).grant then none else some ⟨0x12, 8, 0, 0⟩)
      park4 := fun s => if (s.curCore.ey (ey s)).busy then some (s.eyPark 5 (ey s)) else none
      effect := fun s =>
        let g := s.sval b [a]
        s.modEy s.ctx.core (ey s) fun y => { y with grant := if g.getLsbD 8 then some (wbits g 0 8) else none } } s

/-! estat and eclose (R213, R214). -/

/-- LIFE of R213. -/
def Life.code : Life → Nat
  | .unbound => 0
  | .listen => 1
  | .connecting => 2
  | .opened => 3
  | .closing => 4
  | .closed => 5
  | .faulted => 6
/-- The status word (R213). -/
def Eyelet.status (y : Eyelet) : Word :=
  wd (y.life.code * 2 ^ 60 + (if y.lace.isSome then 2 ^ 59 else 0) +
    (if y.life == .closed then y.reason * 2 ^ 55 else 0) + y.state * 2 ^ 50 + (if y.psu then 2 ^ 49 else 0) +
    y.pstate * 2 ^ 44 + (if y.lace.isSome then y.owner * 2 ^ 40 else 0) + y.allow * 2 ^ 32 + y.ring.length * 2 ^ 24 +
    ((y.lace.map (·.ring)).getD 0) * 2 ^ 16 + y.connid)
/-- `estat` (R213). -/
def execEstat (h : CHead) (a : BitVec 5) (e : BitVec 4) (s : State) : Out :=
  runC h
    { acc := fun _ => scalarAcc [] [(a, some 1)]
      kind := needsAll
      effect := fun s => s.result a 1 (s.curCore.ey e.toNat).status } s

/-- Reason of an orderly close: 0 at a `close` state, 1 otherwise (R214). -/
def Eyelet.closeReason (y : Eyelet) : Nat :=
  if stKind ((y.lace.map (·.image)).getD []) y.state = 6 then 0 else 1
/-- `eclose` (R214). -/
def execEclose (h : CHead) (e : BitVec 4) (s : State) : Out :=
  let e := e.toNat
  runC h
    { kind := needsAll
      trap3 := fun s => s.uncommitted <|> s.eyOwn 0x11 5 e <|>
        (let y := s.curCore.ey e
         if !y.loading && (y.life == .closing || y.life == .connecting) then some (s.eyFault 0x11 5 e 5) else none)
      park4 := fun s => if (s.curCore.ey e).busy then some (s.eyPark 5 e) else none
      effect := fun s =>
        let c := s.ctx.core
        let y := s.curCore.ey e
        match y.life with
        | .opened =>
          let s := (((s.notify c e y.closeReason).freeLinks c e).modEy c e fun y => { y with life := .closing, slots := 0 })
          (s.modCur fun t => { t with hold := some (.closing e) }).parkCur (s.eyPark 5 e)
        | .unbound => s.unlaceEy c e
        | _ => s.unbindEy c e } s

/-! Messages at an eyelet (R200, R201, R215). -/

/-- A message is written into an eyelet's ring (R200). -/
def State.putMessage (s : State) (c e : Nat) (m : ChMsg) : State :=
  let y := s.eyAt c e
  let slot := (y.head + y.ring.length) % Nat.max 1 ((y.lace.map (·.ring)).getD 1)
  let off := (y.lace.map fun l => l.ringAt + slot * l.slotLen).getD 0
  let bytes := if m.kind == .record then m.payload.take 64 else m.payload
  (s.spadWriteLong c 128 off bytes false).modEy c e fun y => { y with ring := y.ring ++ [m] }
/-- Is the eyelet being moved into a context image (R367)? -/
def Eyelet.saved (y : Eyelet) : Bool := y.deleg.any (·.2 ≥ 16)
/-- A message arrives (R200); one for an eyelet that is moving into a context image is diverted (R367). -/
def execChannelMessageArrival (src dst : EyLoc) (connid : Nat) (m : ChMsg) (s : State) : Out :=
  if dst.port then
    let p := (corePort dst.core).getD 0
    let x := vget PEnd.reset (s.portAt p).ends dst.ey
    if x.used && x.connid == connid then
      .next ((s.modPort p fun q =>
        { q with ends := vset q.ends dst.ey { x with ring := x.ring ++ [m] } }).after 0 .portStreamWrite { n := p, m := dst.ey })
    else .next s
  else
    let c := dst.core
    let e := dst.ey
    let y := s.eyAt c e
    if y.members.any (·.own == connid) && (y.life == .opened || y.life == .closing) then
      if y.saved then
        .next (s.divert c ⟨.channelMessageArrival src dst connid m, {}⟩)
      else .next (s.putMessage c e m)
    else .next (s.orphan c m)

/-- An allowance unit reaches the sender's eyelet, or a port (R201, R223). -/
def execAllowanceReturn (src dst : EyLoc) (connid : Nat) (s : State) : Out :=
  if dst.port then
    let p := (corePort dst.core).getD 0
    let x := vget PEnd.reset (s.portAt p).ends dst.ey
    if x.used && x.connid == connid then
      let x := { x with peer := x.peer.map fun y => { y with allow := y.allow + 1 } }
      .next ((s.modPort p fun q => { q with ends := vset q.ends dst.ey x }).after 0 .portStreamSend { n := p, m := dst.ey })
    else .next s
  else
    .next (s.modEy dst.core dst.ey fun y =>
      { y with members := y.members.map fun x =>
          if x.loc == src && x.own == connid then { x with allow := x.allow + 1 } else x })

/-- Acknowledges a close notice, to the connection its sender names (R215). -/
def State.ackClose (s : State) (own : EyLoc) (n : CloseN) : State :=
  s.send (s.locNode own) (s.locNode n.src) (.closeAcknowledge own n.src n.mine)

/-- A close notice at an eyelet (R215, R228). -/
def State.eyNotice (s : State) (dst : EyLoc) (n : CloseN) : State :=
  let c := dst.core
  let e := dst.ey
  let y := s.eyAt c e
  let from_ (x : Member) : Bool := x.loc == n.src && x.own == n.connid
  let rest := y.members.filter fun x => !from_ x
  let s := s.ackClose dst n
  if !y.members.any from_ then s
  else if y.life == .connecting then s.modEy c e fun y => { y with members := rest }
  else if y.life == .opened then
    if !rest.isEmpty then s.modEy c e fun y => { y with members := rest }
    else (s.freeLinks c e).modEy c e fun y =>
      { y with
        life := .closed
        reason := n.reason
        psu := n.psu
        pstate := if n.psu then 0 else n.state
        pdetail := n.detail
        slots := 0 }
  else if y.life == .closing then
    if y.deleg.isSome then
      s.modEy c e fun y => { y with ring := y.ring ++ [⟨.label, 256 + n.reason, n.psu, [BitVec.ofNat 8 n.state], n.tid⟩] }
    else if rest.isEmpty then (s.unbindEy c e).releaseHold c e
    else s.modEy c e fun y => { y with members := rest }
  else s

/-- The peer's acknowledgement (R214). -/
def State.eyAck (s : State) (src dst : EyLoc) (connid : Nat) : State :=
  let c := dst.core
  let e := dst.ey
  let y := s.eyAt c e
  let from_ (x : Member) : Bool := x.loc == src && x.own == connid
  if y.life == .closing && y.deleg.isNone && y.members.any from_ then
    let rest := y.members.filter fun x => !from_ x
    if rest.isEmpty then (s.unbindEy c e).releaseHold c e else s.modEy c e fun y => { y with members := rest }
  else s

/-- A park on an OPEN eyelet has lasted too long (R217): Watchdog 1, and the eyelet closes with reason 4. -/
def execChannelWatchdog (s : State) : Out :=
  let c := s.subj.core
  let sl := s.subj.slot
  match (s.threadAt c sl).filter fun t => t.parked && t.run == .running with
  | none => .next s
  | some t =>
    let e := wbits (vget 0 (s.coreAt c).bstates sl) 0 16
    if (s.eyAt c e).life != .opened then .next s
    else .next (((s.notify c e 4).unbindEy c e).takeTrap ⟨c, sl, t.tid⟩ false (s.nextOrg c t) ⟨0x16, 1, 0, 0⟩)

/-! Delegation (R219–R221, R395). -/

/-- OWN of an eyelet's lace. -/
def Eyelet.own (y : Eyelet) : Word := match y.lace with | some l => l.own | none => 0
/-- Ring slots of an eyelet's lace. -/
def Eyelet.slotCount (y : Eyelet) : Nat := match y.lace with | some l => l.ring | none => 0
/-- The delegation record (R395). -/
def Eyelet.record (y : Eyelet) : List Byte :=
  let m := (y.members.head?).getD ⟨⟨0, 0, 0, false⟩, 0, 0, 0, 0, false, []⟩
  let count := y.ring.countP fun x => x.type < 256
  toLE 8 y.own.toNat ++ toLE 8 (locWord m.loc m.pd).toNat ++ toLE 2 y.connid ++ toLE 1 y.state ++
  toLE 1 m.allow ++ toLE 1 count ++ toLE 1 y.topx.toNat ++ toLE 1 y.slotCount ++ toLE 1 0 ++
  toLE 2 (match y.grant with | some g => 256 + g | none => 0) ++ List.replicate 38 0
/-- A ring message as it follows the record: its kind, type or label, TOPX, length and payload; a close notice that came
in has a type from 256 up. -/
def msgBytes (m : ChMsg) : List Byte :=
  toLE 1 (match m.kind with | .data => 0 | .label => 1 | .record => 2) ++ toLE 2 m.type ++ toLE 1 m.topx.toNat ++
  toLE 4 m.payload.length ++ m.payload
/-- The ring messages that follow a record. -/
def msgsOf : Nat → List Byte → List ChMsg
  | 0, _ => []
  | n + 1, b =>
    if b.isEmpty then []
    else
      let len := imgN b 4 4
      ⟨(if imgN b 0 1 = 0 then .data else if imgN b 0 1 = 1 then .label else .record), imgN b 1 2, imgN b 3 1 == 1,
        (b.drop 8).take len, 0⟩ :: msgsOf n (b.drop (8 + len))

/-- Ring messages with their payloads as the ring holds them now (R200). -/
def State.ringMsgs (s : State) (c e : Nat) : List ChMsg :=
  let y := s.eyAt c e
  match y.lace with
  | none => []
  | some l => y.ring.mapIdx fun i m =>
    if m.kind == .record || m.type ≥ 256 then m
    else { m with payload := s.spadRead c (l.ringAt + (y.head + i) % Nat.max 1 l.ring * l.slotLen) m.payload.length }

/-- `edeleg` (R219): issues, and holds the next bundle until the eyelet has left. -/
def execEdeleg (h : CHead) (e : BitVec 4) (b : BitVec 5) (s : State) : Out :=
  let e := e.toNat
  let car (s : State) : Nat := wbits (s.sval b) 0 4
  let o : ChanWord :=
    { ey := car
      chk := fun s => s.chanCheck ⟨car s, 0x14, 3, 4⟩ List.head? (fun _ => false)
      pre := fun s => if wbits (s.sval b) 4 60 != 0 then some ⟨2, 1, 0, 0⟩ else none
      post := fun s =>
        let y := s.curCore.ey e
        s.eyOwn 0x14 3 e <|>
        (if y.busy then none
         else if y.life != .opened then some (s.eyFault 0x14 3 e 5)
         else if e = car s || (y.lace.any (·.group)) then some (s.eyFault 0x14 3 e 11)
         else none)
      parks := fun s =>
        if (s.curCore.ey e).busy then some (s.eyPark 5 e)
        else if (s.curCore.ey (car s)).allow = 0 then some (s.eyPark 4 (car s)) else none
      act := fun _ s =>
        let c := s.ctx.core
        let k := car s
        let own := s.ownLoc c e
        let s := s.modEy c k fun y => { y with members := y.members.map fun p => { p with allow := p.allow - 1 } }
        let s := (s.eyAt c e).members.foldl (fun s p => s.toMember c e p (.moveNotice own p.loc p.connid)) s
        let s := (s.freeLinks c e).modEy c e fun y =>
          { y with life := .closing, deleg := some (s.ctx.slot, k), slots := 0 }
        (s.modCur fun t => { t with hold := some (.deleg e k) }).parkCur (s.eyPark 5 e) }
  runC h (o.spec fun _ => scalarAcc [b] []) s

/-- MARK reaches the old holder (step 4 of R221): the record and the ring messages leave over the carrier. A carrier that
is gone closes the delegated channel on the holder's behalf. -/
def State.leave (s : State) (c e k : Nat) : State :=
  let y := s.eyAt c e
  let car := s.eyAt c k
  if car.life == .opened then
    let img := (car.lace.map (·.image)).getD []
    let w := laceTr img car.state 0
    let m : ChMsg := ⟨.record, trType w, y.topx, y.record ++ (s.ringMsgs c e).flatMap msgBytes, s.holderTid c k⟩
    let s := car.members.foldl (fun s p => s.toMember c k p (.channelMessageArrival (s.ownLoc c k) p.loc p.connid m)) s
    (((s.chanNext c k w).unbindEy c e).releaseHold c e)
  else
    let s := y.members.foldl (fun s p =>
      s.send c (s.locNode p.loc) (.closeNoticeArrival p.loc ⟨s.ownLoc c e, p.connid, p.own, 2, y.state, false, 0, s.holderTid c e⟩)) s
    (s.unbindEy c e).releaseHold c e

/-- The peer's interface marks its entry in transit and sends MARK (step 2 of R221), which names the connection by the
CONNID the notice did, the peer's own. -/
def execMoveNotice (src dst : EyLoc) (connid : Nat) (s : State) : Out :=
  let from_ (m : Member) : Bool := m.loc == src && m.own == connid
  let move (m : Member) : Member := if from_ m then { m with transit := true } else m
  if dst.port then
    let p := (corePort dst.core).getD 0
    let x := vget PEnd.reset (s.portAt p).ends dst.ey
    let s := if x.used && x.connid == connid then
        s.modPort p fun q => { q with ends := vset q.ends dst.ey { x with peer := x.peer.map move } }
      else s
    .next (s.send (portNode p) (s.locNode src) (.markArrival dst src connid))
  else
    let s := s.modEy dst.core dst.ey fun y => { y with members := y.members.map move }
    .next (s.send dst.core (s.locNode src) (.markArrival dst src connid))

/-- A held event re-addressed to the new holder (step 6 of R221). -/
def retarget (new : EyLoc) (ev : Ev) : Ev :=
  match ev.ins with
  | .channelMessageArrival a _ id m => ⟨.channelMessageArrival a new id m, ev.subj⟩
  | .allowanceReturn a _ id => ⟨.allowanceReturn a new id, ev.subj⟩
  | .closeNoticeArrival _ n => ⟨.closeNoticeArrival new n, ev.subj⟩
  | .moveNotice a _ id => ⟨.moveNotice a new id, ev.subj⟩
  | _ => ev

/-- The peer learns the new holder, and the held traffic goes there in order (step 6 of R221). -/
def execRehome (old new dst : EyLoc) (connid : Nat) (s : State) : Out :=
  let flush (s : State) (src : Nat) (m : Member) : State :=
    m.heldOut.foldl (fun s e => s.send src (s.locNode new) (retarget new e).ins e.subj) s
  let fix (m : Member) : Member := if m.loc == old then { m with loc := new, transit := false, heldOut := [] } else m
  if dst.port then
    let p := (corePort dst.core).getD 0
    let x := vget PEnd.reset (s.portAt p).ends dst.ey
    if x.used && x.connid == connid then
      let s' := s.modPort p fun q => { q with ends := vset q.ends dst.ey { x with peer := x.peer.map fix } }
      .next ((match x.peer with | some m => flush s' (portNode p) m | none => s').after 0 .portStreamSend { n := p, m := dst.ey })
    else .next s
  else
    let from_ (m : Member) : Bool := m.loc == old && m.own == connid
    match (s.peersOf dst.core dst.ey).find? from_ with
    | none => .next s
    | some m =>
      let s := s.modEy dst.core dst.ey fun y => { y with members := y.members.map fun m => if from_ m then fix m else m }
      let left := (s.coreAt dst.core).leaving.filter fun x => !(x.1 == dst.ey && from_ x.2)
      let s := if left.length = (s.coreAt dst.core).leaving.length then s
        else s.modCore dst.core fun k => { k with leaving := left }
      .next (flush s dst.core m)

/-- Installs a delegated state into an eyelet that holds the same lace (steps 5 and 6 of R221, R395). -/
def State.install (s : State) (c e : Nat) (b : List Byte) : State :=
  let pl := wordLoc (wd (imgN b 8 8))
  let msgs := msgsOf 65 (b.drop 64)
  let connid := imgN b 16 2
  let at_ := s.transitPeer pl.1 connid
  let m : Member := ⟨pl.1, at_.1, connid, pl.2, imgN b 19 1, false, []⟩
  let gone := msgs.find? fun x => x.type ≥ 256
  let data := msgs.filter fun x => x.type < 256
  let s := s.modEy c e fun y =>
    { y with
      life := if gone.isSome then .closed else .opened
      reason := (gone.map fun x => x.type - 256).getD 0
      psu := (gone.map (·.topx)).getD false
      pstate := (gone.map fun x => if x.topx then 0 else imgN x.payload 0 1).getD 0
      state := imgN b 18 1
      connid := connid
      topx := imgN b 21 1 == 1
      members := [m]
      ring := data
      head := 0
      grant := if imgN b 25 1 % 2 = 1 then some (imgN b 24 1) else none }
  let l := (s.eyAt c e).lace
  let s := data.zipIdx.foldl (fun s x =>
    s.spadWriteLong c 128 ((l.map fun l => l.ringAt + x.2 % Nat.max 1 l.ring * l.slotLen).getD 0) x.1.payload false) s
  s.send c (s.locNode pl.1) (.rehome at_.2 (s.ownLoc c e) pl.1 m.connid)

/-- `ecatch` (R220). -/
def execEcatch (h : CHead) (e : BitVec 4) (b : BitVec 5) (s : State) : Out :=
  let e := e.toNat
  let car (s : State) : Nat := wbits (s.sval b) 0 4
  let head (s : State) : Option ChMsg := (s.curCore.ey (car s)).ring.head?
  let o : ChanWord :=
    { ey := car
      chk := fun s => s.chanCheck ⟨car s, 0x14, 4, 5⟩ List.head? (fun _ => false)
      post := fun s =>
        let y := s.curCore.ey e
        s.eyOwn 0x14 4 e <|>
        (if y.busy then none
         else if y.life != .unbound then some (s.eyFault 0x14 4 e 5)
         else match head s with
           | some m => if (y.lace.map (·.own)).getD 0 != wd (imgN m.payload 0 8) then some (s.eyFault 0x14 4 e 9) else none
           | none => none)
      parks := fun s =>
        if (s.curCore.ey e).busy then some (s.eyPark 5 e)
        else if (head s).isNone then some (s.eyPark 3 (car s)) else none
      act := fun w s =>
        let c := s.ctx.core
        let k := car s
        let r := ((head s).map (·.payload)).getD []
        (((s.modEy c k Eyelet.popRing).returnAllow c k).chanNext c k w).install c e r }
  runC h (o.spec fun _ => scalarAcc [b] []) s

/-! route and eslot (R225–R227). -/

/-- The NULL code of an expert index (R225). -/
def nullOf (t : Thread) (x : Word) : Nat := wbits t.nullmap (2 * wbits x 0 5) 2
/-- Does `route` send: no install, and a real expert (R226)? -/
def routeSends (s : State) (x : Word) : Bool := !x.getLsbD 63 && wbits x 5 58 == 0 && nullOf s.view x == 0
/-- `route` (R226). -/
def execRoute (h : CHead) (a b : BitVec 5) (s : State) : Out :=
  let vx (s : State) := s.sval a
  let vy (s : State) := s.sval b [a]
  let ent (s : State) : BitVec 4 × BitVec 32 := vget (0, 0) s.view.rt (wbits (vx s) 0 5)
  let o : ChanWord :=
    { ey := fun s => (ent s).1.toNat
      chk := fun s => s.chanCheck ⟨(ent s).1.toNat, 0x14, 5, 0⟩ List.head? (fun e => shapeClass e != 1)
      parks := fun s => if (s.curCore.ey (ent s).1.toNat).allow = 0 then some (s.eyPark 4 (ent s).1.toNat) else none
      act := fun w s => s.sendStep (ent s).1.toNat w (toLE 8 (vy s).toNat) }
  let send := o.spec fun _ => Access.none
  runC h
    { acc := fun s =>
        let x := vx s
        scalarAcc [a, b] (if x.getLsbD 63 || wbits x 5 58 != 0 || nullOf s.view x = 0 then [] else [(a, some 1)])
      kind := needsAll
      trap3 := fun s =>
        let x := vx s
        s.uncommitted <|>
        (if x.getLsbD 63 then (if wbits x 5 58 != 0 || wbits (vy s) 4 28 != 0 then some ⟨2, 1, 0, 0⟩ else none)
         else if wbits x 5 58 != 0 then some ⟨2, 2, 0, 0⟩
         else if nullOf s.view x = 0 then send.trap3 s else none)
      onTrap := fun s => if routeSends s (vx s) then send.onTrap s else s
      park4 := fun s => if routeSends s (vx s) then send.park4 s else none
      effect := fun s =>
        let x := vx s
        let y := vy s
        if x.getLsbD 63 then
          s.modCur fun t => { t with rt := vset t.rt (wbits x 0 5) (BitVec.ofNat 4 (wbits y 0 4), BitVec.ofNat 32 (wbits y 32 32)) }
        else if nullOf s.view x = 0 then send.effect s
        else s.result a 1 (if nullOf s.view x = 1 then 0 else if nullOf s.view x = 2 then y else (ent s).2.setWidth 64) } s

/-- Package mesh coordinates of a core (R8). -/
def meshX (c : Nat) : Nat := c / 288 % 4 * 16 + c % 16
/-- Row of a core in the package mesh. -/
def meshY (c : Nat) : Nat := c / 288 / 4 * 18 + c % 288 / 16
/-- The links of the dimension-ordered path between two cores, columns first: each by its core and direction (DEDUCED, log 9). -/
def linkPath (a b : Nat) : List Nat :=
  let id (x y d : Nat) : Nat := (y * 64 + x) * 4 + d
  let dx := meshX b - meshX a
  let ux := meshX a - meshX b
  let dy := meshY b - meshY a
  let uy := meshY a - meshY b
  ((List.range dx).map fun i => id (meshX a + i) (meshY a) 0) ++ ((List.range ux).map fun i => id (meshX a - i) (meshY a) 1) ++
  ((List.range dy).map fun i => id (meshX b) (meshY a + i) 2) ++ ((List.range uy).map fun i => id (meshX b) (meshY a - i) 3)

/-- `eslot` (R227). Its result comes 2 cycles after issue, as that of every channel instruction that writes a scalar
register does, and another nonzero mask adds its entries to those the channel holds (DESIGN CHOICE, log 86: the rule
states neither). -/
def execEslot (h : CHead) (a b : BitVec 5) (s : State) : Out :=
  let ey (s : State) : Nat := wbits (s.sval a) 0 4
  runC h
    { acc := fun _ => scalarAcc [a, b] [(a, none)]
      kind := needsAll
      trap3 := fun s => s.uncommitted <|>
        (if wbits (s.sval b [a]) 16 48 != 0 then some ⟨2, 2, 0, 0⟩ else none) <|> s.eyOwn 0x11 7 (ey s) <|>
        (let y := s.curCore.ey (ey s)
         if y.busy || y.life == .opened then none else some (s.eyFault 0x11 7 (ey s) 5))
      park4 := fun s => if (s.curCore.ey (ey s)).busy then some (s.eyPark 5 (ey s)) else none
      effect := fun s =>
        let c := s.ctx.core
        let e := ey s
        let mask := s.sval b [a]
        let peer := ((s.eyAt c e).members.head?.map (·.loc)).getD (s.ownLoc c e)
        let path := linkPath c peer.core
        let key (k i l : Nat) : Nat := l * 16 + (k + i) % 16
        let taken (k : Nat) : Bool := (path.mapIdx fun i l =>
          match tget s.linkSlots (key k i l) with
          | some o => o != linkOwner c e
          | none => false).any id
        let ks := (List.range 16).filter fun k => mask.getLsbD k
        let bad := ks.filter taken
        if mask = 0 then ((s.freeLinks c e).modEy c e fun y => { y with slots := 0 }).resultTracked a 2 0
        else if peer.dev != s.devIdx then s.resultTracked a 2 (wd (2 ^ 62))
        else if !bad.isEmpty then s.resultTracked a 2 (wd (2 ^ 63 + bad.foldl (fun n k => n + 2 ^ k) 0))
        else
          let ls := ks.foldl (fun t k => (path.zipIdx).foldl (fun t x => tset t (key k x.2 x.1) (linkOwner c e)) t) s.linkSlots
          (({ s with linkSlots := ls }).modEy c e fun y => { y with slots := mask.setWidth 16 }).resultTracked a 2 0 } s

end Sys2Proof.Machine
end

