-- ==== Sys2Proof/Machine/Slot.lean ====
section
/-! DEFINITION. Slots, queue registers, monitors and barriers (R231–R243), `halt` (R117), the snag detector (R245, R246)
and thermal slot disabling (R247). -/

namespace Sys2Proof.Machine

/-! Placing a thread (R125, R231, R286). -/

/-- Segment registers from a set. -/
def segRegs (l : List Seg) : Vector Seg 8 := Vector.ofFn fun i => l.getD i Seg.reset
/-- THERMSLOT.DMASK: is the slot disabled (R247)? -/
def Core.slotOff (k : Core) (sl : Nat) : Bool := k.thermslot.getLsbD sl
/-- Is a slot free for a placement (R231)? -/
def Core.slotFree (k : Core) (sl : Nat) : Bool := (tget k.threads sl).isNone && !k.slotOff sl && !(sl == 15 && k.amen)
/-- The slots that are free. -/
def Core.freeSlots (k : Core) : List Nat := (List.range 16).filter k.slotFree
/-- The slot a placement takes (R231). -/
def Core.freeSlot (k : Core) : Option Nat := (List.range 16).find? k.slotFree
/-- The next thread number of a core, with the origin device above it (R286). -/
def State.newTid (s : State) (c : Nat) : State × Nat :=
  (s.modCore c fun k => { k with created := k.created + 1 },
    s.devIdx * 2 ^ 32 + c * 2 ^ 20 + (s.coreAt c).created % 2 ^ 20)
/-- A thread's parameter window and coppice table at a core, for its task (R135, R296). -/
def Core.window (k : Core) (task : Nat) : Window := (k.windows.find? (·.task == task)).getD ⟨task, 0, 0, 0⟩

/-! Queues (R232, R233). -/

/-- Is a descriptor bad (R233)? -/
def qcfgBad (q : Nat) (d : Word) : Bool :=
  let eng := wbits d 10 2
  wbits d 12 20 != 0 || d.getLsbD 9 || eng == 3 || (eng != 0 && (q < 12 || wbits d 0 4 != 0)) ||
  (if eng == 1 then wbits d 32 32 < 16 else wbits d 32 32 != 0)
/-- `qcfg` (R233): filled entries are discarded; one that the A-word of the same bundle has just reserved is not filled yet and stays. -/
def execQcfg (h : CHead) (q : BitVec 4) (b : BitVec 5) (s : State) : Out :=
  runC h
    { acc := fun _ => scalarAcc [b] []
      kind := anchoredOnly
      trap3 := fun s => if qcfgBad q.toNat (s.sval b) then some ⟨2, 2, 0, 0⟩ else none
      park4 := fun s => if (s.curCore.queue q.toNat).entries.any (·.2.isNone) then some Park.other else none
      effect := fun s =>
        let d := s.sval b
        s.modQueue s.ctx.core q.toNat fun x => { x with cfg := d, entries := x.entries.filter (·.2.isNone) } } s
/-- A timer-bound queue receives CYCLE (R232). -/
def execQueueTimerTick (s : State) : Out :=
  let q := (s.coreAt s.subj.core).queue s.subj.n
  if q.valid && q.eng == 1 && s.cycle % wbits q.cfg 32 32 == 0 then
    .next (s.modQueue s.subj.core s.subj.n (·.pushFull (wd s.cycle)))
  else .next s

/-! spawn, wake, halt (R117, R234, R235). -/

/-- The thread `spawn` creates (R234). -/
def Thread.spawned (t : Thread) (tid : Nat) (pc : Word32) (s0 : Word) (sg : Vector Seg 8) (now : Nat) : Thread :=
  { Thread.reset with
    tid := tid
    task := t.task
    pdid := t.pdid
    pc := pc
    s := Thread.reset.s.set 0 s0
    sg := sg
    status := t.status
    pwbase := t.pwbase
    pwsize := t.pwsize
    segmap := t.segmap
    stamp := now + 1
    earliest := now + 2 }
/-- `spawn` (R234). -/
def execSpawn (h : CHead) (a b c : BitVec 5) (s : State) : Out :=
  runC h
    { acc := fun _ => scalarAcc [b, c] [(a, none)]
      kind := anchoredOnly
      trap3 := fun s =>
        let x := s.sval b
        let t : Word32 := x.setWidth 32
        if wbits x 32 32 != 0 then some ⟨2, 2, 0, 0⟩
        else if t.toNat % 8 != 0 then some (trapAt 8 0 (pcWord t))
        else if segOf t != 0 then some (trapAt 0x17 1 (pcWord t))
        else none
      effect := fun s =>
        let core := s.ctx.core
        let pc : Word32 := (s.sval b).setWidth 32
        let v := s.sval c [b]
        match s.curCore.freeSlot with
        | none => s.resultTracked a 2 allOnes
        | some sl =>
          let t := s.view
          let r := s.segSet core t.pdid
          let n := r.1.newTid core
          let th := t.spawned n.2 pc v (segRegs (r.2.getD [])) s.cycle
          ((n.1.setThread core sl th).modTask t.task fun k => { k with live := k.live + 1 }).resultTracked a 2 (wd sl) } s
/-- `wake` (R235). -/
def execWake (h : CHead) (a : BitVec 5) (s : State) : Out :=
  runC h
    { acc := fun _ => scalarAcc [a] []
      kind := anchoredOnly
      trap3 := fun s => if wbits (s.sval a) 4 60 != 0 then some ⟨2, 1, 0, 0⟩ else none
      effect := fun s =>
        s.modThread s.ctx.core (wbits (s.sval a) 0 4) fun t =>
          if t.run == .halted then { t with run := .running, earliest := Nat.max t.earliest (s.cycle + 1) } else t } s

/-! The combiner (R241). -/

/-- Slots that hold resident, non-halted threads of a task. -/
def Core.taskSlots (k : Core) (task : Nat) : BitVec 16 :=
  k.threads.foldl (fun m e => if e.2.task == task && e.2.run != .halted then setBit m e.1 true else m) 0
/-- Do an entry's arrivals cover its snapshot (R241 step 4)? -/
def Comb.ready (e : Comb) : Bool := !e.sent && e.reg &&& ~~~e.arr == 0
/-- Sends the entries whose arrivals cover their snapshot (R241 step 4). -/
def State.combineSend (s : State) (c : Nat) : State :=
  let ready := (s.coreAt c).combs.filter (·.ready)
  let s := s.modCore c fun k => { k with combs := k.combs.map fun e => if e.ready then { e with sent := true } else e }
  ready.foldl (fun s e =>
    let home := s.homeOf c e.addr
    s.send c (homeNode c home) (.combinedArrival ⟨c, homeCore home, e.id, e.addr, e.orgs.length, e.check⟩)) s
/-- A slot leaves every snapshot, and what that completes is sent (R241 steps 3 and 4). -/
def State.leaveComb (s : State) (c sl : Nat) : State := (s.modCore c (·.leaveReg sl)).combineSend c
/-- The entry an arrival from slot `sl` joins (R241 step 2). -/
def Core.combFor (k : Core) (a : Word) (sl : Nat) : Option Comb :=
  k.combs.find? fun e => e.addr == a && !e.sent && e.reg.getLsbD sl && !e.arr.getLsbD sl
/-- Must an arrival wait for a free entry? -/
def Core.combFull (k : Core) (a : Word) (sl : Nat) : Bool := (k.combFor a sl).isNone && k.combs.length ≥ 8
/-- Does the issuing thread wait for the reply to a combined arrival (R242)? -/
def State.combOut (s : State) : Bool := s.curCore.combOut s.ctx.slot s.view.tid
/-- An arrival at the combiner of the issuing core (R241). One arrival serves a whole entry: its tag is checked unless every
arriver's segment skips the check (R128; DESIGN CHOICE, log 85). -/
def State.combine (s : State) (a : Word) (check : Bool) : State :=
  let c := s.ctx.core
  let sl := s.ctx.slot
  let me := (sl, s.view.tid, s.ctx.org)
  match (s.coreAt c).combFor a sl with
  | some e =>
    (s.modCore c fun k => { k with combs := k.combs.map fun x =>
      if x.id == e.id then { x with arr := setBit x.arr sl true, check := x.check || check, orgs := x.orgs ++ [me] } else x }).combineSend c
  | none =>
    let r := s.opId c
    (r.1.modCore c fun k => { k with combs := k.combs ++
      [⟨r.2, a, s.view.task, k.taskSlots s.view.task, setBit 0 sl true, false, check, [me]⟩] }).combineSend c

/-- `halt` (R117). -/
def execHalt (h : CHead) (s : State) : Out :=
  runC h { effect := fun s => (s.modCur fun t => { t with run := .halted }).leaveComb s.ctx.core s.ctx.slot } s

/-! Monitors (R236–R238). -/

/-- `marm` (R237). -/
def execMarm (h : CHead) (n : BitVec 2) (m : MemR) (s : State) : Out :=
  let u : LocalUse := { ref := fun s => s.refR m, size := 1, r := true }
  let spec := u.spec (scalarAcc [m.idx] []) fun a s => s.localAccess (offOf a) false (.arm n.toNat)
  runC h { spec with kind := anchoredOnly } s
/-- `mdisarm` (R237). -/
def execMdisarm (h : CHead) (n : BitVec 2) (s : State) : Out :=
  runC h
    { kind := anchoredOnly
      effect := fun s => s.modCur fun t =>
        { t with mon := vset t.mon n.toNat { vget ⟨false, 0, false⟩ t.mon n.toNat with armed := false, pend := false } } } s

/-- PEND bits of the monitors. -/
def Thread.pends (t : Thread) : Nat :=
  (List.range 4).foldl (fun m i => if (vget ⟨false, 0, false⟩ t.mon i).pend then m + 2 ^ i else m) 0
/-- Is any monitor armed? -/
def Thread.anyArmed (t : Thread) : Bool := t.mon.toList.any (·.armed)
/-- Has the deadline of an `mwait` been reached (R238)? -/
def Thread.mwaitOver (t : Thread) (now : Nat) : Bool :=
  match t.mwait with
  | some (some d, _) => d ≤ now
  | _ => false
/-- The `mwait` under way holds s[A] empty from its first issue; its result then goes where that issue said. -/
def State.mwaitDest (s : State) (a : BitVec 5) : State × RegDst :=
  match s.view.mwait with
  | some (_, d) => (s, d)
  | none => s.track a
/-- `mwait` (R238). -/
def execMwait (h : CHead) (a b : BitVec 5) (s : State) : Out :=
  runC h
    { acc := fun s => scalarAcc [b] (if s.view.mwait.isSome then [] else [(a, none)])
      kind := anchoredOnly
      trap3 := fun s =>
        let l := s.sval b
        if wbits l 32 32 != 0 || (!s.view.anyArmed && wbits l 0 32 = 0) then some ⟨2, 2, 0, 0⟩ else none
      park4 := fun s =>
        if s.view.pends != 0 || s.view.mwaitOver s.cycle then none else some { kind := 8 }
      onPark := fun s =>
        if s.view.mwait.isSome then s
        else
          let l := wbits (s.sval b) 0 32
          let r := s.track a
          let s := r.1.modCur fun t => { t with mwait := some (if l = 0 then none else some (s.cycle + l), r.2) }
          if l = 0 then s else s.after l .mwaitDeadline { core := s.ctx.core, slot := s.ctx.slot }
      effect := fun s =>
        let m := s.view.pends
        let r := s.mwaitDest a
        let s := r.1.modCur fun t =>
          { t with mwait := none, mon := if m = 0 then t.mon else t.mon.map fun x => { x with pend := false } }
        s.after 2 (.trackedRegisterWrite ⟨s.me, r.2, if m != 0 then m else 2 ^ 63, none⟩) } s
/-- A deadline expires: the waiter reissues (R238). -/
def execMwaitDeadline (s : State) : Out :=
  .next (s.modThread s.subj.core s.subj.slot fun t =>
    if t.mwaitOver s.cycle then { t with parked := false } else t)

/-! Barriers (R239–R243). -/

/-- The use of a barrier instruction (R240–R242). -/
def barUse (m : MemR) (write : Bool) : LocalUse where
  ref s := s.refR m
  size := 64
  r := !write
  w := write
  align := 64
  barrier := true
  write := write

/-- `barinit` (R240): a light thread travels to the home before its count is looked at. -/
def execBarinit (h : CHead) (m : MemR) (c : BitVec 5) (s : State) : Out :=
  let u := barUse m true
  let spec := u.spec (scalarAcc [m.idx, c] []) fun a s => s.localAccess (offOf a) false (.barinit a (s.sval c [m.idx]))
  runC h
    { spec with trap3 := fun s => s.uncommitted <|> u.trap s <|>
        (if !u.far s && s.sval c [m.idx] = 0 then some ⟨2, 2, 0, 0⟩ else none) } s

/-- The traps of `bararr` and `barwait`: an anchored thread's object may be homed elsewhere (R241, R242, R291, R396). -/
def barTrap (u : LocalUse) (s : State) : Option TrapInfo :=
  match u.addr s with
  | .error t => some t
  | .ok a =>
    if spaceOf a != 1 then some (trapAt 5 5 a)
    else if s.isLocal a then s.tagCheckAt s.ctx.core (u.seg s) a (u.touch (offOf a))
    else s.tooFar a
/-- Does the barrier instruction travel: a light thread with its object elsewhere? -/
def barTravels (u : LocalUse) (s : State) : Bool := u.far s && s.view.kind != 0

/-- `bararr` (R241). -/
def execBararr (h : CHead) (m : MemR) (s : State) : Out :=
  let u := barUse m true
  runC h
    { acc := fun _ => scalarAcc [m.idx] []
      park2 := fun s => s.segBusy (u.ref s).sg
      trap3 := fun s => s.uncommitted <|> barTrap u s
      park4 := fun s =>
        let a := addrOf (u.addr s)
        if barTravels u s then some Park.other
        else if !s.view.acked then some Park.other
        else if u.far s then (if s.curCore.combFull a s.ctx.slot then some Park.other else none)
        else s.resourcePark none (u.touch (offOf a)) true
      onPark := fun s => if barTravels u s then u.onPark s else s
      effect := fun s =>
        let a := addrOf (u.addr s)
        if u.far s then s.combine a (!(u.seg s).tagx) else s.localAccess (offOf a) false (.bararr a) } s

/-- The reply writes the arrivers' records (R241 steps 5 and 6). -/
def execCombinerReply (m : CombMsg) (r : CombRep) (s : State) : Out :=
  match (s.coreAt m.core).combs.find? (·.id == m.entry) with
  | none => .next s
  | some e =>
    let s := s.modCore m.core fun k => { k with combs := k.combs.filter (·.id != m.entry) }
    .next (e.orgs.foldl (fun s o =>
      let w : SlotRef := ⟨m.core, o.1, o.2.1⟩
      match r with
      | .found ep gen => s.modWho w fun t => { t with barRec := some ⟨m.addr, ep, gen⟩ }
      | .tagMismatch d => s.reportTrap w o.2.2 (trapAt 7 1 m.addr d)) s)

/-- The wait of a `barwait` of the thread under way on an object. -/
def Thread.waitAt (t : Thread) (a : Word) (far : Bool) : Option BarX := t.barX.filter fun x => x.addr == a && x.far == far
/-- What `barwait` samples: the mark and GEN, at the object or as the combiner last read them (R242). -/
def State.barSample (s : State) (a : Word) (far : Bool) : Option (Mark × Nat) :=
  if far then (s.view.waitAt a far).bind (·.seen)
  else
    let c := s.ctx.core
    some (s.markAt c (offOf a / 64), leNat (s.spadRead c (offOf a / 64 * 64 + 16) 4))
/-- The EPOCH and GEN a `barwait` waits on: of the record, if it is the object's, else of its first sample (R242). -/
def barStart (t : Thread) (a : Word) (o : Mark × Nat) : Nat × Nat :=
  match t.barRec with
  | some r => if r.addr == a then (r.epoch, r.gen) else (o.1.epoch, o.2)
  | none => (o.1.epoch, o.2)
/-- The outcome of a sample against EPOCH and GEN (R242): none while the round is not complete; else p[PD] and s[A]. -/
def barOutcome (eg : Nat × Nat) (o : Mark × Nat) : Option (Bool × Nat) :=
  if !o.1.mark || o.1.epoch != eg.1 then some (false, if o.1.mark then 2 else o.1.cause)
  else if o.2 != eg.2 then some (true, 0)
  else none
/-- The outcome of a `barwait`: the reason it was released with (R239), or that of a sample. -/
def State.barResult (s : State) (a : Word) (far : Bool) : Option (Bool × Nat) :=
  let x := s.view.waitAt a far
  match x.bind (·.freed) with
  | some r => some (r == 0, r)
  | none => (s.barSample a far).bind fun o => barOutcome ((x.bind (·.start)).getD (barStart s.view a o)) o
/-- The park of `barwait` (R244). -/
def State.barPark (s : State) (a : Word) : Park :=
  let o := s.unitOf s.ctx.core a
  { kind := 7, obj := offOf a / 64, pdev := o.1, pcore := o.2 }
/-- The combiner reads the object for a slot, and again in 256 cycles (R242). The step goes to the home and deposits what it
finds there. -/
def State.askBarrier (s : State) (c sl : Nat) (a : Word) : State :=
  let home := s.homeOf c a
  ((s.modThread c sl fun t => { t with barX := t.barX.map fun x => { x with asked := s.cycle } }).send c (homeNode c home)
    .combinerReread { core := c, slot := sl, n := homeCore home, w := a, b := true }).after 256 .combinerReread
    { core := c, slot := sl, n := s.cycle, w := a }
/-- The first park of a `barwait` arms it (R242). -/
def State.startWait (s : State) (a : Word) (far check : Bool) : State :=
  let x : BarX := ⟨a, s.ctx.org, (s.barSample a far).map (barStart s.view a), none, far, check, 0, none⟩
  let s := s.modCur fun t => { t with barX := some x }
  if far then s.askBarrier s.ctx.core s.ctx.slot a else s

/-- `barwait` (R242, R243). -/
def execBarwait (h : CHead) (a : BitVec 5) (m : MemR) (pd : BitVec 3) (s : State) : Out :=
  let u := barUse m false
  let out (s : State) : Option (Bool × Nat) := s.barResult (addrOf (u.addr s)) (u.far s)
  runC h
    { acc := fun _ => scalarAcc [m.idx] [(a, none)] [] [(.preg pd.toNat, some 1)]
      park2 := fun s => s.segBusy (u.ref s).sg
      trap3 := barTrap u
      park4 := fun s =>
        if barTravels u s then some Park.other
        else if s.combOut then some Park.other
        else if (out s).isSome then none
        else some (s.barPark (addrOf (u.addr s)))
      onPark := fun s =>
        let x := addrOf (u.addr s)
        if barTravels u s then u.onPark s
        else if s.combOut || (s.view.waitAt x (u.far s)).isSome then s
        else s.startWait x (u.far s) (!(u.seg s).tagx)
      effect := fun s =>
        let r := (out s).getD (false, 0)
        let s := s.modCur fun t => { t with barX := none }
        let w := s.me
        let d := s.track a
        let s := (d.1.resultP pd 1 r.1).after 2 (.trackedRegisterWrite ⟨w, d.2, r.2, none⟩)
        if r.1 then s.holdFull d.2 none Park.regEmpty else s } s

/-- `barinit` at the scratchpad (R239, R240). -/
def State.doBarinit (s : State) (c : Nat) (a : LocalAcc) (addr count : Word) : State :=
  let g := a.off / 64
  let m := s.markAt c g
  let ep := (m.epoch + 1) % 65536
  let s := s.spadUpdate c (64 * g) (toLE 8 count.toNat ++ toLE 8 count.toNat ++ List.replicate 48 0)
  let s := if m.mark then s.releaseWaiters c g 2 else s
  (s.setMark c g ⟨true, ep, if m.mark then 2 else m.cause⟩).modWho a.who fun t => { t with barRec := some ⟨addr, ep, 0⟩ }
/-- `bararr` at the scratchpad (R241). -/
def State.doBararr (s : State) (c : Nat) (a : LocalAcc) (addr : Word) : State :=
  let g := a.off / 64
  let m := s.markAt c g
  let gen := leNat (s.spadRead c (64 * g + 16) 4)
  let s := s.modWho a.who fun t => { t with barRec := some ⟨addr, m.epoch, gen⟩ }
  if m.mark then s.countDown c g 1 else s

/-! The snag detector (R245, R246). -/

/-- A node of the wait-for relation: a slot as core × 16 + slot, or 2^20 + core for an arrival queue. -/
def slotNode (c sl : Nat) : Nat := c * 16 + sl
/-- BSTATE of a slot node. -/
def State.bstateOf (s : State) (n : Nat) : Word := vget 0 (s.coreAt (n / 16)).bstates (n % 16)
/-- The slot that holds the peer of the eyelet a slot is parked on, if the peer is an eyelet of this device (R245). -/
def State.holderOf (s : State) (n e : Nat) : List Nat :=
  match (s.eyAt (n / 16) e).peerLoc with
  | some l => if l.dev == s.devIdx && !l.port then [slotNode l.core (s.eyAt l.core l.ey).owner] else []
  | none => []
/-- The current EPOCH and GEN of the object a slot's `barwait` is parked on: at the object, or, where another device is its
home, as the combiner last read them for the waiter (R242; DEDUCED, log 52). -/
def State.roundOf (s : State) (n : Nat) (dev core g : Nat) : Option (Nat × Nat) :=
  if dev == s.devIdx then some ((s.markAt core g).epoch, leNat (s.spadRead core (64 * g + 16) 4))
  else (((s.threadAt (n / 16) (n % 16)).bind (·.barX)).bind (·.seen)).map fun x => (x.1.epoch, x.2)
/-- Does a thread's barrier record match an object and a round of it (R245)? -/
def State.recordMatches (s : State) (c : Nat) (t : Thread) (dev core g : Nat) (round : Nat × Nat) : Bool :=
  t.barRec.any fun r => s.unitOf c r.addr == (dev, core) && offOf r.addr / 64 == g && (r.epoch, r.gen) == round
/-- The edges of a node (R245). -/
def State.waitsFor (s : State) (n : Nat) : List Nat :=
  if n ≥ 2 ^ 20 then
    let k := s.coreAt (n - 2 ^ 20)
    if k.threads.all fun e => vget 0 k.bstates e.1 != 0 then k.threads.map fun e => slotNode (n - 2 ^ 20) e.1 else []
  else
    let b := s.bstateOf n
    let pc := wbits b 20 12
    let ps := wbits b 16 4
    let own := wbits b 32 14 == s.devIdx
    match wbits b 60 4 with
    | 1 => if ((s.coreAt (n / 16)).queue (wbits b 0 16 - 16)).eng == 0 then [slotNode (n / 16) ps] else []
    | 2 => [slotNode (n / 16) ps]
    | 3 => s.holderOf n (wbits b 0 16)
    | 4 => s.holderOf n (wbits b 0 16)
    | 6 => if own then [2 ^ 20 + pc] else []
    | 7 =>
      let g := wbits b 0 16
      match s.roundOf n (wbits b 32 14) pc g with
      | none => []
      | some round =>
        let task := ((s.threadAt (n / 16) (n % 16)).map (·.task)).getD 0
        s.cores.flatMap fun x => x.2.threads.filterMap fun e =>
          if e.2.task == task && !s.recordMatches x.1 e.2 (wbits b 32 14) pc g round then some (slotNode x.1 e.1) else none
    | _ => []

/-- Paths from a start, breadth first over nodes above it, until one returns to it. -/
def State.findCycle (s : State) (v : Nat) : Nat → List (List Nat) → List Nat → Option (List Nat)
  | 0, _, _ => none
  | _, [], _ => none
  | n + 1, p :: ps, seen =>
    let u := p.headD v
    let out := s.waitsFor u
    if out.contains v then some p.reverse
    else
      let new := (out.filter fun x => x > v && !seen.contains x).eraseDups
      s.findCycle v n (ps ++ new.map fun x => x :: p) (seen ++ new)
/-- The blocked slots of a die, ascending. -/
def State.blockedOf (s : State) (die : Nat) : List Nat :=
  s.cores.flatMap fun x =>
    if x.1 / 288 = die then
      x.2.threads.filterMap fun e => if e.2.parked && vget 0 x.2.bstates e.1 != 0 then some (slotNode x.1 e.1) else none
    else []
/-- The cycles whose lowest member is on a die, each from its lowest member. -/
def State.cyclesOf (s : State) (die : Nat) : List (List Nat) :=
  (s.blockedOf die).filterMap fun v => s.findCycle v 40000 [[v]] [v]
/-- A member word (R246). -/
def State.memberWord (s : State) (n : Nat) : Word :=
  let b := s.bstateOf n
  wd (wbits b 60 4 * 2 ^ 60 + n / 16 * 2 ^ 20 + n % 16 * 2 ^ 16 + wbits b 0 16)
/-- The Snag trap of a cycle's lowest member, with its continuation records (R246); its parked bundle has no effect, a
departure among them. -/
def State.snag (s : State) (cyc : List Nat) : State :=
  let slots := cyc.filter (· < 2 ^ 20)
  let v := cyc.headD 0
  let words := ((slots.take 32).map fun n => (s.memberWord n).toNat)
  let conts := (slots.take 32).length + 7
  let recs := (List.range (conts / 8)).map fun i =>
    (List.range 8).flatMap fun j => toLE 8 (words.getD (8 * i + j) 0)
  match s.threadAt (v / 16) (v % 16) with
  | none => s
  | some t =>
    (s.modThread (v / 16) (v % 16) fun t => { t with depart := none }).lateTrap ⟨v / 16, v % 16, t.tid⟩ false
      (s.nextOrg (v / 16) t)
      ⟨0x11, Nat.min slots.length 255, 0, wd (conts / 8)⟩ recs
/-- The scan of every die (R246): a cycle found in this scan and the one before, no member of which has issued between
them, is reported. -/
def execSnagScan (s : State) : Out :=
  let found := (List.range 8).flatMap s.cyclesOf
  let since (n : Nat) : Bool :=
    n ≥ 2 ^ 20 || ((s.threadAt (n / 16) (n % 16)).map fun t => decide (t.parkSince + 16384 ≤ s.cycle)).getD false
  let hit := found.filter fun c => s.snagPrev.contains c && c.all since
  let s := hit.foldl (fun s c => s.snag c) s
  .next ({ s with snagPrev := found.filter fun c => !hit.contains c }.after 16384 .snagScan)

/-! Thermal slot disabling (R247). -/

/-- The core that a light or travelling thread in a disabled slot is displaced to: the first of the die's ranking that is
another core of its domain. What the ranking holds is a free value of the die and the cycle (DESIGN CHOICE, log 6). -/
def State.coolest (s : State) (c : Nat) (t : Thread) : Option Nat :=
  ((Config.thermalRank (s.cycle * 8 + c / 288)).take 16).find? fun k =>
    k != c && (s.coreAt k).v && (s.coreAt k).pdid == t.pdid
/-- Is the thread of a slot displaced once it is ready, and not throttled? -/
def State.displaced (s : State) (c sl : Nat) : Bool :=
  (s.coreAt c).slotOff sl && (s.threadAt c sl).any fun t => t.kind != 0 && (s.coolest c t).isSome
/-- The thermal controller disables the next slot, or re-enables the last it disabled (R247). -/
def execThermslotUpdate (s : State) : Out :=
  let k := s.coreAt s.subj.core
  let off := (List.range 16).filter k.slotOff
  let on_ := (List.range 16).filter fun sl => !k.slotOff sl && !(sl == 15 && k.amen)
  let mask : Nat := wbits k.thermslot 0 16
  let new := if s.subj.b then
      (if off.length ≥ 15 then mask else match on_.getLast? with | some sl => mask + 2 ^ sl | none => mask)
    else match off with | sl :: _ => mask - 2 ^ sl | [] => mask
  let count := (List.range 16).countP fun i => new / 2 ^ i % 2 = 1
  .next (s.modCore s.subj.core fun k => { k with thermslot := wd (count * 65536 + new) })

end Sys2Proof.Machine
end

