-- ==== Sys2Proof/Machine/Global.lean ====
section
/-! DEFINITION. Global memory, copies and atomics (R250–R273), `fence` (R278), and what requests do at their homes. -/

namespace Sys2Proof.Machine

/-! The checks of R261. -/

/-- How an instruction of this chapter uses its operand: whether a light thread travels to the home, and whether host
memory is a home for it. -/
structure GlobalUse where
  ref : State → MemRef
  size : Nat
  r : Bool := false
  w : Bool := false
  align : Nat := 1
  travels : Bool := true
  host : Bool := true
  atomic : Bool := false
  dc : Option Nat := none

/-- Steps 3–7 of R127. -/
def GlobalUse.addr (u : GlobalUse) (s : State) : Except TrapInfo Word := s.check (u.ref s) u.size u.r u.w u.align
/-- The segment named. -/
def GlobalUse.seg (u : GlobalUse) (s : State) : Seg := s.view.seg (u.ref s).sg
/-- Does the thread travel to perform the access? -/
def GlobalUse.far (u : GlobalUse) (s : State) : Bool :=
  u.travels && s.view.kind != 0 && s.elsewhere (addrOf (u.addr s))
/-- The traps of R261 and R291. -/
def GlobalUse.trap (u : GlobalUse) (s : State) : Option TrapInfo :=
  match u.addr s with
  | .error t => some t
  | .ok a =>
    if spaceOf a = 4 || (spaceOf a = 3 && !u.host) then some (trapAt 5 5 a)
    else if u.far s then s.tooFar a
    else if s.isLocal a then s.tagCheckAt s.ctx.core (u.seg s) a (granulesOf (offOf a) u.size)
    else none
/-- The parks of R122, R133 and R258, or the travel of R290. -/
def GlobalUse.park (u : GlobalUse) (s : State) : Option Park :=
  let a := addrOf (u.addr s)
  if u.far s then some Park.other
  else
    (s.view.outPark u.atomic) <|>
    (if s.isLocal a then s.resourcePark u.dc (granulesOf (offOf a) u.size) u.w else s.resourcePark u.dc [] false)
/-- The departure of R290. -/
def GlobalUse.onPark (u : GlobalUse) (s : State) : State :=
  if u.far s then
    let a := addrOf (u.addr s)
    s.depart (travelNode s.ctx.core (s.homeOf s.ctx.core a)) 0 a
  else s
/-- A word that sends one request; `fill` completes it. -/
def GlobalUse.spec (u : GlobalUse) (acc : Access) (kind : ReqKind) (fill : Req → State → State × Req) : WordSpec where
  acc _ := acc
  park2 s := s.segBusy (u.ref s).sg
  trap3 := u.trap
  park4 := u.park
  onPark := u.onPark
  effect s :=
    let r := fill (s.newReq kind (addrOf (u.addr s)) u.size (u.seg s)) s
    let s := r.1.sendReq r.2
    match u.dc with
    | some d => s.incD d
    | none => s

/-! gld, gst, gstc, gatom, gred, frd, fence (R262–R266, R278). -/

/-- `gld` (R262). -/
def execGld (h : CHead) (m : CM) (s : State) : Out :=
  let u : GlobalUse :=
    { ref := fun s => s.refCM m.sg m.ix m.idx m.lit (tySize m.ty), size := tySize m.ty, r := true, align := tySize m.ty
      dc := some m.dc.toNat }
  runC h (u.spec (scalarAcc [] [(m.reg, none)] (idxReads m.ix m.idx)) .read fun r s =>
    let d := s.track m.reg
    (d.1, { r with signed := tySigned m.ty, dst := d.2, dc := some m.dc.toNat })) s

/-- The external write of an uncommitted task (R319). -/
def State.hostWriteTrap (s : State) (a : Except TrapInfo Word) : Option TrapInfo :=
  match a with
  | .ok a => if spaceOf a = 3 then s.uncommitted else none
  | .error _ => none

/-- `gst` (R262). -/
def execGst (h : CHead) (m : CMS) (s : State) : Out :=
  let u : GlobalUse :=
    { ref := fun s => s.refCM m.sg m.ix m.idx m.lit (tySize m.ty), size := tySize m.ty, w := true, align := tySize m.ty }
  let spec := u.spec (scalarAcc [m.reg] [] (idxReads m.ix m.idx)) .write fun r s =>
    (s, { r with data := toLE (tySize m.ty) (s.sval m.reg).toNat })
  runC h { spec with trap3 := fun s => u.trap s <|> s.hostWriteTrap (u.addr s) } s

/-- The trap of a `gstc` barrier offset (R263). -/
def barOffTrap (b : Word) : Option TrapInfo :=
  if wbits b 20 44 != 0 || b.toNat ≥ 786432 then some (trapAt 5 2 b)
  else if b.toNat % 64 != 0 then some (trapAt 8 0 b)
  else none
/-- `gstc` (R263). -/
def execGstc (h : CHead) (m : CG) (s : State) : Out :=
  let size := 2 ^ m.w.toNat
  let u : GlobalUse :=
    { ref := fun s => s.refCM m.sg true m.idx m.lit 1, size := size, w := true, align := size, travels := false }
  let spec := u.spec (scalarAcc [m.reg] [] [short m.idx, short m.bar]) .write fun r s =>
    (s, { r with data := toLE size (s.sval m.reg).toNat, bar := some (s.sval4 m.bar).toNat })
  runC h
    { spec with
      kind := anchoredOnly
      trap3 := fun s => s.uncommitted <|> u.trap s <|> barOffTrap (s.sval4 m.bar) } s

/-- Size of an atomic by TY (R264). -/
def atomSize (ty : BitVec 2) : Nat := if ty.toNat < 2 then 4 else 8
/-- The use of an atomic's operand (R264). -/
def atomUse (sg : BitVec 3) (ix : Bool) (idx : BitVec 4) (ty : BitVec 2) (disp : BitVec 26) (reply : Bool) : GlobalUse where
  ref s := ⟨sg.toNat, (if ix then sint (s.sval4 idx) else 0) + disp.toInt⟩
  size := atomSize ty
  r := reply
  w := true
  align := atomSize ty
  travels := reply
  host := false
  atomic := reply
/-- `gatom` (R264). -/
def execGatom (h : CHead) (m : CA) (s : State) : Out :=
  let u := atomUse m.sg m.ix m.idx m.ty m.disp true
  let cas := m.op == 7
  let acc := scalarAcc (if cas then [m.a] else []) [(m.a, none)] (idxReads m.ix m.idx ++ [short m.b])
  let spec := u.spec acc .atomic fun r s =>
    let d := s.track m.a
    (d.1, { r with
      op := m.op.toNat, ty := m.ty.toNat, signed := m.ty.toNat % 2 == 0, dst := d.2
      data := toLE u.size (s.sval4 m.b).toNat, cmp := if cas then s.sval m.a else 0 })
  runC h { spec with trap3 := fun s => s.uncommitted <|> u.trap s } s
/-- `gred` (R265). -/
def execGred (h : CHead) (m : CARed) (s : State) : Out :=
  let u := atomUse m.sg m.ix m.idx m.ty m.disp false
  let spec := u.spec (scalarAcc [] [] (idxReads m.ix m.idx ++ [short m.b])) .reduce fun r s =>
    (s, { r with
      op := m.op.toNat, ty := m.ty.toNat, signed := m.ty.toNat % 2 == 0, data := toLE u.size (s.sval4 m.b).toNat })
  runC h { spec with trap3 := fun s => s.uncommitted <|> u.trap s } s

/-- `frd` (R266). -/
def execFrd (h : CHead) (a : BitVec 5) (m : MemR) (s : State) : Out :=
  let u : GlobalUse := { ref := fun s => s.refR m, size := 0, r := true }
  runC h (u.spec (scalarAcc [m.idx] [(a, none)]) .flush fun r s =>
    let d := s.track a
    (d.1, { r with dst := d.2 })) s

/-- `fence` (R278). -/
def execFence (h : CHead) (scope : BitVec 2) (s : State) : Out :=
  runC h
    { park4 := fun s =>
        let t := s.view
        if !t.localBusy && (List.range (scope.toNat + 1)).all (fun c => vget 0 t.outst c == 0) then none
        else some Park.other } s

/-! cpref (R272). -/

/-- What a hint does at one port for one page. -/
def State.hint (s : State) (p pdid va : Nat) : State :=
  if (s.cached p pdid va).isSome then s
  else
    match s.walk pdid va with
    | .leaf e base size ep eo => s.cacheLeaf p pdid base size e ep eo
    | .fault => s.modPort p fun q => { q with dropHint := q.dropHint + 1 }
    | .denied _ => s
/-- Every port of the 4 KiB granules of a range within one 2 MiB page is asked once, for the first address it holds, which
its PORTTOP is held against (R251, R254). -/
def State.hintPage (s : State) (pdid lo hi : Nat) : State :=
  let vas := (List.range ((hi - 1) / 4096 - lo / 4096 + 1)).map fun i => (lo / 4096 + i) * 4096
  let ps := (vas.map portOf).eraseDups
  ps.foldl (fun s p => match vas.find? (portOf · == p) with
    | some va => s.hint p pdid va
    | none => s) s
/-- A hint over [va, va + n). -/
def State.hints (s : State) (pdid va n : Nat) : State :=
  if n = 0 then s
  else
    (List.range ((va + n - 1) / 0x200000 - va / 0x200000 + 1)).foldl (fun s i =>
      let lo := Nat.max va ((va / 0x200000 + i) * 0x200000)
      let hi := Nat.min (va + n) ((va / 0x200000 + i + 1) * 0x200000)
      s.hintPage pdid lo hi) s
/-- `cpref` (R272): it never traps; a range that fails the checks is dropped. -/
def execCpref (h : CHead) (m : MemR) (c : BitVec 5) (s : State) : Out :=
  runC h
    { acc := fun _ => scalarAcc [m.idx, c] []
      park2 := fun s => s.segBusy m.sg.toNat
      effect := fun s =>
        let n := Nat.min (s.sval c [m.idx]).toNat 16777216
        match s.check (s.refR m) n true false 1 with
        | .error _ => s
        | .ok a =>
          match s.homeOf s.ctx.core a with
          | .port _ => s.hints s.view.pdid (vaOf a) n
          | _ => s } s

/-! amsg (R267). -/

/-- A thread's identity word, in the layout of `eaccept` (R206). -/
def State.identity (s : State) : Word := locWord ⟨s.devIdx, s.ctx.core, s.ctx.slot, false⟩ s.view.pdid
/-- The handler's address: the literal's offset in the sender's code segment, which is segment 0, as only an anchored thread
sends (R26, R267). -/
def handlerPc (lit : BitVec 32) : Word32 := lit &&& 0xFFFF
/-- Sends an active message's step to its home; one to the own core is queued behind the local accesses before it (R276). -/
def State.emitAm (s : State) (c : Nat) (m : AMsg) : State :=
  if m.home = c then
    (s.takeSlots c 1).at (s.localSlot c) ⟨.amsgArrival m, {}⟩
  else s.send c m.home (.amsgArrival m)
/-- `amsg` (R267). A port's arrival queue is its port core's. The Misaligned trap of a literal names the literal as its
target in ADDR, as that of a transfer does (DEDUCED, log 16: no rule names it). -/
def execAmsg (h : CHead) (a : BitVec 5) (sg : BitVec 3) (lit : BitVec 32) (s : State) : Out :=
  let u : GlobalUse :=
    { ref := fun s => ⟨sg.toNat, sint (s.view.sreg 0)⟩, size := 1, r := true, travels := false, host := false
      atomic := true }
  runC h
    { acc := fun _ => scalarAcc [a] [(a, none)] [.sreg 0]
      kind := needsAll
      park2 := fun s => s.segBusy sg.toNat
      trap3 := fun s => s.uncommitted <|> (if lit.toNat % 8 != 0 then some (trapAt 8 0 (lit.setWidth 64)) else none) <|> u.trap s
      park4 := fun s => s.view.outPark true
      effect := fun s =>
        let c := s.ctx.core
        let x := addrOf (u.addr s)
        let arg := s.sval a
        let t := s.cur.getD Thread.reset
        let d := s.track a
        let msg : AMsg :=
          { who := s.me, org := s.ctx.org, dst := d.2, home := travelNode c (s.homeOf c x), pc := handlerPc lit, arg := arg
            addr := x, ident := s.identity, pdid := t.pdid, task := t.task, status := t.status, seq := (t.seq + 1).toNat
            cls := s.classOf c x (s.homeOf c x), tagx := (u.seg s).tagx }
        let s := (d.1.countOut msg.cls true).modCore c fun k => { k with amOut := k.amOut ++ [msg] }
        (s.emitAm c msg).after 32768 .requestResendTimeout { core := c, n := t.tid, m := msg.seq } } s

/-! copy and copyg (R269–R271). -/

/-- An operand `[sgN + sK]` of format CY. -/
def cyRef (sg : BitVec 3) (idx : BitVec 4) (s : State) : MemRef := ⟨sg.toNat, sint (s.sval4 idx)⟩
/-- The length of a `copy`. -/
def State.copyLen (s : State) (l : CopyLen) : Nat :=
  match l with
  | .imm n => n.toNat
  | .reg r => (s.sval4 r).toNat
/-- A copy's operand in the spaces R261 allows it. -/
def State.copySpace (s : State) (e : Except TrapInfo Word) (host : Bool) : Option TrapInfo :=
  match e with
  | .error t => some t
  | .ok a =>
    if spaceOf a = 4 || (spaceOf a = 3 && !host) then some (trapAt 5 5 a)
    else if spaceOf a = 3 then s.uncommitted
    else none
/-- The token a copy writes (R270). -/
def copyToken (f : Option (Nat × Nat × Nat)) : Nat :=
  match f with
  | none => 0
  | some (c, u, g) => 2 ^ 63 + c * 2 ^ 48 + u * 2 ^ 40 + g
/-- Stream pushes of a thread that are not yet in the local access queue (R153). -/
def Thread.pushesOut (t : Thread) : Nat := t.streams.toList.foldl (fun n x => n + (x.map (·.pushes)).getD 0) 0
/-- Starts a copy: it owns its granules from issue and empties s[T] (R269); its reads follow the thread's local accesses
before it (R270). -/
def State.startCopy (s : State) (y : CY) (o : CopyOp) : State :=
  let c := s.ctx.core
  let t := s.cur.getD Thread.reset
  let s := s.modCur (·.mark (short y.tok) true)
  let id := (s.coreAt c).nextCopy
  let o := { o with id := id, waits := t.localOut, pushWaits := t.pushesOut }
  (s.modCore c fun k => { k with nextCopy := id + 1, copies := k.copies ++ [o] }).at (s.localSlot c)
    ⟨.copyGranule, { core := c, n := id }⟩
/-- The parks of a copy (R122, R269). -/
def State.copyPark (s : State) (gs : List Nat) : Option Park :=
  if s.curCore.copies.length ≥ 512 || gs.any s.curCore.owned then some Park.other else none

/-- The checks of `copy` (R269). -/
def copyTrap (y : CY) (len : CopyLen) (s : State) : Option TrapInfo :=
  let n := s.copyLen len
  if n > 16777216 then some ⟨2, 2, 0, 0⟩
  else if n % 64 != 0 then some (trapAt 8 0 0)
  else
    s.copySpace (s.check (cyRef y.sgd y.idxd s) n false true 64) true <|>
    s.copySpace (s.check (cyRef y.sgs y.idxs s) n true false 64) true
/-- `copy` (R269). -/
def execCopy (h : CHead) (y : CY) (len : CopyLen) (s : State) : Out :=
  let dst (s : State) : Word := addrOf (s.check (cyRef y.sgd y.idxd s) (s.copyLen len) false true 64)
  let src (s : State) : Word := addrOf (s.check (cyRef y.sgs y.idxs s) (s.copyLen len) true false 64)
  let own (s : State) : List Nat := if s.isLocal (dst s) then granulesOf (offOf (dst s)) (s.copyLen len) else []
  runC h
    { acc := fun _ => scalarAcc [] [] ([short y.idxd, short y.idxs] ++ (match len with | .reg r => [short r] | .imm _ => []))
        [(short y.tok, none)]
      kind := anchoredOnly
      park2 := fun s => s.segBusy y.sgd.toNat <|> s.segBusy y.sgs.toNat
      trap3 := copyTrap y len
      park4 := fun s => if s.copyLen len = 0 then none else s.copyPark (own s)
      effect := fun s =>
        let n := s.copyLen len
        if n = 0 then
          (s.modCur (·.mark (short y.tok) true)).after 2 (.trackedRegisterWrite ⟨s.me, short y.tok, 0, none⟩)
        else
          let gd := s.view.seg y.sgd.toNat
          let gs := s.view.seg y.sgs.toNat
          s.startCopy y
            { id := 0, who := s.me, org := s.ctx.org, tok := y.tok.toNat, dst := dst s, src := src s, len := n, rowb := 0
              list := 0, gran := 0, buf := [], fail := none, owned := own s, put := 0, waits := 0, pushWaits := 0, due := false, srcLimit := 0
              srcBase := 0, srcOff := 0, dstTagx := gd.tagx, dstNoundo := gd.noundo, srcTagx := gs.tagx, pdid := s.view.pdid } } s

/-- The list's segment: entries are read through the destination's segment register (R271; DEDUCED, log 11). -/
def listRef (y : CY) (lst cnt : BitVec 4) (s : State) : Except TrapInfo Word :=
  let g := s.view.seg y.sgd.toNat
  let off : Int := (s.sval4 lst).toNat - (wbits g.base 0 20 : Nat)
  s.segCheck g off (4 * (s.sval4 cnt).toNat) true false 4
/-- The checks of `copyg` (R271). -/
def copygTrap (y : CY) (lst cnt : BitVec 4) (rowb : Nat) (s : State) : Option TrapInfo :=
  let n := (s.sval4 cnt).toNat * rowb
  let gs := s.view.seg y.sgs.toNat
  let d := s.check (cyRef y.sgd y.idxd s) n false true 64
  if rowb = 0 || n > 16777216 then some ⟨2, 2, 0, 0⟩
  else
    (match d with
      | .error t => some t
      | .ok a => if s.isLocal a then none else s.hostWriteTrap (.ok a) <|> some (trapAt 5 3 a)) <|>
    (if !gs.valid then some (trapAt 6 1 gs.base) else if !gs.r then some (trapAt 6 3 gs.base) else none) <|>
    s.copySpace (.ok gs.base) true <|>
    trapOf (listRef y lst cnt s)
/-- `copyg` (R271). -/
def execCopyg (h : CHead) (y : CY) (lst cnt : BitVec 4) (rowb : BitVec 16) (s : State) : Out :=
  let total (s : State) : Nat := (s.sval4 cnt).toNat * rowb.toNat
  let dst (s : State) : Word := addrOf (s.check (cyRef y.sgd y.idxd s) (total s) false true 64)
  let own (s : State) : List Nat := granulesOf (offOf (dst s)) (total s)
  runC h
    { acc := fun _ => scalarAcc [] [] [short y.idxd, short y.idxs, short lst, short cnt] [(short y.tok, none)]
      kind := anchoredOnly
      park2 := fun s => s.segBusy y.sgd.toNat <|> s.segBusy y.sgs.toNat
      trap3 := copygTrap y lst cnt rowb.toNat
      park4 := fun s => if total s = 0 then none else s.copyPark (own s)
      effect := fun s =>
        if total s = 0 then
          (s.modCur (·.mark (short y.tok) true)).after 2 (.trackedRegisterWrite ⟨s.me, short y.tok, 0, none⟩)
        else
          let gd := s.view.seg y.sgd.toNat
          let gs := s.view.seg y.sgs.toNat
          s.startCopy y
            { id := 0, who := s.me, org := s.ctx.org, tok := y.tok.toNat, dst := dst s
              src := gs.addr (cyRef y.sgs y.idxs s).off, len := total s, rowb := rowb.toNat
              list := (s.sval4 lst).toNat, gran := 0, buf := [], fail := none, owned := own s, put := 0
              waits := 0, pushWaits := 0, due := false, srcLimit := gs.limit, srcBase := gs.base
              srcOff := (cyRef y.sgs y.idxs s).off
              dstTagx := gd.tagx, dstNoundo := gd.noundo, srcTagx := gs.tagx, pdid := s.view.pdid } } s

end Sys2Proof.Machine
end

