-- ==== Sys2Proof/Machine/Home.lean ====
section
/-! DEFINITION. What requests do at their homes, and what their answers do at the issuing interface: replay filters
(R260), the scratchpad, port and PCIe homes, page walks, fault holds and the page-request unit (R254–R257), copies
(R270, R271), and active messages (R267, R268). -/

namespace Sys2Proof.Machine

/-! Replay filters (R260). -/

/-- The replay filter of a home. -/
def State.filterAt (s : State) (node : Nat) : List FilterE :=
  if node < 4096 then (s.coreAt node).filter else if node < 4352 then (s.portAt (node - 4096)).filter else s.hostFilter
/-- Applies a function to the replay filter of a home. -/
def State.modFilter (s : State) (node : Nat) (f : List FilterE → List FilterE) : State :=
  if node < 4096 then s.modCore node fun k => { k with filter := f k.filter }
  else if node < 4352 then s.modPort (node - 4096) fun q => { q with filter := f q.filter }
  else { s with hostFilter := f s.hostFilter }
/-- Has a source an unacknowledged request at a home? -/
def State.unackedAt (s : State) (node tid : Nat) : Bool :=
  s.cores.any fun e =>
    e.2.unacked.any (fun r => r.who.tid == tid && r.node == node) ||
    e.2.amOut.any fun m => m.who.tid == tid && m.home == node

/-- What the filter says of a request. -/
inductive Admission where
  | fresh
  | replay (cached : Option Reply)
  | full
  deriving DecidableEq, Repr

/-- Looks a request up; a new source takes an entry, one of a source with nothing outstanding if none is free. -/
def State.admission (s : State) (node tid seq : Nat) : State × Admission :=
  let fs := s.filterAt node
  let q := BitVec.ofNat 32 seq
  match fs.find? (·.tid == tid) with
  | some e => (s, if serialLe q e.last then .replay ((e.cached.find? (·.1 == q)).map (·.2)) else .fresh)
  | none =>
    let e : FilterE := ⟨tid, q - 1, []⟩
    if fs.length < 4096 then (s.modFilter node (· ++ [e]), .fresh)
    else
      match fs.find? fun x => !s.unackedAt node x.tid with
      | some x => (s.modFilter node fun l => l.filter (·.tid != x.tid) ++ [e], .fresh)
      | none => (s, .full)
/-- A performed SEQ raises LAST (R260). -/
def FilterE.raise (e : FilterE) (tid : Nat) (q : BitVec 32) : FilterE :=
  if e.tid == tid && !serialLe q e.last then { e with last := q } else e
/-- The request is performed: LAST, and the cached reply of an atomic. -/
def State.noteDone (s : State) (node : Nat) (r : Req) (rep : Reply) : State :=
  if ofCopy r then s
  else
    let q := BitVec.ofNat 32 r.seq
    let s := s.modFilter node fun l => l.map (·.raise r.who.tid q)
    if reqCounts r then s.modFilter node fun l => cacheReply l r.who.tid q rep else s
/-- The answer to a request: a counted store's good acknowledgement goes to its barrier object (R263). -/
def State.answer (s : State) (node : Nat) (r : Req) (rep : Reply) : State :=
  match r.bar, rep with
  | some _, .ok _ => s.send node r.who.core (.countedAckArrival r)
  | _, _ => s.send node r.who.core (.acknowledgementArrival r rep)
/-- An `hsift` that fails at a port leaves the heap unit of its core free (R143). -/
def State.heapFree (s : State) (r : Req) (rep : Reply) : State :=
  match r.kind, rep with
  | .heap, .failed _ _ _ =>
    s.at (Nat.max s.cycle (s.coreAt r.who.core).heapUntil) ⟨.hsiftComplete, { core := r.who.core }⟩
  | _, _ => s
/-- Performed: noted in the filter and answered. -/
def State.settleReq (s : State) (node : Nat) (r : Req) (rep : Reply) : State :=
  ((s.noteDone node r rep).heapFree r rep).answer node r rep
/-- A source that finds no free entry is refused and tries again after 1,024 cycles (R260). -/
def State.refuseReq (s : State) (node : Nat) (r : Req) : State :=
  { s with filterWait := s.filterWait ++ [(node, r)] }.after 1024 (.filterRefusalRetry r)

/-! The access itself (R262–R266). -/

/-- What an atomic writes, if it writes (R264). -/
def atomNew (op size : Nat) (signed : Bool) (old b cmp : Nat) : Option Nat :=
  let n := 8 * size
  let le (x y : Nat) : Bool := if signed then decide (sintOf x n ≤ sintOf y n) else decide (x ≤ y)
  match op with
  | 0 => some ((old + b) % 2 ^ n)
  | 1 => some (old &&& b)
  | 2 => some (old ||| b)
  | 3 => some (old ^^^ b)
  | 4 => some (if le old b then old else b)
  | 5 => some (if le b old then old else b)
  | 6 => some b
  | _ => if old = cmp % 2 ^ n then some b else none
/-- The access at its location: the bytes it writes, if any, and its reply. -/
def accessOf (r : Req) (old : List Byte) : Option (List Byte) × Reply :=
  match r.kind with
  | .read => (none, .ok old)
  | .launchRec => (none, .ok old)
  | .copyRead => (none, .ok old)
  | .codeRead => (none, .ok old)
  | .write => (some r.data, .ok [])
  | .copyWrite => (some r.data, .ok [])
  | .atomic => ((atomNew r.op r.size r.signed (leNat old) (leNat r.data) r.cmp.toNat).map (toLE r.size), .ok old)
  | .reduce => ((atomNew r.op r.size r.signed (leNat old) (leNat r.data) r.cmp.toNat).map (toLE r.size), .ok [])
  | .segRead => (none, .ok old)
  | .flush => (none, .ok [])
  | .amsg => (none, .ok [])
  | .tagRead => (none, .ok [])
  | .tagWrite => (none, .ok [])
  | .heap => (none, .ok [])

/-- The access at a scratchpad home, with the home's tag check (R128, R257, R262). -/
def State.atSpad (s : State) (c : Nat) (r : Req) : State × Reply :=
  let off := offOf r.addr
  let bad := if r.tagx then none else (granulesOf off r.size).find? fun g => s.spadTagAt c g != tagOf r.addr
  match bad with
  | some g => (s, .failed 7 1 (tagDetail (tagOf r.addr) (s.spadTagAt c g)))
  | none =>
    let x := accessOf r (s.spadRead c off r.size)
    match x.1 with
    | some bs => (s.spadWrite c off bs r.noundo, x.2)
    | none => (s, x.2)

/-- The access at the PCIe home: a write enters the external write buffer under its source's interval (R343). -/
def State.atHost (s : State) (r : Req) (a : Nat) : State × Reply :=
  let x := accessOf r (s.hostBytes a r.size)
  match x.1 with
  | some bs => ({ s with ewb := s.ewb ++ [⟨BitVec.ofNat 32 r.rin, true, r.pdid, a, bs, none⟩] }, x.2)
  | none => (s, x.2)

/-! Scratchpad homes. -/

/-- The granules a request touches at a scratchpad home. -/
def reqGrans (r : Req) : List Nat := granulesOf (offOf r.addr) r.size
/-- Must a request wait at a scratchpad home: its granule is owned by a copy (R282), or its write has no undo room? -/
def State.coreBlocks (s : State) (c : Nat) (r : Req) : Bool :=
  (reqGrans r).any (if r.who.core = c && !ofCopy r then (s.coreAt c).ownedLate else (s.coreAt c).owned) ||
  (reqWrites r && s.undoBlocks c (reqGrans r))
/-- Does a request lose its bank in this cycle (R121)? Where only the banks of `first` serve the interface first, a
request that needs none of them has no turn. -/
def State.netLoses (s : State) (c : Nat) (r : Req) (first : Option (BitVec 32) := none) : Bool :=
  (s.coreAt c).bankTaken s.cycle (reqGrans r) || first.any fun m => m &&& banksOf (reqGrans r) == 0
/-- The undo logger's turn before a request that writes (R121, R123); none if it needs none. -/
def State.netLog (s : State) (c : Nat) (r : Req) : Option State :=
  if (accessOf r (s.spadRead c (offOf r.addr) r.size)).1.isSome then s.logTurn c (reqGrans r) r.noundo else none
/-- A request is performed at a scratchpad home; a replay is only acknowledged again, a read once more read (DEDUCED, log 12). -/
def State.doCore (s : State) (c : Nat) (r : Req) : State :=
  let s := s.takeBanks c (reqGrans r) .net
  if ofCopy r then
    let x := s.atSpad c r
    x.1.answer c r x.2
  else
    match s.admission c r.who.tid r.seq with
    | (s, .full) => s.refuseReq c r
    | (s, .replay (some rep)) => s.answer c r rep
    | (s, .replay none) =>
      if reqWrites r then s.answer c r (.ok [])
      else
        let x := s.atSpad c r
        x.1.answer c r x.2
    | (s, .fresh) =>
      let x := s.atSpad c r
      x.1.settleReq c r x.2
/-- Serves held requests in order; a source whose request waits holds its later ones (R276, R282). One that loses its bank
in this cycle waits (R121). -/
def State.serveCore (s : State) (c : Nat) (first : Option (BitVec 32) := none) : List Req → List (Nat × Nat) → State
  | [], _ => s
  | r :: rest, blocked =>
    let hold (s : State) : State := s.modCore c fun k => { k with heldReqs := k.heldReqs ++ [r] }
    if blocked.contains (reqSource r) || s.coreBlocks c r || s.netLoses c r first then
      (hold s).serveCore c first rest (reqSource r :: blocked)
    else
      match s.netLog c r with
      | some s => (hold s).serveCore c first rest (reqSource r :: blocked)
      | none => (s.doCore c r).serveCore c first rest blocked
/-- Held requests at a scratchpad home are tried again. -/
def State.releaseReqs (s : State) (c : Nat) (first : Option (BitVec 32) := none) : State :=
  let l := (s.coreAt c).heldReqs
  if l.isEmpty then s else (s.modCore c fun k => { k with heldReqs := [] }).serveCore c first l []
/-- Held requests that no other of their source, no copy and no want of undo room keeps back. -/
def State.netReady (s : State) (c : Nat) : List Req → List (Nat × Nat) → List Req
  | [], _ => []
  | r :: rest, seen =>
    let later := s.netReady c rest (reqSource r :: seen)
    if seen.contains (reqSource r) || s.coreBlocks c r then later else r :: later

/-! The page-request unit (R255, R256). -/

/-- The page a fault record names: 2 MiB, the least page (R252, R255). -/
def pageOf (va : Nat) : Nat := va / 0x200000
/-- Records of a function, grouped or not. -/
def State.priOf (s : State) (vf : Nat) (grouped : Bool) : List PageReq :=
  s.pri.filter fun x => (s.domAt x.pdid).vf == vf && x.group.isSome == grouped
/-- Is a look at a function's waiting records already to come? -/
def State.groupComing (s : State) (vf : Nat) : Bool :=
  s.agenda.any fun x => x.2.ins == .pageRequestGroup && x.2.subj.n == vf && s.cycle < x.1
/-- The next look at a function's waiting records: 512 cycles after the oldest was raised, which is how long its group takes
in others (R256). -/
def State.lookGroup (s : State) (vf : Nat) : State :=
  match s.priOf vf false with
  | [] => s
  | x :: _ => if s.groupComing vf then s else s.at (Nat.max (s.cycle + 1) (x.raised + 512)) ⟨.pageRequestGroup, { n := vf }⟩
/-- The page-request unit takes a port's record of a page, merging it with another's; not while it is full (R255, R256). -/
def State.takeRecord (s : State) (p pdid page : Nat) : Option State :=
  if s.pri.any fun x => x.pdid == pdid && pageOf x.va == page then
    some { s with pri := s.pri.map fun x =>
      if x.pdid == pdid && pageOf x.va == page && !x.ports.contains p then { x with ports := x.ports ++ [p] } else x }
  else if s.pri.length < 4096 then
    some (({ s with pri := s.pri ++ [⟨pdid, page * 0x200000, [p], none, s.cycle⟩] } : State).lookGroup (s.domAt pdid).vf)
  else none
/-- A port keeps a record that the unit has not taken, behind those it keeps already (R19, R256). -/
def State.keepRecord (s : State) (p pdid page : Nat) : State :=
  s.modPort p fun q => { q with offers := if q.offers.contains (pdid, page) then q.offers else q.offers ++ [(pdid, page)] }
/-- A port offers the fault record of a page (R255, R256), behind those that the unit has not taken yet (R19). -/
def State.faultRecord (s : State) (p pdid page : Nat) : State :=
  if !(s.portAt p).offers.isEmpty then s.keepRecord p pdid page
  else
    match s.takeRecord p pdid page with
    | some s => s
    | none => (s.keepRecord p pdid page).after 1024 .faultRecordReoffer { n := p }
/-- A port's fault on a page: the record, and the notice to the issuing core unless a copy faulted (R255). -/
def State.raiseFault (s : State) (p : Nat) (r : Req) (page : Nat) : State :=
  let s :=
    if ofCopy r then s
    else if (s.portAt p).notified.any (·.1 == r.who) then
      s.modPort p fun q => { q with notified := q.notified.map fun x => if x.1 == r.who then (x.1, false) else x }
    else
      (s.modPort p fun q => { q with notified := q.notified ++ [(r.who, false)] }).send (portNode p) r.who.core
        (.faultNotice r.who p)
  s.faultRecord p r.pdid page
/-- The unit sends a group to the host, within the function's allowance: the oldest record that waits, once 512 cycles have
passed since it was raised, with those raised in them (R256). -/
def execPageRequestGroup (s : State) : Out :=
  let vf := s.subj.n
  match s.priOf vf false with
  | [] => .next s
  | x :: _ =>
    let room := (tget s.priAlloc vf).getD 0 - (s.priOf vf true).length
    let take := if s.priOff.contains vf then []
      else ((s.priOf vf false).filter (·.raised ≤ x.raised + 512)).take (Nat.min 32 room)
    if s.cycle < x.raised + 512 then .next (s.lookGroup vf)
    else if take.isEmpty then .next s
    else
      let g := s.priGroups % 512
      .next (({ s with
        priGroups := s.priGroups + 1
        pri := s.pri.map fun x => if take.contains x then { x with group := some g } else x } : State).lookGroup vf)
/-- A function's allowance or leave to send has changed: the records that wait are looked at again (R256). -/
def State.regroup (s : State) (vf : Nat) : State := s.lookGroup vf
/-- A port offers what a full unit has not taken, oldest first, and goes on as long as the unit takes it. -/
def State.offerAll (s : State) (p : Nat) : List (Nat × Nat) → State
  | [] => s.modPort p fun q => { q with offers := [] }
  | x :: rest =>
    match s.takeRecord p x.1 x.2 with
    | some s => s.offerAll p rest
    | none => (s.modPort p fun q => { q with offers := x :: rest }).after 1024 .faultRecordReoffer { n := p }
/-- A port offers its records again to a unit that was full, or that lost them (R256, R349). -/
def execFaultRecordReoffer (s : State) : Out :=
  let p := s.subj.n
  let q := s.portAt p
  let pages := (q.held.filter (·.fault)).map fun h => (h.req.pdid, h.page)
  .next (s.offerAll p (q.offers ++ pages).eraseDups)

/-! Port homes (R254, R255). -/

/-- Bytes at a place (R251, R253). -/
def State.locRead (s : State) (l : Loc) (n : Nat) : List Byte :=
  match l with
  | .hbm q o => mread s.hbm (hbmKey q o) n
  | .host a => s.hostBytes a n
/-- A request's write at a place. -/
def State.locWrite (s : State) (r : Req) (l : Loc) (nu : Bool) (bs : List Byte) : State :=
  match l with
  | .hbm q o => s.portWrite q o bs nu
  | .host a => { s with ewb := s.ewb ++ [⟨BitVec.ofNat 32 r.rin, true, r.pdid, a, bs, none⟩] }
/-- Does the granule at a place hold another tag than the request's (R128)? Host memory carries none (R15). -/
def State.locTag (s : State) (r : Req) (l : Loc) : Option (BitVec 4) :=
  match l with
  | .hbm q o =>
    let got := (mget s.hbmTag (hbmKey q (o / 64))).setWidth 4
    if !r.tagx && got != tagOf r.addr then some got else none
  | .host _ => none
/-- A byte's place by the translations a port holds. -/
def State.placeOf (s : State) (p : Nat) (r : Req) (va : Nat) : Loc × Bool :=
  match s.cached p r.pdid va with
  | some t => (s.inHost r.pdid (leafLoc t.leaf t.base va), r.noundo || t.leaf.getLsbD 57)
  | none => (.host 0, false)
/-- Bytes of a request's heap, by the translations a port holds. -/
def State.heapNat (s : State) (p : Nat) (r : Req) (i n : Nat) : Nat := leNat (s.locRead (s.placeOf p r (vaOf r.addr + i)).1 n)
/-- The writes of an `hsift` at a port: where in the heap, and what (R142). -/
def State.heapPuts (s : State) (p : Nat) (r : Req) : List (Nat × List Byte) :=
  let cap := s.heapNat p r 0 4
  let n := s.heapNat p r 4 4
  if heapBad cap r.gran then []
  else heapWrites cap n ((List.range (Nat.min n cap)).map fun i => s.heapNat p r (16 + 8 * i) 8) (leNat r.data)
/-- Do all the writes of an `hsift` at a port find room together: for the records of their granules at each port, and in the
external write buffer (R342, R344)? -/
def State.heapRoom (s : State) (p : Nat) (r : Req) : Bool :=
  let puts := (s.heapPuts p r).map fun x => (s.placeOf p r (vaOf r.addr + x.1), x.2.length)
  let need := (puts.filterMap fun x => match x.1.1 with
    | .hbm q o =>
      if s.hasUndo (s.rinOf (portNode q)) (portNode q) (o / 64) false then none else some (q, o / 64, undoSize x.1.2)
    | .host _ => none).eraseDups
  let host := puts.foldl (fun n x => match x.1.1 with | .host _ => n + x.2 | .hbm _ _ => n) 0
  s.ewbRoom host && need.all fun x =>
    (s.portAt x.1).undoBytes + ((need.filter (·.1 == x.1)).foldl (fun n y => n + y.2.2) 0) ≤ s.undoRegion
/-- `hsift` at the port that is its operand's home (R143, R290); `gran` is what the segment leaves the heap. -/
def State.heapAt (s : State) (p : Nat) (r : Req) : State × Reply :=
  let va := vaOf r.addr
  let cap := s.heapNat p r 0 4
  let n := s.heapNat p r 4 4
  let puts := s.heapPuts p r
  let s := s.heapBusy (portCore p) n
  if heapBad cap r.gran then (s, .failed 5 1 0)
  else
    match (List.range ((16 + 8 * cap + 63) / 64)).findSome? fun i => s.locTag r (s.placeOf p r (va + 64 * i)).1 with
    | some got => (s, .failed 7 1 (tagDetail (tagOf r.addr) got))
    | none =>
      (puts.foldl
        (fun (s : State) (x : Nat × List Byte) => s.locWrite r (s.placeOf p r (va + x.1)).1 (s.placeOf p r (va + x.1)).2 x.2) s, .ok [])
/-- A granule's tag is written at a port (R132). -/
def State.portTag (s : State) (q g : Nat) (tag : BitVec 4) (nu : Bool) : State :=
  let s := s.undoPort q g nu
  { s with hbmTag := mset s.hbmTag (hbmKey q g) (tag.setWidth 8) }
/-- A write that finds the external write buffer full asks for a cut (R344). -/
def State.askRoom (s : State) (r : Req) (l : Loc) : State :=
  match l with
  | .host _ => if reqWrites r && !s.ewbRoom r.size then s.requestCut pcieNode (s.cutNo.toNat + 1) else s
  | .hbm _ _ => s
/-- A request at the place its translation names; none when it waits for undo or buffer room (R342, R344), or behind what
of its source waits at the PCIe home. -/
def State.atPort (s : State) (p : Nat) (r : Req) : State × Option Reply :=
  let wr := reqWrites r
  let x := s.placeOf p r (vaOf r.addr)
  let full := match x.1 with
    | .host _ => (wr && !s.ewbRoom r.size) || s.ewbHeld.any fun y => reqSource y == reqSource r
    | .hbm q l => wr && !s.portTakes q l x.2
  match s.locTag r x.1 with
  | some got => (s, some (.failed 7 1 (tagDetail (tagOf r.addr) got)))
  | none =>
    if full then (s.askRoom r x.1, none)
    else
      match r.kind, x.1 with
      | .heap, l =>
        let y := s.heapAt p r
        if s.heapRoom p r then (y.1, some y.2) else (s.askRoom r l, none)
      | .tagRead, .hbm q l => (s, some (.ok [(mget s.hbmTag (hbmKey q (l / 64)))]))
      | .tagRead, .host _ => (s, some (.ok [0]))
      | .tagWrite, .hbm q l => (s.portTag q (l / 64) ((r.data.headD 0).setWidth 4) x.2, some (.ok []))
      | .tagWrite, .host _ => (s, some (.ok []))
      | _, l =>
        let y := accessOf r (s.locRead l r.size)
        match y.1 with
        | some bs => (s.locWrite r l x.2 bs, some y.2)
        | none => (s, some y.2)
/-- The fault hold's capacity (R255). -/
def holdSize : Nat := 4096
/-- Requests in a fault hold: those that faulted, and the later ones of their sources (R255). -/
def holdCount (l : List HeldReq) : Nat := l.countP fun h => l.any fun x => x.fault && reqSource x.req == reqSource h.req
/-- Requests in a port's fault hold. -/
def Port.inHold (q : Port) : Nat := holdCount q.held
/-- The addresses whose pages a request needs: its own, and the end of the heap it names (R143). -/
def State.needs (s : State) (p : Nat) (r : Req) : List Nat :=
  let va := vaOf r.addr
  if r.kind == .heap && (s.cached p r.pdid va).isSome then
    let cap := leNat (s.locRead (s.placeOf p r va).1 4)
    if cap ≤ 8192 then [va, va + 15 + 8 * cap] else [va]
  else [va]
/-- Does a page refuse a request (R254)? -/
def State.pageDenies (s : State) (p : Nat) (r : Req) (va : Nat) : Option Nat :=
  (s.cached p r.pdid va).bind fun t => leafDenies t.leaf (reqWrites r) (r.kind == .codeRead || r.kind == .segRead)
/-- A request whose pages a port has translated. -/
def State.tryHeld (s : State) (p : Nat) (r : Req) (vas : List Nat) : State × Option HeldReq :=
  let node := portNode p
  match vas.findSome? (s.pageDenies p r) with
  | some sub => (s.settleReq node r (.failed 10 sub 0), none)
  | none =>
    let wait : HeldReq := ⟨r, false, true, pageOf (vaOf r.addr)⟩
    if vas.any fun va => (s.cached p r.pdid va).any fun t => s.touchWaits t (reqWrites r) then (s, some wait)
    else
      let s := vas.foldl (fun (s : State) va => match s.cached p r.pdid va with
        | some t => (s.touchLeaf p t (reqWrites r)).1
        | none => s) s
      match s.atPort p r with
      | (s, some rep) => (s.settleReq node r rep, none)
      | (s, none) => (s, some wait)
/-- A request that misses the cache on a page; `rest` waits behind it. -/
def State.tryMiss (s : State) (p : Nat) (r : Req) (va : Nat) (res : Option (Nat × Nat × Walk)) (rest : List HeldReq) :
    State × Option HeldReq :=
  let node := portNode p
  let page := pageOf va
  match res.filter fun w => w.1 == r.pdid && w.2.1 == page with
  | some (_, _, .denied sub) => (s.settleReq node r (.failed 10 sub 0), none)
  | some (_, _, .fault) =>
    let s' := s.raiseFault p r page
    if holdCount ((s.portAt p).held ++ rest) ≥ holdSize then (s'.modPort p fun q => { q with refused := q.refused ++ [r] }, none)
    else (s', some ⟨r, true, false, page⟩)
  | _ =>
    let q := s.portAt p
    if q.walks.contains (r.pdid, page) || q.walks.length ≥ 16 then (s, some ⟨r, false, false, page⟩)
    else
      ((s.modPort p fun q => { q with walks := q.walks ++ [(r.pdid, page)] }).send node node .pageWalkComplete
        { n := p, m := r.pdid, w := wd va }, some ⟨r, false, false, page⟩)

/-- Tries one request at a port: its hold entry if it must wait, none if it is settled or refused. `res` is the outcome of a
walk that has just completed, and `rest` what waits behind the request. -/
def State.tryPort (s : State) (p : Nat) (r : Req) (res : Option (Nat × Nat × Walk)) (rest : List HeldReq) :
    State × Option HeldReq :=
  let node := portNode p
  let a := if ofCopy r then (s, Admission.fresh) else s.admission node r.who.tid r.seq
  let s := a.1
  match a.2 with
  | .full => (s.refuseReq node r, none)
  | .replay (some rep) => (s.answer node r rep, none)
  | _ =>
    if a.2 == .replay none && (reqWrites r || r.kind == .flush) then (s.answer node r (.ok []), none)
    else if r.kind == .flush then (s.settleReq node r (.ok []), none)
    else
      let vas := s.needs p r
      match vas.find? fun va => (s.cached p r.pdid va).isNone with
      | none => s.tryHeld p r vas
      | some va => s.tryMiss p r va res rest
/-- Serves a port's requests in order; a source whose request waits holds its later ones, and one whose request a full hold
has refused has its later ones refused behind it (R255, R259). -/
def State.serveList (s : State) (p : Nat) (res : Option (Nat × Nat × Walk)) :
    List HeldReq → List (Nat × Nat) → List (Nat × Nat) → State
  | [], _, _ => s
  | h :: rest, blocked, gone =>
    let src := reqSource h.req
    let keep (s : State) (h : HeldReq) : State := s.modPort p fun q => { q with held := q.held ++ [h] }
    if gone.contains src then
      (s.modPort p fun q => { q with refused := q.refused ++ [h.req] }).serveList p res rest blocked gone
    else if h.fault || blocked.contains src then (keep s h).serveList p res rest (src :: blocked) gone
    else
      match s.tryPort p h.req res rest with
      | (s, none) => s.serveList p res rest blocked (if (s.portAt p).refused.contains h.req then src :: gone else gone)
      | (s, some h') => (keep s h').serveList p res rest (src :: blocked) gone
/-- Sends WAKE to the sources it is due to that have nothing left at a port, and to the copies whose requests the hold
refused (R255). -/
def State.wakePort (s : State) (p : Nat) (copies : Bool) : State :=
  let q := s.portAt p
  let go := (q.notified.filter fun x => x.2 && !q.held.any fun h => h.req.who == x.1 && !ofCopy h.req).map (·.1)
  let cs := if copies then ((q.refused.filter ofCopy).map (·.who)).eraseDups else []
  let s := s.modPort p fun q => { q with notified := q.notified.filter fun x => !go.contains x.1 }
  let wake (b : Bool) (s : State) (w : SlotRef) : State :=
    s.send (portNode p) w.core .wakeNotice { core := w.core, slot := w.slot, n := p, m := w.tid, b := b }
  cs.foldl (wake true) (go.foldl (wake false) s)
/-- Serves a port, unless a refresh holds it (R389). -/
def State.servePort (s : State) (p : Nat) (res : Option (Nat × Nat × Walk)) : State :=
  if (s.portAt p).refresh then s
  else ((s.modPort p fun q => { q with held := [] }).serveList p res (s.portAt p).held [] []).wakePort p false
/-- A request reaches a port. It may meet a refresh, which then ends as a step of its own (R389). -/
def State.arrivePort (s : State) (p : Nat) (r : Req) : State :=
  let q := s.portAt p
  if q.refused.any (fun x => reqSource x == reqSource r) ||
      (q.inHold ≥ holdSize && q.held.any fun h => h.fault && reqSource h.req == reqSource r) then
    s.modPort p fun q => { q with refused := q.refused ++ [r] }
  else
    let s := s.modPort p fun q => { q with held := q.held ++ [⟨r, false, false, pageOf (vaOf r.addr)⟩] }
    let d := if q.refresh then (s, 0) else s.draw 2
    if d.2 = 1 then
      (d.1.modPort p fun q => { q with refresh := true }).send (portNode p) (portNode p) .hbmRefresh { n := p }
    else d.1.servePort p none
/-- A refresh ends (R389). -/
def execHbmRefresh (s : State) : Out :=
  .next ((s.modPort s.subj.n fun q => { q with refresh := false }).servePort s.subj.n none)

/-- A walk completes: a leaf enters the cache, and what waited is tried with its outcome (R254). -/
def execPageWalkComplete (s : State) : Out :=
  let p := s.subj.n
  let pdid := s.subj.m
  let va := s.subj.w.toNat
  let s := s.modPort p fun q => { q with walks := q.walks.filter (· != (pdid, pageOf va)) }
  let w := s.walk pdid va
  let s := match w with
    | .leaf e base size ep eo => s.cacheLeaf p pdid base size e ep eo
    | _ => s
  .next (s.servePort p (some (pdid, pageOf va, w)))

/-- The sources to which a settled page owes a WAKE: those with a request on it, and those the hold refused (R255). -/
def Port.oweWake (q : Port) (mine : HeldReq → Bool) : Port :=
  { q with notified := q.notified.map fun x =>
      (x.1, x.2 || q.held.any (fun h => mine h && h.req.who == x.1) || q.refused.any fun r => r.who == x.1 && !ofCopy r) }
/-- The host's response reaches a port for a page (R256). -/
def State.settlePage (s : State) (p pdid page : Nat) (resp : PrgResp) : State :=
  let mine (h : HeldReq) : Bool := h.fault && h.req.pdid == pdid && h.page == page
  let s := s.modPort p (·.oweWake mine)
  match resp with
  | .success =>
    let s := s.modPort p fun q => { q with held := q.held.map fun h => if mine h then { h with fault := false } else h }
    (s.servePort p none).wakePort p true
  | _ =>
    let sub := if resp == .invalid then 2 else 3
    let out := (s.portAt p).held.filter mine
    let s := s.modPort p fun q => { q with held := q.held.filter fun h => !mine h }
    let s := out.foldl (fun s h => s.settleReq (portNode p) h.req (.failed 10 sub 0)) s
    (s.servePort p none).wakePort p true
/-- The host's page-request group response (R256). -/
def execPrgResponse (group : Nat) (resp : PrgResp) (s : State) : Out :=
  let recs := s.pri.filter (·.group == some group)
  let s := { s with pri := s.pri.filter (·.group != some group) }
  let vfs := (recs.map fun x => (s.domAt x.pdid).vf).eraseDups
  let s := if resp == .failure then { s with priOff := s.priOff ++ vfs.filter fun v => !s.priOff.contains v } else s
  let s := recs.foldl (fun s x => x.ports.foldl (fun s p => s.settlePage p x.pdid (pageOf x.va) resp) s) s
  .next (vfs.foldl (fun s v => s.regroup v) s)

/-- A FAULT notice parks the slot (R255). -/
def execFaultNotice (who : SlotRef) (port : Nat) (s : State) : Out :=
  match s.who who with
  | none => .next s
  | some _ =>
    .next ((s.modWho who fun t => { t with faulted := t.faulted ++ [port] }).park who.core who.slot Park.other)
/-- The request that a step brings to its home. -/
def reqIn (e : Ev) : Option Req :=
  match e.ins with
  | .globalRead r => some r
  | .globalWrite r => some r
  | .atomicAtHome r => some r
  | .flushReadAtHome r => some r
  | _ => none
/-- A WAKE: the slot's parked bundle reissues once no port holds it, and the interface sends again what the hold refused,
ahead of what it has sent to the port since (R255, R259). -/
def execWakeNotice (s : State) : Out :=
  let w : SlotRef := ⟨s.subj.core, s.subj.slot, s.subj.m⟩
  let p := s.subj.n
  let mine (r : Req) : Bool := r.who == w && ofCopy r == s.subj.b
  let again := (s.portAt p).refused.filter mine
  let s := s.modPort p fun q => { q with refused := q.refused.filter fun r => !mine r }
  let later (m : NetMsg) : Bool := m.dst == portNode p && (reqIn m.ev).any fun r => again.any fun x => reqSource x == reqSource r
  let since := s.net.filter later
  let s := again.foldl (fun (s : State) r => s.send w.core (portNode p) (reqStep r)) { s with net := s.net.filter fun m => !later m }
  let s := { s with net := s.net ++ since }
  .next (if s.subj.b then s else s.modWho w fun t =>
    let l := t.faulted.filter (· != p)
    { t with faulted := l, parked := if l.isEmpty then false else t.parked })

/-! The PCIe home. -/

/-- A write to a host-backed page that waits at a port for want of buffer room (R343, R344). -/
def State.hostWaits (s : State) (p : Nat) (h : HeldReq) : Bool :=
  h.undo && reqWrites h.req && (match (s.placeOf p h.req (vaOf h.req.addr)).1 with | .host _ => true | .hbm _ _ => false)
/-- Does a source's write to a host-backed page wait at a port? -/
def State.portHolds (s : State) (src : Nat × Nat) : Bool :=
  s.ports.any fun (x : Nat × Port) => x.2.held.any fun h => reqSource h.req == src && s.hostWaits x.1 h

/-- A request at the PCIe home; a write without room waits and a cut is asked for, and what follows it of its source waits
with it, though the write names a host-backed page and waits at its port (R344). -/
def State.arriveHost (s : State) (r : Req) : State :=
  if s.ewbHeld.any (fun x => reqSource x == reqSource r) || s.portHolds (reqSource r) then { s with ewbHeld := s.ewbHeld ++ [r] }
  else
    let a := if ofCopy r then (s, Admission.fresh) else s.admission pcieNode r.who.tid r.seq
    let s := a.1
    match a.2 with
    | .full => s.refuseReq pcieNode r
    | .replay (some rep) => s.answer pcieNode r rep
    | x =>
      if x == .replay none && reqWrites r then s.answer pcieNode r (.ok [])
      else if reqWrites r && !s.ewbRoom r.size then
        { s with ewbHeld := s.ewbHeld ++ [r] }.requestCut pcieNode (s.cutNo.toNat + 1)
      else
        let y := s.atHost r (s.hostKey r.pdid (wbits r.addr 0 48))
        y.1.settleReq pcieNode r y.2
/-- Writes held for want of buffer room try again (R344). -/
def State.releaseHost (s : State) : State :=
  let late := s.ewbLate
  let s := late.foldl (fun s e => s.enterEwb e) { s with ewbLate := [] }
  let l := s.ewbHeld
  l.foldl (fun s r => s.arriveHost r) { s with ewbHeld := [] }

/-! Active messages at their home (R267). -/

/-- An active message as a request: the one its answer names. -/
def amsgReq (m : AMsg) : Req where
  node := m.home
  who := m.who
  org := m.org
  kind := .amsg
  addr := m.addr
  size := 0
  data := []
  cmp := 0
  op := 0
  ty := 0
  signed := false
  dst := m.dst
  dc := none
  bar := none
  tagx := m.tagx
  noundo := false
  pdid := m.pdid
  rin := 0
  cls := m.cls
  seq := m.seq
  copyId := 0
  gran := 0
/-- The refusal at the home (R267). -/
def Core.amRefuses (k : Core) (m : AMsg) : Option (Nat × Nat) :=
  if !k.v || k.pdid != m.pdid then some (0x10, 2)
  else if !k.amen then some (0x10, 3)
  else if (k.codeEntry m.task 0).isNone then some (0x17, 2)
  else none
/-- The tag check of an active message's address at its home (R128, R261); an address that no page maps has no granule. -/
def State.amTag (s : State) (m : AMsg) : State × Option Reply :=
  let r := amsgReq m
  let bad (got : BitVec 4) : Option Reply := some (.failed 7 1 (tagDetail (tagOf m.addr) got))
  if m.tagx then (s, none)
  else if spaceOf m.addr = 1 then
    let got := s.spadTagAt m.home (offOf m.addr / 64)
    (s, if got == tagOf m.addr then none else bad got)
  else
    match s.translate m.pdid (vaOf m.addr) with
    | (s, some x) => (s, (s.locTag r (leafLoc x.leaf x.base (vaOf m.addr))).bind bad)
    | (s, none) => (s, none)
/-- An active message reaches its home, which admits it or refuses it (R267); it passes the replay filter (R260). -/
def State.arriveAm (s : State) (m : AMsg) : State :=
  let c := m.home
  let r := amsgReq m
  match s.admission c m.who.tid m.seq with
  | (s, .full) => s.refuseReq c r
  | (s, .replay (some (.ok b))) => s.send c m.who.core (.amsgReply m (wd (leNat b)))
  | (s, .replay (some rep)) => s.answer c r rep
  | (s, .replay none) => s
  | (s, .fresh) =>
    match (s.coreAt c).amRefuses m with
    | some t => s.settleReq c r (.failed t.1 t.2 0)
    | none =>
      match s.amTag m with
      | (s, some rep) => s.settleReq c r rep
      | (s, none) =>
        (s.modFilter c fun l => l.map (·.raise m.who.tid (BitVec.ofNat 32 m.seq))).modCore c fun k => { k with amq := k.amq ++ [m] }
/-- Does an earlier request of the same thread still wait at an active message's home, or at the port it names (R259)? -/
def State.amWaits (s : State) (m : AMsg) : Bool :=
  let mine (r : Req) : Bool := r.who.tid == m.who.tid && !ofCopy r
  (s.coreAt m.home).heldReqs.any mine ||
    spaceOf m.addr != 1 && (corePort m.home).any fun p =>
      (s.portAt p).held.any (fun h => mine h.req) || (s.portAt p).refused.any mine

/-! Arrivals (R258–R260). -/

/-- Does a request of the thread wait for a free filter entry at a home, or behind one that does (R260)? -/
def State.filtered (s : State) (node tid : Nat) : Bool := s.filterWait.any fun x => x.1 == node && x.2.who.tid == tid
/-- Is a request behind others of its thread that wait for a filter entry: an active message among them, at the port core
of its port (R259, R260)? -/
def State.behind (s : State) (r : Req) : Bool :=
  !ofCopy r && (s.filtered r.node r.who.tid ||
    4096 ≤ r.node && r.node < 4352 && s.filterWait.any fun x =>
      x.1 == portCore (r.node - 4096) && x.2.who.tid == r.who.tid && x.2.kind == .amsg && spaceOf x.2.addr != 1)
/-- A request waits at a home without an entry. -/
def State.queueFilter (s : State) (r : Req) : State := { s with filterWait := s.filterWait ++ [(r.node, r)] }
/-- An active message that nothing waits before at its home. -/
def State.admitAm (s : State) (m : AMsg) : State :=
  if s.amWaits m then (s.queueFilter (amsgReq m)).after 1 (.filterRefusalRetry (amsgReq m)) else s.arriveAm m
/-- A request arrives at its home: the one its source's table gave as it was sent (R16). -/
def State.arrive (s : State) (r : Req) : State :=
  if s.behind r then s.queueFilter r
  else if r.kind == .amsg then
    match (s.coreAt r.who.core).amOut.find? fun m => m.who.tid == r.who.tid && m.seq == r.seq with
    | none => s
    | some m => s.admitAm m
  else if r.node < 4096 then
    if (s.coreAt r.node).heldReqs.any (fun x => reqSource x == reqSource r) then
      s.modCore r.node fun k => { k with heldReqs := k.heldReqs ++ [r] }
    else s.serveCore r.node none [r] []
  else if r.node < 4352 then s.arrivePort (r.node - 4096) r
  else s.arriveHost r

/-- A read arrives (R262). -/
def execGlobalRead (r : Req) (s : State) : Out := .next (s.arrive r)
/-- A write arrives (R262). -/
def execGlobalWrite (r : Req) (s : State) : Out := .next (s.arrive r)
/-- An atomic or a reduction arrives (R264, R265). -/
def execAtomicAtHome (r : Req) (s : State) : Out := .next (s.arrive r)
/-- A flushing read arrives (R266). -/
def execFlushReadAtHome (r : Req) (s : State) : Out := .next (s.arrive r)
/-- An active message arrives (R267). -/
def execAmsgArrival (m : AMsg) (s : State) : Out :=
  .next (if s.behind (amsgReq m) then s.queueFilter (amsgReq m) else s.admitAm m)
/-- A refused source's requests are resent in their order (R260): those to the home, and those that wait behind an active
message at the port core of their port. -/
def execFilterRefusalRetry (r : Req) (s : State) : Out :=
  let mine (x : Nat × Req) : Bool := x.2.who.tid == r.who.tid &&
    (x.1 == r.node || (4096 ≤ x.1 && x.1 < 4352 && portCore (x.1 - 4096) == r.node))
  let l := s.filterWait.filter mine
  let s := { s with filterWait := s.filterWait.filter fun x => !mine x }
  .next (l.foldl (fun s x => s.arrive x.2) s)

/-! Copies (R270, R271). -/

/-- A copy in flight. -/
def State.copyAt (s : State) (c id : Nat) : Option CopyOp := (s.coreAt c).copies.find? (·.id == id)
/-- Applies a function to a copy. -/
def State.modCopy (s : State) (c id : Nat) (f : CopyOp → CopyOp) : State :=
  s.modCore c fun k => { k with copies := k.copies.map fun o => if o.id == id then f o else o }
/-- An address `n` bytes on. -/
def addOff (a : Word) (n : Int) : Word := Seg.addr ⟨a, 0⟩ n
/-- Bytes of one unit: a granule or a row. -/
def CopyOp.unitBytes (o : CopyOp) : Nat := if o.rowb = 0 then 64 else o.rowb
/-- Settles the current granule or row: ownership of what no later unit touches is released, and the last one writes
the token (R122, R270). -/
def State.copySettle (s : State) (c : Nat) (o : CopyOp) (fail : Option (Nat × Nat)) : State :=
  let n := o.unitBytes
  let done := (o.gran + 1) * n ≥ o.len
  let next := offOf o.dst + (o.gran + 1) * n
  let f := o.fail <|> fail.map fun x => (x.1, x.2, o.gran)
  let o' := { o with
    gran := o.gran + 1, buf := [], fail := f
    put := 0
    owned := if done then [] else o.owned.filter fun g => 64 * (g + 1) > next }
  let s :=
    if done then
      (s.modCore c fun k => { k with copies := k.copies.filter (·.id != o.id) }).writeFull o.who (.sreg o.tok) (copyToken f)
    else (s.modCopy c o.id fun _ => o').after 1 .copyGranule { core := c, n := o.id }
  s.releaseReqs c
/-- A request of a copy (R270). -/
def State.copyReq (s : State) (c : Nat) (o : CopyOp) (kind : ReqKind) (a : Word) (n : Nat) (bs : List Byte) : Req where
  node := homeNode c (s.homeOf c a)
  who := o.who
  org := o.org
  kind := kind
  addr := a
  size := n
  data := bs
  cmp := 0
  op := 0
  ty := 0
  signed := false
  dst := .none
  dc := none
  bar := none
  tagx := if kind == .copyRead then o.srcTagx else o.dstTagx
  noundo := kind == .copyWrite && o.dstNoundo
  pdid := o.pdid
  rin := (s.coreAt c).rinCur.toNat
  cls := 0
  seq := 0
  copyId := o.id
  gran := o.gran
/-- Where the current unit is written. -/
def CopyOp.unitAddr (o : CopyOp) : Word := addOff o.dst (o.gran * o.unitBytes)
/-- Does the engine write the unit itself: at the own scratchpad? -/
def State.copyOwn (s : State) (c : Nat) (o : CopyOp) : Bool := s.homeOf c o.unitAddr == .core c
/-- A unit has been read: it waits for the engine's turn at the own scratchpad (R121), or its write is sent to the
destination's home (R270), as far as the tables still give it one (R15). -/
def State.copyWrite (s : State) (c : Nat) (o : CopyOp) (bs : List Byte) : State :=
  if let some t := s.r15Span c o.unitAddr bs.length then s.copySettle c o (some t)
  else if s.copyOwn c o then s.modCopy c o.id fun x => { x with buf := bs }
  else
    let r := s.copyReq c o .copyWrite o.unitAddr bs.length bs
    (s.modCopy c o.id fun x => { x with buf := [] }).send c r.node (.globalWrite r)
/-- The engine's turn at the own scratchpad: a granule of a unit that has been read (R121, R270). A unit one of whose
granules has another tag writes nothing. -/
def State.copyPut (s : State) (c : Nat) (o : CopyOp) : State :=
  let off := offOf o.unitAddr + o.put
  let bs := (o.buf.drop o.put).take (64 - off % 64)
  let g := off / 64
  if o.put = 0 && !o.dstTagx && (granulesOf off o.buf.length).any fun g => s.spadTagAt c g != tagOf o.unitAddr then
    s.copySettle c o (some (7, 1))
  else
    let s := (s.takeBanks c [g] .copy).spadWrite c off bs o.dstNoundo
    if o.put + bs.length ≥ o.buf.length then s.copySettle c o none
    else s.modCopy c o.id fun x => { x with put := o.put + bs.length }
/-- Is a granule owned by a copy that issued before copy `id`, whose reads then see its write (R282; DEDUCED, log 71)? -/
def Core.ownedBefore (k : Core) (id g : Nat) : Bool := k.copies.any fun x => x.id < id && x.owned.contains g
/-- Where the next bytes of the current unit are read: the address and how many, or the failure of the check of R15, which
each request meets as it leaves, or of the row's bound check, made on its exact offset (R126, R271). -/
def State.copyFrom (s : State) (c : Nat) (o : CopyOp) : Except (Nat × Nat) (Word × Nat) :=
  if o.rowb = 0 then
    let a := addOff o.src (64 * o.gran)
    match s.r15Span c a 64 with
    | some t => .error t
    | none => .ok (a, 64)
  else
    let at_ := o.list + 4 * o.gran
    let idx := leNat (s.spadRead c at_ 4)
    let a := addOff o.src (idx * o.rowb)
    let rel : Int := o.srcOff + (idx * o.rowb : Nat)
    if !o.dstTagx && s.spadTagAt c (at_ / 64) != tagOf o.dst then .error (7, 1)
    else if rel < 0 || rel + o.rowb > o.srcLimit then .error (5, 1)
    else
      match s.r15Span c a o.rowb with
      | some t => .error t
      | none =>
        let x := addOff a o.buf.length
        .ok (x, Nat.min (o.rowb - o.buf.length) (64 - x.toNat % 64))
/-- Bytes of the current unit have been read, or the read failed (R270). -/
def State.copyData (s : State) (c id gran : Nat) (rep : Reply) : State :=
  match (s.copyAt c id).filter (·.gran == gran) with
  | none => s
  | some o =>
    match rep with
    | .failed cause sub _ => s.copySettle c o (some (cause, sub))
    | .ok bs =>
      let buf := o.buf ++ bs
      if buf.length ≥ o.unitBytes then s.copyWrite c o buf
      else (s.modCopy c id fun x => { x with buf := buf }).after 0 .copyGranule { core := c, n := id }
/-- The engine's read of its own scratchpad, at its turn (R121, R270). -/
def State.copyLocal (s : State) (c id gran : Nat) : State :=
  match (s.copyAt c id).filter (·.gran == gran) with
  | none => s
  | some o =>
    match s.copyFrom c o with
    | .error f => s.copySettle c o (some f)
    | .ok (a, n) =>
      if !o.srcTagx && s.spadTagAt c (offOf a / 64) != tagOf a then s.copySettle c o (some (7, 1))
      else s.copyData c id gran (.ok (s.spadRead c (offOf a) n))

/-- The granule a copy reads or writes next at the own scratchpad: it writes once it has read its unit. -/
def State.copyNext (s : State) (c : Nat) (o : CopyOp) : Option Nat :=
  if o.due then
    match s.copyFrom c o with
    | .ok (a, _) => some (offOf a / 64)
    | .error _ => none
  else if o.buf.length ≥ o.unitBytes && s.copyOwn c o then some ((offOf o.unitAddr + o.put) / 64)
  else none
/-- One copy at the end of a cycle: it reads, or writes, or the undo logger takes its turn before a write, or it waits for
its bank, for undo room (R121, R123) or for an earlier copy's write (R282). Where only the banks of `first` serve the engine
first, it has its turn there alone. -/
def State.copyTurn (s : State) (c : Nat) (o : CopyOp) (first : Option (BitVec 32) := none) : State :=
  match s.copyNext c o with
  | none => if o.due then s.copyLocal c o.id o.gran else s
  | some g =>
    if (s.coreAt c).bankTaken s.cycle [g] || first.any fun m => !m.getLsbD (bankOf g) then s
    else if o.due then
      if (s.coreAt c).ownedBefore o.id g then s
      else ((s.takeBanks c [g] .copy).modCopy c o.id fun x => { x with due := false }).copyLocal c o.id o.gran
    else if s.undoBlocks c [g] then s
    else (s.logTurn c [g] o.dstNoundo).getD (s.copyPut c o)
/-- The copy engine's turn, after every other requester (R121): every copy of the core in order, and the banks it has lost
are counted. -/
def State.copyRound (s : State) (c : Nat) : State :=
  if (s.coreAt c).paused then s
  else
    let s := (s.coreAt c).copies.foldl (fun (s : State) o => s.copyTurn c o) s
    let k := s.coreAt c
    let b := k.banks.enter s.cycle
    let lost := countLost (b.used &&& ~~~b.byCopy &&& banksOf (k.copies.filterMap (s.copyNext c ·))) b.copyLost
    if lost = b.copyLost then s else s.setCore c { k with banks := { b with copyLost := lost } }
/-- Must a copy's next read wait: for the thread's local accesses before the copy (R270), or for an earlier copy that owns
the granule its list entry lies in (R282)? -/
def State.copyWaits (s : State) (c : Nat) (o : CopyOp) : Bool :=
  o.gran = 0 && o.waits + o.pushWaits != 0 ||
    o.rowb != 0 && (s.coreAt c).ownedBefore o.id ((o.list + 4 * o.gran) / 64)
/-- The engine moves on with a copy: it reads the next bytes of its current unit (R270). -/
def execCopyGranule (s : State) : Out :=
  let c := s.subj.core
  match s.copyAt c s.subj.n with
  | none => .next s
  | some o =>
    if (s.coreAt c).paused || s.copyWaits c o then .next (s.after 1 .copyGranule s.subj)
    else
      match s.copyFrom c o with
      | .error f => .next (s.copySettle c o (some f))
      | .ok (a, n) =>
        let r := s.copyReq c o .copyRead a n []
        if r.node = c then .next (s.modCopy c o.id fun x => { x with due := true })
        else .next (s.send c r.node (.globalRead r))
/-! Acknowledgements (R257, R258, R283). -/

/-- A launch record from its 64 bytes (R306). -/
def decodeLaunch (b : List Byte) : LaunchRec :=
  let n (at_ len : Nat) : Nat := leNat ((b.drop at_).take len)
  let ctl := n 0 1
  let mode := bits ctl 1 2
  let nsucc := n 37 1
  { mode := mode, steal := bits ctl 3 2, prio := n 1 1, psize := n 2 2, group := n 4 4, code := wd (n 8 8)
    params := wd (n 16 8), first := n 24 2, last := n 26 2, pwoff := n 28 4, twinp := n 32 4, twinv := n 36 1
    nsucc := nsucc, depidx := n 38 2, npred := n 40 2, iorg := n 42 2
    succ := (List.range 8).map fun i => n (44 + 2 * i) 2
    zeroOk := bits ctl 5 3 = 0 && n 28 4 < 2 ^ 20 && n 60 4 = 0 && (mode = 0 || (n 32 4 = 0 && n 36 1 = 0)) &&
      (List.range 8).all fun i => i < nsucc || n (44 + 2 * i) 2 = 0 }

/-- The register a failed load leaves: full with its old value, or a queue entry of ones (R257); `amsg` writes ones
(R267). -/
def State.failDst (s : State) (r : Req) : State :=
  match r.dst with
  | .queue _ _ => s.writeFull r.who r.dst (2 ^ 64 - 1)
  | d => if r.kind == .amsg then s.writeFull r.who d (2 ^ 64 - 1) else s.modWho r.who (·.mark d false)
/-- What an answer does at the thread: the register, its counter, or the trap (R257, R262–R266). -/
def State.landReply (s : State) (r : Req) (rep : Reply) : State :=
  match rep with
  | .failed cause sub d =>
    let s := if r.kind == .launchRec then s.countIn r.who r.cls false else s
    let s := if r.kind == .segRead then s.modWho r.who fun t => { t with sgBusy := setBit t.sgBusy r.op false } else s
    ((s.failDst r).decD r.who r.dc).reportTrap r.who r.org (trapAt cause sub r.addr d)
  | .ok bs =>
    match r.kind with
    | .write => s.decD r.who r.dc
    | .reduce => s
    | .tagWrite => s
    | .heap => s
    | .segRead =>
      let d := segWords bs
      s.after 0 (.segldComplete r.who r.org r.op d.1 d.2 r.dc)
    | .tagRead => s.writeFull r.who r.dst (tagged r.addr ((bs.headD 0).setWidth 4)).toNat
    | .launchRec =>
      match s.who r.who with
      | some t => s.after 0 (.launchSubmit r.who r.org t.task t.pdid (decodeLaunch bs))
      | none => s
    | .flush => s.writeFull r.who r.dst 0
    | _ => (s.writeFull r.who r.dst (extend r.signed (leNat bs) (8 * r.size)).toNat).decD r.who r.dc
/-- Is a request still unacknowledged at its core? -/
def Core.awaits (k : Core) (r : Req) : Bool := k.unacked.any fun x => x.who.tid == r.who.tid && x.seq == r.seq
/-- The request is acknowledged; a reply is confirmed to its home (R260). The read of a launch record stays counted
until the launch unit answers (R324). -/
def State.ackReq (s : State) (r : Req) : State :=
  let c := r.who.core
  let s := s.modCore c fun k => { k with unacked := k.unacked.filter fun x => !(x.who.tid == r.who.tid && x.seq == r.seq) }
  let s := if r.kind == .launchRec then s else s.countIn r.who r.cls (reqCounts r)
  if reqCounts r then
    s.send c r.node .replyConfirm { n := r.node, m := r.who.tid, w := wd r.seq }
  else s
/-- An answer that no request awaits goes to the core of the thread's forwarding entry, if the thread has left and the entry
still stands; it is discarded where the thread is (R283). -/
def State.forward (s : State) (c : Nat) (r : Req) (rep : Reply) : State :=
  if (s.coreAt c).threads.any fun x => x.2.tid == r.who.tid then s
  else match tget (s.coreAt c).fwd r.who.tid with
  | some d => s.send c d.1 (.lateReplyForward d.1 r rep)
  | none => s
/-- A read of a code load is answered (R366): the load goes on with the next granule, is answered when it has all its
bytes, or has failed and stays parked under its trap. `cmp` carries the operand s[C]. -/
def State.codeData (s : State) (r : Req) (rep : Reply) : State :=
  match (s.who r.who).filter fun t => t.codeX == .waiting && t.pc == r.org.pc && t.codeBuf.length == r.gran with
  | none => s
  | some t =>
    match rep with
    | .failed cause sub d => s.reportTrap r.who r.org (trapAt cause sub r.addr d)
    | .ok bs =>
      let buf := t.codeBuf ++ bs
      let rest := 8 * wbits r.cmp 32 16 - buf.length
      let s := s.modWho r.who fun t => { t with codeBuf := buf }
      if rest = 0 then s.modWho r.who fun t => { t with codeX := .answered true, parked := false }
      else
        let r := { r with addr := addOff r.addr (r.size : Nat), size := Nat.min rest 64, gran := buf.length }
        let r := { r with node := s.reqNode r.who.core r }
        s.send r.who.core r.node (.globalRead r)

/-- The slot field of a request that a memory port's stream makes, which no thread has (R223). -/
def streamSlot : Nat := 255
/-- A stream's request has been answered (R223): the port goes on with its tile, or stops on PageDenied or a tag (R224).
`copyId` names the connection and its endpoint. -/
def State.streamAnswer (s : State) (r : Req) (rep : Reply) : State :=
  match corePort r.who.core with
  | none => s
  | some p =>
    let i := r.copyId % 16
    let e := vget PEnd.reset (s.portAt p).ends i
    let set (f : PEnd → PEnd) : State := s.modPort p fun q => { q with ends := vset q.ends i (f e) }
    if !(e.used && e.asked && e.connid == r.copyId / 16 && e.got.length == r.gran) then s
    else
      match rep with
      | .failed cause sub _ =>
        (set fun e => { e with asked := false }).after 0 .portStreamStop { n := p, m := i, w := wd (cause * 256 + sub) }
      | .ok bs =>
        (set fun e => { e with asked := false, got := e.got ++ [bs] }).after 0
          (if e.write then .portStreamWrite else .portStreamSend) { n := p, m := i }

/-- An acknowledgement or reply reaches the issuing interface (R257, R258); that of an active message is confirmed, as every
reply the home keeps (R260). -/
def execAcknowledgementArrival (r : Req) (rep : Reply) (s : State) : Out :=
  let c := r.who.core
  if r.who.slot == streamSlot then .next (s.streamAnswer r rep)
  else if ofCopy r then
    if r.kind == .copyRead then .next (s.copyData c r.copyId r.gran rep)
    else if r.kind == .codeRead then .next (s.codeData r rep)
    else
      match (s.copyAt c r.copyId).filter (·.gran == r.gran) with
      | none => .next s
      | some o =>
        .next (s.copySettle c o (match rep with | .failed cause sub _ => some (cause, sub) | .ok _ => none))
  else if r.kind == .amsg then
    match (s.coreAt c).amOut.find? fun m => m.who.tid == r.who.tid && m.seq == r.seq with
    | none => .next s
    | some m =>
      let s := s.modCore c fun k => { k with amOut := k.amOut.filter (· != m) }
      let s := s.send c r.node .replyConfirm { n := r.node, m := r.who.tid, w := wd r.seq }
      .next ((s.countIn r.who r.cls true).landReply r rep)
  else if (s.coreAt c).awaits r then .next ((s.ackReq r).landReply r rep)
  else .next (s.forward c r rep)

/-! What the network interface does at the scratchpad besides the requests held there (R121, R241, R242, R263, R294). -/

/-- The granule a job takes its next turn at. -/
def NetJob.gran (j : NetJob) : Nat :=
  match j with
  | .bytes l => (l.head?.map (·.1)).getD 0 / 64
  | .counted r => r.bar.getD 0 / 64
  | .combined m => offOf m.addr / 64
  | .reread _ _ _ a => offOf a / 64
/-- The barrier home checks the tag of an object that another core names (R128, R241, R242). -/
def State.objectTag (s : State) (home : Nat) (a : Word) (check : Bool) : Option Word :=
  let tag := s.spadTagAt home (offOf a / 64)
  if check && tag != tagOf a then some (tagDetail (tagOf a) tag) else none
/-- Does a job write a granule that may need an undo record? What enters the skid ring makes none (R294). -/
def State.jobWrites (s : State) (c : Nat) (j : NetJob) : Bool :=
  match j with
  | .counted r => (s.coreAt c).awaits r && (s.markAt c j.gran).mark
  | .combined m => (s.objectTag c m.addr m.check).isNone && (s.markAt c j.gran).mark
  | _ => false
/-- A counted store's acknowledgement is a barrier update at the issuer (R263). -/
def State.doCounted (s : State) (r : Req) : State :=
  let c := r.who.core
  let g := r.bar.getD 0 / 64
  if !(s.coreAt c).awaits r then s
  else
    let s := s.ackReq r
    if (s.markAt c g).mark then s.countDown c g 1 else s.fire c g
/-- A combined arrival at the barrier home (R241 steps 4–6). -/
def State.doCombined (s : State) (m : CombMsg) : State :=
  let g := offOf m.addr / 64
  match s.objectTag m.home m.addr m.check with
  | some d => s.send m.home m.core (.combinerReply m (.tagMismatch d))
  | none =>
    let k := s.markAt m.home g
    let gen := leNat (s.spadRead m.home (64 * g + 16) 4)
    let s := if k.mark then s.countDown m.home g m.count else s
    s.send m.home m.core (.combinerReply m (.found k.epoch gen))
/-- A combiner's read of a remote object at its home, for a slot that still waits there (R242): it deposits what it finds,
or its waiter traps. -/
def State.doReread (s : State) (home c sl tid : Nat) (a : Word) : State :=
  match (s.threadAt c sl).filter (·.tid == tid) with
  | none => s
  | some t =>
    match t.waitAt a true with
    | none => s
    | some x =>
      match s.objectTag home a x.check with
      | some d => s.lateTrap ⟨c, sl, tid⟩ true x.org (trapAt 7 1 a d)
      | none =>
        let seen := (s.markAt home (offOf a / 64), leNat (s.spadRead home (offOf a / 64 * 64 + 16) 4))
        s.setThread c sl { t with barX := some { x with seen := some seen, start := x.start <|> some (barStart t a seen) } }
/-- A job's turn: what it does, and what is left of it; bytes of the skid ring go a granule at a time, with no undo record,
no disturbance and no firing (R294). -/
def State.doJob (s : State) (c : Nat) (j : NetJob) : State × List NetJob :=
  match j with
  | .counted r => (s.doCounted r, [])
  | .combined m => (s.doCombined m, [])
  | .reread core sl tid a => (s.doReread c core sl tid a, [])
  | .bytes l =>
    let now := l.takeWhile fun x => x.1 / 64 == j.gran
    let rest := l.drop now.length
    ({ s with spad := now.foldl (fun (m : Memory) (x : Nat × Byte) => mset m (spadKey c x.1) x.2) s.spad },
      if rest.isEmpty then [] else [.bytes rest])
/-- Must the oldest job of a core wait in this cycle: for its bank, or for undo room (R121, R123)? -/
def State.jobWaits (s : State) (c : Nat) (j : NetJob) (first : Option (BitVec 32)) : Bool :=
  (s.coreAt c).bankTaken s.cycle [j.gran] || first.any (fun m => !m.getLsbD (bankOf j.gran)) ||
    (s.jobWrites c j && s.undoBlocks c [j.gran])
/-- The undo logger's turn before a job that writes (R121, R123). -/
def State.jobLog (s : State) (c : Nat) (j : NetJob) : Option State :=
  if s.jobWrites c j then s.logTurn c [j.gran] false else none
/-- The interface does its jobs in order, each at its bank (R121); at most 32 banks serve it in a cycle. -/
def State.netWork (s : State) (c : Nat) (first : Option (BitVec 32)) : Nat → State
  | 0 => s
  | n + 1 =>
    match (s.coreAt c).netJobs with
    | [] => s
    | j :: rest =>
      if s.jobWaits c j first then s
      else
        match s.jobLog c j with
        | some s => s
        | none =>
          let x := (s.takeBanks c [j.gran] .net).doJob c j
          (x.1.modCore c fun k => { k with netJobs := x.2 ++ rest }).netWork c first n
/-- A new job of a core's network interface, which has its turn at once where nothing is ahead of it. -/
def State.netJob (s : State) (c : Nat) (j : NetJob) : State :=
  (s.modCore c fun k => { k with netJobs := k.netJobs ++ [j] }).netWork c none 32
/-- A counted store's acknowledgement reaches the issuing interface (R263). -/
def execCountedAckArrival (r : Req) (s : State) : Out := .next (s.netJob r.who.core (.counted r))
/-- A combined arrival reaches the barrier home (R241 step 4). -/
def execCombinedArrival (m : CombMsg) (s : State) : Out := .next (s.netJob m.home (.combined m))
/-- The combiner reads a remote object for a waiter (R242): asked every 256 cycles, performed at the home. -/
def execCombinerReread (s : State) : Out :=
  let c := s.subj.core
  let sl := s.subj.slot
  let a := s.subj.w
  match s.threadAt c sl with
  | none => .next s
  | some t =>
    match t.waitAt a true with
    | none => .next s
    | some x =>
      if s.subj.b then .next (s.netJob s.subj.n (.reread c sl t.tid a))
      else .next (if x.asked = s.subj.n then s.askBarrier c sl a else s)

/-! A core's banks from cycle to cycle (R121). -/

/-- The end of a cycle at the network interface of a core: what still waits has its last try, and the banks it has lost are
counted. -/
def State.netRound (s : State) (c : Nat) : State :=
  let s := (s.releaseReqs c).netWork c none 32
  let k := s.coreAt c
  let b := k.banks.enter s.cycle
  let want := (s.netReady c k.heldReqs []).flatMap reqGrans ++ (k.netJobs.head?.map (·.gran)).toList
  let lost := countLost (b.used &&& ~~~b.byNet &&& banksOf want) b.netLost
  if lost = b.netLost then s else s.setCore c { k with banks := { b with netLost := lost } }
/-- The undo logger's turns as a cycle begins (R121, R123): before the writes of the network interface and the copy engine
that wait and need a record, at the banks that no requester starved of them is served at first; those of local accesses come
with the accesses. -/
def State.logRound (s : State) (c : Nat) : State :=
  let open_ (s : State) (g : Nat) : Bool :=
    !(s.coreAt c).bankTaken s.cycle [g] && !(s.coreAt c).locFirst.getLsbD (bankOf g)
  let log (s : State) (gs : List Nat) (noundo : Bool) : State :=
    if gs.all (open_ s) && !s.undoBlocks c gs then (s.logTurn c gs noundo).getD s else s
  let s := (s.netReady c (s.coreAt c).heldReqs []).foldl (fun (s : State) r =>
    if (accessOf r (s.spadRead c (offOf r.addr) r.size)).1.isSome then log s (reqGrans r) r.noundo else s) s
  let s := match (s.coreAt c).netJobs with
    | j :: _ => if s.jobWrites c j then log s [j.gran] false else s
    | [] => s
  (s.coreAt c).copies.foldl (fun (s : State) o => match s.copyNext c o with
    | some g => if o.due then s else log s [g] o.dstNoundo
    | none => s) s
/-- A cycle begins at the banks of a core: the requesters that have lost one in four consecutive cycles are served there
first, then the undo logger (R121). -/
def State.bankRound (s : State) (c : Nat) : State :=
  let k := s.coreAt c
  let net := k.netFirst
  let eng := k.copyFirst
  let s := if net = 0 then s else (s.releaseReqs c (some net)).netWork c (some net) 32
  let s := if eng = 0 || k.paused then s else (s.coreAt c).copies.foldl (fun (s : State) o => s.copyTurn c o (some eng)) s
  s.logRound c

/-- A late answer at the core a thread has moved to: it is for a settled request, or goes on (R283). -/
def execLateReplyForward (core : Nat) (r : Req) (rep : Reply) (s : State) : Out := .next (s.forward core r rep)
/-- The home drops a confirmed reply (R260). -/
def execReplyConfirm (s : State) : Out :=
  let q := BitVec.ofNat 32 s.subj.w.toNat
  .next (s.modFilter s.subj.n fun l => l.map fun e =>
    if e.tid == s.subj.m then { e with cached := e.cached.filter (·.1 != q) } else e)
/-- What a thread has sent from a core and not had answered, as steps with their SEQ and node. -/
def Core.sentBy (k : Core) (tid : Nat) : List (Nat × Nat × Instr) :=
  ((k.unacked.filter (·.who.tid == tid)).map fun r => (r.seq, r.node, reqStep r)) ++
    (k.amOut.filter (·.who.tid == tid)).map fun m => (m.seq, m.home, .amsgArrival m)
/-- Inserts in the order of SEQ, as serial numbers (R260). -/
def insertSeq (x : Nat × Nat × Instr) : List (Nat × Nat × Instr) → List (Nat × Nat × Instr)
  | [] => [x]
  | y :: r => if serialLe (BitVec.ofNat 32 x.1) (BitVec.ofNat 32 y.1) then x :: y :: r else y :: insertSeq x r
/-- Nodes of one home: an active message for a port goes to its port core. -/
def sameHome (a b : Nat) : Bool :=
  let at_ (n : Nat) : Nat := if 4096 ≤ n && n < 4352 then portCore (n - 4096) else n
  at_ a == at_ b
/-- A thread's unacknowledged requests to a home, in their order; what the own core or the interface holds was not lost. -/
def State.unanswered (s : State) (c tid node : Nat) : List (Nat × Nat × Instr) :=
  (((s.coreAt c).sentBy tid).filter fun x => sameHome x.2.1 node && x.2.1 != c && x.2.1 < 0x10000).foldr insertSeq []
/-- They are sent again (R260). -/
def State.resend (s : State) (c tid node : Nat) : State :=
  (s.unanswered c tid node).foldl (fun (s : State) x => s.send c x.2.1 x.2.2) s
/-- A thread's unacknowledged requests to the home of one that has waited 32,768 cycles are resent in order (R260). -/
def execRequestResendTimeout (s : State) : Out :=
  let c := s.subj.core
  match ((s.coreAt c).sentBy s.subj.n).find? (·.1 == s.subj.m) with
  | none => .next s
  | some x =>
    let first := ((s.unanswered c s.subj.n x.2.1).head?.map (·.1)) == some s.subj.m
    .next ((if first then s.resend c s.subj.n x.2.1 else s).after 32768 .requestResendTimeout s.subj)

/-! Active messages (R267, R268). -/

/-- The service slot starts the next handler (R268). -/
def execAmsgHandlerStart (s : State) : Out :=
  let c := s.subj.core
  let k := s.coreAt c
  match k.amq with
  | [] => .next s
  | m :: rest =>
    if !k.amen || (tget k.threads 15).isSome then .next s
    else
      let r := s.segSet c m.pdid
      let n := r.1.newTid c
      let t : Thread := { Thread.reset with
        tid := n.2, task := m.task, pdid := m.pdid, pc := m.pc
        s := ((Thread.reset.s.set 0 m.arg).set 1 m.addr).set 2 m.ident
        sg := segRegs (r.2.getD []), status := m.status, handler := some m, stamp := s.cycle, earliest := s.cycle + 1 }
      .next ((n.1.modCore c fun k => { k with amq := rest }).setThread c 15 t)
/-- The handler's result reaches the sender's register (R268). -/
def execAmsgReply (m : AMsg) (val : Word) (s : State) : Out :=
  let c := m.who.core
  match (s.coreAt c).amOut.find? fun x => x.who.tid == m.who.tid && x.seq == m.seq with
  | none => .next s
  | some x =>
    let s := s.modCore c fun k => { k with amOut := k.amOut.filter (· != x) }
    let s := (s.countIn m.who m.cls true).writeFull m.who m.dst val.toNat
    .next (s.send c m.home .replyConfirm { n := m.home, m := m.who.tid, w := wd m.seq })

end Sys2Proof.Machine
end

