-- ==== Sys2Proof/Machine/PortStream.lean ====
section
/-! DEFINITION. Memory-port streams (R222–R224), and the close and MARK messages of channels (R214, R215, R221). -/

namespace Sys2Proof.Machine

/-! Endpoints (R222). -/

/-- An endpoint of a port. -/
def State.endAt (s : State) (p i : Nat) : PEnd := vget PEnd.reset (s.portAt p).ends i
/-- Applies a function to an endpoint. -/
def State.modEnd (s : State) (p i : Nat) (f : PEnd → PEnd) : State :=
  s.modPort p fun q => { q with ends := vset q.ends i (f (vget PEnd.reset q.ends i)) }
/-- Frees an endpoint; its CONNID goes on. -/
def State.freeEnd (s : State) (p i : Nat) : State := s.modEnd p i fun e => { PEnd.reset with connid := e.connid }
/-- An endpoint's location. -/
def State.endLoc (s : State) (p i : Nat) : EyLoc := ⟨s.devIdx, portCore p, i, true⟩

/-- An entry of a canonical form (R203): state, kind, type, label, successor, shape. -/
def formEntry (st kind type label next shape : Nat) : List Byte :=
  toLE 1 st ++ toLE 1 kind ++ toLE 1 type ++ toLE 1 label ++ toLE 1 next ++ List.replicate 3 0 ++ toLE 8 shape
/-- The shape entry of a scalar (R198). -/
def scalarShape : Nat := 2 ^ 62
/-- The canonical form of a read stream's or write stream's connector for tile shape T (R222). -/
def streamForm (write : Bool) (t : Nat) : List Byte :=
  toLE 2 (if write then 6 else 5) ++ List.replicate 6 0 ++
  formEntry 0 0 0xF0 0 1 scalarShape ++ formEntry 1 0 0xF1 0 2 scalarShape ++
  formEntry 2 (if write then 2 else 3) 0 0 3 0 ++ formEntry 2 (if write then 2 else 3) 0 1 4 0 ++
  (if write then formEntry 3 0 0xF3 0 2 t ++ formEntry 4 1 0xF4 0 5 scalarShape ++ formEntry 5 6 0 0 0 0
   else formEntry 3 1 0xF2 0 2 t ++ formEntry 4 6 0 0 0 0)
/-- The stream a connector's form asks for: write or read, and the shape T. -/
def streamOf (form : List Byte) : Option (Bool × Word) :=
  let t := imgN form 80 8
  if bits t 62 2 != 3 || (wd t).getLsbD 27 then none
  else if form == streamForm false t then some (false, wd t)
  else if form == streamForm true t then some (true, wd t)
  else none

/-- A connection request at a port (R222). -/
def execPortEndpointConnect (r : ConnReq) (s : State) : Out :=
  let p := (corePort r.dst.core).getD 0
  let reply (s : State) (r : ConnReq) (o : ConnOut) : State := s.send (portNode p) (s.locNode r.src) (.connectOutcome r o)
  match (List.range 16).find? fun i => !(s.endAt p i).used with
  | none => .next (reply s r .refused)
  | some i =>
    match streamOf r.form with
    | none => .next (reply s r .notDual)
    | some (w, t) =>
      let id := ((s.endAt p i).connid + 1) % 65536
      let s := s.modEnd p i fun _ =>
        { PEnd.reset with
          used := true, peer := some ⟨r.src, r.connid, id, r.pdid, r.ring, false, []⟩, write := w, shape := t, topx := r.topx
          pdid := r.pdid, connid := id }
      .next (reply s { r with dst := s.endLoc p i } (.accepted 8 id r.pdid))

/-! The port's messages. -/

/-- Sends to the peer, or holds the event while the peer moves (R221). -/
def State.toEnd (s : State) (p i : Nat) (f : EyLoc → EyLoc → Nat → Instr) : State :=
  match (s.endAt p i).peer with
  | none => s
  | some m =>
    let ev := f (s.endLoc p i) m.loc m.connid
    if m.transit then s.modEnd p i fun e => { e with peer := e.peer.map fun x => { x with heldOut := x.heldOut ++ [⟨ev, {}⟩] } }
    else s.send (portNode p) (s.locNode m.loc) ev
/-- A message of the port: it takes a unit of allowance (R201). -/
def State.endSend (s : State) (p i : Nat) (m : ChMsg) : State :=
  (s.toEnd p i fun a b id => .channelMessageArrival a b id m).modEnd p i fun e =>
    { e with peer := e.peer.map fun x => { x with allow := x.allow - 1 } }
/-- The allowance towards the connector. -/
def PEnd.allow (e : PEnd) : Nat := (e.peer.map (·.allow)).getD 0
/-- The port's close notice; the endpoint then waits for its acknowledgement (R214). -/
def State.endClose (s : State) (p i reason : Nat) (detail : Word) : State :=
  let x := s.endAt p i
  (s.toEnd p i fun a b id => .closeNoticeArrival b ⟨a, id, x.connid, reason, x.state, false, detail, 0⟩).modEnd p i fun e =>
    { e with closing := true, ring := [], asked := false, got := [] }

/-! What the launch unit reads through a port (R254, R311). -/

/-- What a port finds when it translates and checks an address (R254, R311): a place and whether its page is NU, a fault,
a reason to stop, another home, or a want of undo room for A (R342). -/
inductive PortAcc where
  | ok (l : Loc) (nu : Bool)
  | fault (page : Nat)
  | stop (cause sub : Nat)
  | away (node : Nat) (a : Word)
  | wait
  deriving DecidableEq, Repr
/-- A translation by the port of an address, or why there is none (R254). -/
def State.portWalk (s : State) (pdid va : Nat) : State × Except PortAcc Tlb :=
  match s.translate pdid va with
  | (s, some t) => (s, .ok t)
  | (s, none) => (s, .error (match s.walk pdid va with | .denied sub => .stop 10 sub | _ => .fault (pageOf va)))
/-- The check of one granule's address: as an interface's (R15), and as a port's (R254, R128). -/
def State.portAcc (s : State) (p pdid : Nat) (a : Word) : State × PortAcc :=
  let va := vaOf a
  match s.r15 (portCore p) a, s.homeOf (portCore p) a with
  | some t, _ => (s, .stop t.1 t.2)
  | none, .port _ =>
    match s.portWalk pdid va with
    | (s, .error x) => (s, x)
    | (s, .ok t) =>
      if s.touchWaits t false then (s, .wait)
      else
        let x := s.touchLeaf (portOf va) t false
        match s.inHost pdid (leafLoc x.2.leaf t.base va) with
        | .host h => (x.1, .ok (.host h) false)
        | .hbm q l =>
          if (mget s.hbmTag (hbmKey q (l / 64))).setWidth 4 != tagOf a then (x.1, .stop 7 1)
          else (x.1, .ok (.hbm q l) (x.2.leaf.getLsbD 57))
  | none, h => (s, .away (homeNode (portCore p) h) a)

/-! A tile in memory (R183, R223). -/

/-- The address of row `r` of an endpoint's next tile. -/
def PEnd.rowAt (e : PEnd) (r : Nat) : Word := addOff e.base (e.next * wbits e.step 32 32 + r * wbits e.step 0 16 : Nat)
/-- The granule addresses of an endpoint's next tile. -/
def PEnd.granules (e : PEnd) : List Word :=
  let c := shapeCfg e.shape
  ((List.range (tcRows c)).flatMap fun (r : Nat) =>
    let a := e.rowAt r
    (List.range ((a.toNat % 64 + tcRow c + 63) / 64)).map fun (g : Nat) => addOff a ((64 * g : Nat) - (a.toNat % 64 : Nat) : Int)).eraseDups
/-- The memory byte of row `r`, byte `x`, within the granules that were read. -/
def PEnd.byteAt (e : PEnd) (r x : Nat) : Word × Nat :=
  let a := addOff (e.rowAt r) (x : Nat)
  (addOff a (-(a.toNat % 64 : Nat)), a.toNat % 64)
/-- The payload of the next tile from its granules (R198, R223). -/
def PEnd.gather (e : PEnd) (bs : List (Word × List Byte)) : List Byte :=
  let c := shapeCfg e.shape
  let m : Memory := (List.range (tcRows c)).foldl (fun m r =>
    (List.range (tcRow c)).foldl (fun m x =>
      let k := e.byteAt r x
      let b := (((bs.find? (·.1 == k.1)).map (·.2)).getD []).getD k.2 0
      mset m (rowByte c r x) b) m) []
  tilePayload m ⟨0, c⟩
/-- Bytes from an address on, cut at the granules. -/
def splitGran : Nat → Word → List Byte → List (Word × List Byte)
  | 0, _, _ => []
  | n + 1, a, bs =>
    if bs.isEmpty then []
    else
      let k := 64 - a.toNat % 64
      (a, bs.take k) :: splitGran n (addOff a (k : Nat)) (bs.drop k)
/-- The writes of the next tile: its rows, cut at the granules (R198, R223). -/
def PEnd.pieces (e : PEnd) (payload : List Byte) : List (Word × List Byte) :=
  let c := shapeCfg e.shape
  let t := putPayload [] ⟨0, c⟩ payload
  (List.range (tcRows c)).flatMap fun (r : Nat) =>
    splitGran (tcRow c) (e.rowAt r) ((List.range (tcRow c)).map fun x => mget t (rowByte c r x))
/-- A stream's request to the home of an address, by the tables of the port core (R13, R16); the home checks its page, its tag
and the undo rules, and holds it on a page fault (R223). -/
def State.endReq (s : State) (p i : Nat) (kind : ReqKind) (a : Word) (n : Nat) (bs : List Byte) : Req where
  node := homeNode (portCore p) (s.homeOf (portCore p) a)
  who := ⟨portCore p, streamSlot, 2 ^ 60 + 16 * p + i⟩
  org := ⟨0, 0, false, false⟩
  kind := kind
  addr := a
  size := n
  data := bs
  cmp := 0
  op := 0
  ty := 0
  signed := false
  dst := .none
  dc := none
  bar := none
  tagx := false
  noundo := false
  pdid := (s.endAt p i).pdid
  rin := (s.rinOf (portNode p)).toNat
  cls := 3
  seq := 0
  copyId := (s.endAt p i).connid * 16 + i
  gran := (s.endAt p i).got.length
/-- The port stops a stream (R224). -/
def State.endStop (s : State) (p i cause sub : Nat) : State :=
  s.after 0 .portStreamStop { n := p, m := i, w := wd (cause * 256 + sub) }
/-- The next request of a stream's tile leaves; an address that R15 refuses stops the stream. -/
def State.endAsk (s : State) (p i : Nat) (kind : ReqKind) (a : Word) (n : Nat) (bs : List Byte) : State :=
  match s.r15 (portCore p) a with
  | some t => s.endStop p i t.1 t.2
  | none =>
    let r := s.endReq p i kind a n bs
    (s.modEnd p i fun e => { e with asked := true }).send (portNode p) r.node (reqStep r)

/-! The stream steps (R223). -/

/-- A read stream sends its next label or tile, as its allowance permits; it reads the tile granule by granule, each at its
home (R13, R223). -/
def execPortStreamSend (s : State) : Out :=
  let p := s.subj.n
  let i := s.subj.m
  let e := s.endAt p i
  let again (s : State) : State := s.after 1 .portStreamSend { n := p, m := i }
  if !e.used || e.closing || e.asked || e.allow = 0 then .next s
  else if e.write then
    if e.state = 4 then
      .next ((s.endSend p i ⟨.data, 0xF4, e.topx, toLE 8 e.next, 0⟩).modEnd p i fun e => { e with state := 5 })
    else .next s
  else if e.state = 2 then
    if e.next < wbits e.step 16 16 then
      .next (again ((s.endSend p i ⟨.label, 0, e.topx, [], 0⟩).modEnd p i fun e => { e with state := 3 }))
    else
      .next (((s.endSend p i ⟨.label, 1, e.topx, [], 0⟩).modEnd p i fun e => { e with state := 4 }).endClose p i 0 0)
  else if e.state = 3 then
    match e.granules[e.got.length]? with
    | some a => .next (s.endAsk p i .copyRead a 64 [])
    | none =>
      .next (again ((s.endSend p i ⟨.data, 0xF2, e.topx, e.gather (e.granules.zip e.got), 0⟩).modEnd p i fun e =>
        { e with state := 2, next := e.next + 1, got := [] }))
  else .next s

/-- Is a STEP bad (R223)? -/
def badStep (write : Bool) (c v : Word) : Bool :=
  wbits v 32 32 % 64 != 0 || (if write then wbits v 16 16 != 0 else wbits v 16 16 == 0) || wbits v 0 16 % 16 != 0 ||
  wbits v 0 16 < tcRow c
/-- The port takes the message at the head of an endpoint's ring: BASE, STEP, a label, or a tile, which it writes row by row
and granule by granule, each at its home, before the next (R13, R223). -/
def execPortStreamWrite (s : State) : Out :=
  let p := s.subj.n
  let i := s.subj.m
  let e := s.endAt p i
  match e.ring with
  | [] => .next s
  | m :: rest =>
    if !e.used || e.closing || e.asked then .next s
    else
      let v := wd (leNat (m.payload.take 8))
      let took (s : State) (f : PEnd → PEnd) : State :=
        let s := (s.modEnd p i fun e => f { e with ring := rest }).toEnd p i fun a b id => .allowanceReturn a b id
        if rest.isEmpty then s else s.after 1 .portStreamWrite { n := p, m := i }
      match e.state with
      | 0 =>
        let s := took s fun e => { e with base := v, state := 1 }
        .next (if spaceOf v != 0 && spaceOf v != 2 then s.endStop p i 5 5 else s)
      | 1 =>
        let s := took s fun e => { e with step := v, state := 2 }
        .next (if badStep e.write (shapeCfg e.shape) v then s.endStop p i 2 2
          else if e.write then s else s.after 1 .portStreamSend { n := p, m := i })
      | 2 =>
        if !e.write then .next s
        else if m.type = 0 then .next (took s fun e => { e with state := 3 })
        else .next ((took s fun e => { e with state := 4 }).after 0 .portStreamSend { n := p, m := i })
      | 3 =>
        if !e.write then .next s
        else
          match (e.pieces m.payload)[e.got.length]? with
          | some (a, bs) => .next (s.endAsk p i .copyWrite a bs.length bs)
          | none => .next (took s fun e => { e with state := 2, next := e.next + 1, got := [] })
      | _ => .next s

/-- A port stops a stream and sends a notice with reason 5 (R224). -/
def execPortStreamStop (s : State) : Out :=
  let e := s.endAt s.subj.n s.subj.m
  if !e.used || e.closing then .next s
  else
    .next (s.endClose s.subj.n s.subj.m 5 (wd (wbits s.subj.w 8 8 * 256 + wbits s.subj.w 0 4 * 16)))
/-- An endpoint that its peer closed abnormally is freed, and a record is filed (R224). -/
def execPortEndpointClosed (s : State) : Out :=
  let p := s.subj.n
  let i := s.subj.m
  let e := s.endAt p i
  if !e.used then .next s
  else
    let c := portCore p
    let t : TrapInfo := ⟨0x0D, wbits s.subj.w 0 8, 0, wd (e.state * 65536 + i)⟩
    let s := s.freeEnd p i
    .next (s.postTrap c e.pdid [s.trapRecord c 255 e.pdid 0 0 0 ⟨0, 0, false, false⟩ 0 t])

/-! Close notices, acknowledgements and MARK (R214, R215, R221). -/

/-- A close notice arrives (R215, R224). -/
def execCloseNoticeArrival (dst : EyLoc) (n : CloseN) (s : State) : Out :=
  if dst.port then
    let p := (corePort dst.core).getD 0
    let e := s.endAt p dst.ey
    let s := s.ackClose dst n
    if !e.used || e.connid != n.connid then .next s
    else if e.closing || n.reason = 0 then .next (s.freeEnd p dst.ey)
    else .next (s.after 0 .portEndpointClosed { n := p, m := dst.ey, w := wd n.reason })
  else .next (s.eyNotice dst n)
/-- The peer's acknowledgement of a close notice (R214). -/
def execCloseAcknowledge (src dst : EyLoc) (connid : Nat) (s : State) : Out :=
  if dst.port then
    let p := (corePort dst.core).getD 0
    let e := s.endAt p dst.ey
    .next (if e.used && e.closing && e.connid == connid then s.freeEnd p dst.ey else s)
  else .next (s.eyAck src dst connid)
/-- MARK reaches the old holder (R221): the delegation leaves over its carrier; a context save waits for one MARK fewer. A
MARK of a connection that has ended is dropped. -/
def execMarkArrival (src dst : EyLoc) (connid : Nat) (s : State) : Out :=
  let y := s.eyAt dst.core dst.ey
  match y.deleg.filter fun _ => y.members.any fun m => m.loc == src && m.connid == connid with
  | none => .next s
  | some (sl, k) =>
    if k < 16 then .next (s.leave dst.core dst.ey k)
    else .next (s.modEy dst.core dst.ey fun y => { y with deleg := some (sl, Nat.max 16 (k - 1)) })

end Sys2Proof.Machine
end

