-- ==== Sys2Proof/Machine/Travel.lean ====
section
/-! DEFINITION. Context packets, departures and arrivals (R286–R294, R302), fetching code (R295, R297), and the travel
instructions (R298–R301). -/

namespace Sys2Proof.Machine

/-! Fetching (R295, R297). -/

/-- A slot fetches where its core has no directory entry: a travelling thread ships, any other traps CodeMiss (R295,
R297). -/
def State.codeMiss (s : State) (c sl : Nat) : State :=
  match s.threadAt c sl with
  | none => s
  | some t =>
    let w : SlotRef := ⟨c, sl, t.tid⟩
    let g := segOf t.pc
    if t.kind != 2 then s.takeTrap w false ⟨t.pc, 0, false, false⟩ (trapAt 0x17 2 (pcWord t.pc))
    else if g ≥ t.segCount || s.nrep c t g = 0 then s.takeTrap w false ⟨t.pc, 0, false, false⟩ (trapAt 0x0F 1 (pcWord t.pc))
    else
      let j := s.ownReplica c t g
      let d : Departure := ⟨s.replica c t g j, 1, pcWord t.pc, false, false, s.cycle, s.replicaAddr c t g j, false⟩
      (s.modWho w fun x => { x with depart := some d }).park c sl Park.other
/-- A fetch without an entry (R295, R297). -/
def execCodeMissFetch (s : State) : Out := .next (s.codeMiss s.subj.core s.subj.slot)

/-! The packet (R286, R287). -/

/-- LIVE: the registers that are not zero (R287). -/
def liveOf (t : Thread) : BitVec 16 := (List.range 16).foldl (fun m r => setBit m r (t.sreg r != 0)) 0
/-- The registers LIVE names, ascending. -/
def liveRegs (t : Thread) : List Word := ((List.range 16).map t.sreg).filter (· != 0)
/-- The packet of a thread at core `c`, slot `sl` (R286). -/
def State.packetOf (s : State) (c sl : Nat) (t : Thread) (kind : Nat) (addr via : Word) (ships : Bool) : Packet where
  pc := t.pc
  live := liveOf t
  pred := t.p ||| 0x80
  pdid := t.pdid
  seq := t.seq
  budget := t.spawnlim
  task := t.task
  fflags := t.fflags
  topx := t.topx
  rm := BitVec.ofNat 3 t.rm
  mode := t.kind == 2
  kind := kind
  regs := liveRegs t
  tid := t.tid
  src := ⟨c, sl, t.tid⟩
  org := (s.nextOrg c t)
  spawnCls := 0
  rin := (s.coreAt c).rinCur.toNat
  travels := if kind = 0 then t.travels + 1 else t.travels
  parent := t.parent
  resv := false
  addr := addr
  via := via
  ships := ships
/-- The bytes of a packet (R286): header, then the live registers. -/
def packetBytes (p : Packet) : List Byte :=
  toLE 8 (p.pc.toNat * 2 ^ 32 + p.live.toNat * 2 ^ 16 + p.pred.toNat * 2 ^ 8 + p.pdid) ++
  toLE 8 (p.seq.toNat * 2 ^ 32 + p.budget.toNat * 2 ^ 24 + p.task * 2 ^ 12 + p.fflags.toNat * 2 ^ 7 + p.topx.toNat * 2 ^ 6 +
    p.rm.toNat * 8 + p.mode.toNat * 4 + p.kind) ++ p.regs.flatMap fun r => toLE 8 r.toNat
/-- Registers spread over LIVE; the others are zero (R287). -/
def spread (live : BitVec 16) : Nat → List Word → List Word
  | 0, _ => []
  | n + 1, rs => if live.getLsbD (15 - n) then rs.headD 0 :: spread live n (rs.drop 1) else 0 :: spread live n rs
/-- The thread a packet becomes at core `c` (R287, R288). -/
def Core.unpack (k : Core) (p : Packet) (sg : Vector Seg 8) (now : Nat) : Thread :=
  let rs := spread p.live 16 p.regs
  let w := k.window p.task
  { Thread.reset with
    tid := p.tid
    task := p.task
    pdid := p.pdid
    pc := p.pc
    s := Vector.ofFn fun i => rs.getD i 0
    p := p.pred
    status := wd ((if p.mode then 2 else 1) * 64 + p.rm.toNat * 8 + p.topx.toNat * 4)
    fflags := p.fflags
    spawnlim := p.budget
    seq := p.seq
    sg := sg
    pwbase := w.pwbase
    pwsize := w.pwsize
    segmap := w.segmap
    parent := p.parent
    stamp := now
    earliest := now + 1
    travels := p.travels }
/-- Places a packet's thread in a slot (R288). -/
def State.placePacket (s : State) (c sl : Nat) (p : Packet) : State :=
  let r := s.segSet c p.pdid
  r.1.setThread c sl ((r.1.coreAt c).unpack p (segRegs (r.2.getD [])) s.cycle)

/-! Departure (R283, R289). -/

/-- May a departing thread leave: it runs, and everything it did is acknowledged and written (R283)? -/
def State.mayLeave (s : State) (c sl : Nat) (t : Thread) : Bool :=
  t.run == .running && t.acked && t.d.toList.all (· == 0) && t.sEmpty == 0 && t.vEmpty == 0 &&
  !(s.coreAt c).divBusy.getLsbD sl &&
  !(s.coreAt c).due.any fun w => w.slot == sl && w.tid == t.tid
/-- A destination's answer to a departure or a `tspawn` child. -/
def State.report (s : State) (dst : Nat) (p : Packet) (r : ArrRep) : State := s.send dst p.src.core (.arrivalReport p dst r)
/-- Sends a packet; a destination without a placement entry refuses it (R292 step 1). -/
def State.sendPacket (s : State) (c dst : Nat) (p : Packet) : State :=
  let s := s.after 32768 (.packetResendTimeout p dst)
  if dst = noNode then s.after 0 (.arrivalReport p dst (.refused 0x10 6)) else s.send c dst (.packetArrival dst p)
/-- Where a departure goes: one that met an entry in transit goes where the tables name its home as it leaves (R16). -/
def State.departTo (s : State) (c : Nat) (d : Departure) : Nat :=
  if d.dest != heldNode c then d.dest
  else if (s.r15 c d.via).isSome then noNode
  else travelNode c (s.homeOf c d.via)
/-- A thread whose accesses have drained forms its packet and sends it (R289). -/
def execDeparture (s : State) : Out :=
  let c := s.subj.core
  let sl := s.subj.slot
  match s.threadAt c sl with
  | none => .next s
  | some t =>
    match t.depart with
    | none => .next s
    | some d =>
      if d.sent || !s.mayLeave c sl t then .next s
      else
        let d := { d with dest := s.departTo c d, sent := true }
        let t := { t with seq := t.seq + 1, depart := some d }
        .next ((s.setThread c sl t).sendPacket c d.dest (s.packetOf c sl t d.kind d.addr d.via d.ships))

/-! A held CASSIGN (R353). -/

/-- Is a core empty: no resident thread, no admitted packet, no eyelet that is not UNBOUND (R353)? -/
def Core.vacant (k : Core) : Bool :=
  k.threads.isEmpty && k.aq.isEmpty && k.ring.isEmpty && k.eyelets.toList.all (·.life == .unbound)
/-- A CASSIGN that is held takes effect in one step once its core is empty (R353). -/
def State.assign (s : State) (c : Nat) : State :=
  let k := s.coreAt c
  match k.cassignNext with
  | none => s
  | some w =>
    if !k.vacant then s
    else s.setCore c { k with
      v := w.getLsbD 63
      amen := w.getLsbD 62
      pdid := wbits w 0 8
      cassignNext := none
      tiles := []
      tagTable := []
      codeDir := []
      caps := Core.reset.caps
      segCache := [] }

/-! Arrival (R292–R294). -/

/-- Hardware entries that are free (R292, R293). -/
def Core.hardFree (k : Core) : Nat := k.aqlim - k.aq.length
/-- Ring entries that are free (R294). -/
def Core.ringFree (k : Core) : Nat := k.ringSlots - (k.ring.length + k.diverted.foldl (fun n e => n + divertSize e) 0)
/-- Is an entry of capacity neither taken nor reserved (R292)? -/
def Core.hasRoom (k : Core) : Bool := k.granted.length < k.hardFree + k.ringFree
/-- The head of the ring moves into a freed hardware entry (R292). -/
def Core.shift (k : Core) : Nat → Core
  | 0 => k
  | n + 1 =>
    match k.ring with
    | p :: r => if k.aq.length < k.aqlim then Core.shift { k with aq := k.aq ++ [p], ring := r } n else k
    | [] => k
/-- Grants reservations while capacity is free, oldest first (R292). -/
def State.grantArrivals (s : State) (c : Nat) : Nat → State
  | 0 => s
  | n + 1 =>
    let k := s.coreAt c
    match k.resv with
    | p :: r =>
      if k.hasRoom then
        ((s.setCore c { k with resv := r, granted := k.granted ++ [p] }).send c p.src.core (.reservationGrant p c)).grantArrivals c n
      else s
    | [] => s
/-- Capacity has freed: the ring moves up and reservations are granted. -/
def State.freeArrivals (s : State) (c : Nat) : State :=
  (s.modCore c fun k => k.shift (k.ring.length + 1)).grantArrivals c 257
/-- The checks of R292 steps 1–4; a travelling thread that is displaced (R297) or spawned (R299) needs no code here. -/
def State.refusesPacket (s : State) (c : Nat) (p : Packet) : State × Option (Nat × Nat) :=
  let k := s.coreAt c
  if k.out || !k.v then (s, some (0x10, 6))
  else if k.pdid != p.pdid then (s, some (0x10, 2))
  else
    match s.segSet c p.pdid with
    | (s, none) => (s, some (0x10, 1))
    | (s, some _) =>
      if (k.codeEntry p.task (if p.mode then segOf p.pc else 0)).isSome || (p.mode && p.ships) then (s, none)
      else (s, some (if p.mode then (0x0F, 3) else (0x17, 2)))
/-- The same packet, whatever its grant. -/
def samePacket (p q : Packet) : Bool := p.tid == q.tid && p.seq == q.seq
/-- A packet holds no reservation at a core any more. -/
def State.unreserve (s : State) (c : Nat) (p : Packet) : State :=
  s.modCore c fun k => { k with
    resv := k.resv.filter fun q => !samePacket p q
    granted := k.granted.filter fun q => !samePacket p q }
/-- A packet is admitted: to the hardware queue if an entry is free, else to the ring (R292); its SEQ is the filter's LAST. The
thread is here again, so an entry that forwarded its answers from an earlier visit is gone (R283). -/
def State.takePacket (s : State) (c : Nat) (p : Packet) : State :=
  let s := s.unreserve c p
  let s :=
    if 0 < (s.coreAt c).hardFree then s.modCore c fun k => { k with aq := k.aq ++ [p] }
    else (s.ringWrite c 1 (packetBytes p)).modCore c fun k => { k with ring := k.ring ++ [p] }
  (s.modFilter c fun l => l.map (·.raise p.tid p.seq)).modCore c fun k => { k with fwd := tdel k.fwd p.tid }
/-- A packet arrives (R292); one admitted before is answered with admission again (R289). -/
def execPacketArrival (dst : Nat) (p : Packet) (s : State) : Out :=
  let x := (s.assign dst).admission dst p.tid p.seq.toNat
  let s := x.1
  match x.2 with
  | .full => .next (s.after 1024 (.packetArrival dst p))
  | .replay _ => .next (s.report dst p .admitted)
  | .fresh =>
    match s.refusesPacket dst p with
    | (s, some t) => .next (((s.unreserve dst p).freeArrivals dst).report dst p (.refused t.1 t.2))
    | (s, none) =>
      let k := s.coreAt dst
      if k.granted.any (samePacket p) || k.hasRoom then .next ((s.takePacket dst p).report dst p .admitted)
      else if k.resv.any (samePacket p) then .next (s.report dst p .recorded)
      else if k.resv.length < 256 then
        .next ((s.setCore dst { k with resv := k.resv ++ [p] }).report dst p .recorded)
      else .next (s.report dst p .listFull)

/-- The old core's forwarding entry, for 65,536 cycles (R283). -/
def State.openForward (s : State) (c tid dst : Nat) : State :=
  (s.modCore c fun k => { k with fwd := tset k.fwd tid (dst, s.cycle) }).after 65536 .forwardingExpiry
    { core := c, n := tid, m := s.cycle }
/-- A forwarding entry expires (R283). -/
def execForwardingExpiry (s : State) : Out :=
  .next (s.modCore s.subj.core fun k =>
    if (tget k.fwd s.subj.n).any fun x => x.2 == s.subj.m then { k with fwd := tdel k.fwd s.subj.n } else k)
/-- Is the packet a child in the spawn buffer? -/
def Core.spawning (k : Core) (p : Packet) : Bool := k.spawnBuf.any (samePacket p)
/-- A child leaves the spawn buffer: its admission ends the issuer's count (R299). -/
def State.childOut (s : State) (p : Packet) : State :=
  (s.modCore p.src.core fun k => { k with spawnBuf := k.spawnBuf.filter fun q => !samePacket p q }).countIn p.src p.spawnCls false
/-- The park of a recorded reservation (R244, R292): the destination's device and core. -/
def State.resvPark (s : State) (c dst : Nat) (via : Word) : Park :=
  match s.homeOf c via with
  | .dev _ => { kind := 6, pdev := (s.unitOf c via).1, pcore := (s.unitOf c via).2 }
  | _ => { kind := 6, pdev := s.devIdx, pcore := dst }
/-- The source learns what became of its packet (R289, R292, R299). -/
def execArrivalReport (p : Packet) (dst : Nat) (rep : ArrRep) (s : State) : Out :=
  let c := p.src.core
  let sl := p.src.slot
  if (s.coreAt c).spawning p then
    match rep with
    | .admitted => .next (s.childOut p)
    | .refused cause sub =>
      .next (((s.childOut p).modTask p.task fun k => { k with live := k.live - 1 }).reportTrap p.src p.org (trapAt cause sub p.addr))
    | .recorded =>
      .next (s.modCore c fun k =>
        { k with spawnBuf := k.spawnBuf.map fun q => if samePacket p q then { q with resv := true } else q })
    | .listFull => .next (s.after 1024 (.reservationRetry p dst))
  else
    match ((s.who p.src).filter (·.seq == p.seq)).bind (·.depart) with
    | none => .next s
    | some d =>
      if !d.sent then .next s
      else
        match rep with
        | .admitted => .next (((s.dropThread c sl).leaveComb c sl).openForward c p.tid dst)
        | .refused cause sub =>
          let s := s.modThread c sl fun t => { t with depart := none }
          .next (s.takeTrap p.src false p.org (trapAt cause sub d.addr))
        | .recorded =>
          let s := s.modThread c sl fun t => { t with depart := some { d with resv := true, parkAt := s.cycle } }
          .next (s.park c sl (s.resvPark c dst d.via))
        | .listFull => .next (s.after 1024 (.reservationRetry p dst))
/-- Does the source still wait with this packet? -/
def State.stillWaits (s : State) (p : Packet) : Bool :=
  (s.coreAt p.src.core).spawning p || (s.who p.src).any fun t => t.seq == p.seq && t.depart.any (·.sent)
/-- A grant reaches the source, which sends its packet again and waits on a reservation no more (R292). -/
def execReservationGrant (p : Packet) (dst : Nat) (s : State) : Out :=
  if !s.stillWaits p then .next ((s.unreserve dst p).freeArrivals dst)
  else
    let c := p.src.core
    let s :=
      if (s.coreAt c).spawning p then
        s.modCore c fun k =>
          { k with spawnBuf := k.spawnBuf.map fun q => if samePacket p q then { q with resv := false } else q }
      else s.modWho p.src fun t => { t with depart := t.depart.map fun d => { d with resv := false } }
    .next (s.sendPacket c dst { p with resv := true })
/-- A source that found the reservation list full tries again (R292). -/
def execReservationRetry (p : Packet) (dst : Nat) (s : State) : Out :=
  if s.stillWaits p then .next (s.sendPacket p.src.core dst p) else .next s
/-- An unanswered packet is sent again (R289); one whose reservation is recorded has its answer, and one held for an entry
in transit has not left (R16). -/
def execPacketResendTimeout (p : Packet) (dst : Nat) (s : State) : Out :=
  let recorded := (s.coreAt p.src.core).spawnBuf.any (fun q => samePacket p q && q.resv) ||
    ((s.who p.src).bind (·.depart)).any (·.resv)
  if s.stillWaits p && dst < 0x10000 && !recorded then .next (s.sendPacket p.src.core dst p) else .next s
/-- Is a step the arrival of a thread's packet? -/
def packetOfThread (tid : Nat) (e : Ev) : Bool := match e.ins with | .packetArrival _ p => p.tid == tid | _ => false
/-- Has a node performed the request `q` of a thread (R258)? -/
def State.performed (s : State) (node tid : Nat) (q : BitVec 32) : Bool :=
  (s.filterAt node).any fun e => e.tid == tid && serialLe q e.last
/-- Has a departure's packet been admitted, so that the thread runs at its destination (R289, R292)? -/
def State.gone (s : State) (t : Thread) : Bool := t.depart.any fun d => d.sent && s.performed d.dest t.tid t.seq
/-- A thread's packet is withdrawn, wherever it has got to short of admission (R302). -/
def State.withdrawPacket (s : State) (tid dest : Nat) : State :=
  let s := { s with
    net := s.net.filter fun m => !packetOfThread tid m.ev
    agenda := s.agenda.filter fun x => !packetOfThread tid x.2 }
  (s.modCore dest fun k => { k with
    resv := k.resv.filter (·.tid != tid), granted := k.granted.filter (·.tid != tid) }).freeArrivals dest
/-- The thread a watchdog is to fire for: it is still parked in its slot, and not admitted elsewhere, where the answer is
on its way back (R289, R371). -/
def State.watched (s : State) (c sl : Nat) : Option Thread :=
  (s.threadAt c sl).filter fun t => t.parked && t.run == .running && !s.gone t
/-- The thread's departure, if one is under way, is given up: its packet is withdrawn (R302). -/
def State.stay (s : State) (c sl : Nat) (t : Thread) : State :=
  let s := match t.depart.filter (·.sent) with
    | some d => s.withdrawPacket t.tid d.dest
    | none => s
  s.modThread c sl fun t => { t with depart := none }
/-- A reservation park has lasted too long: Watchdog 2, and the packet is withdrawn (R302). -/
def execReservationWatchdog (s : State) : Out :=
  let c := s.subj.core
  let sl := s.subj.slot
  match s.watched c sl with
  | none => .next s
  | some t =>
    match t.depart with
    | none => .next s
    | some d => .next ((s.stay c sl t).takeTrap ⟨c, sl, t.tid⟩ false (s.nextOrg c t) (trapAt 0x16 2 d.addr))

/-- A light thread in a disabled slot leaves for the coolest core of its domain (R247). -/
def execThermalDisplacement (s : State) : Out :=
  let c := s.subj.core
  let sl := s.subj.slot
  match s.threadAt c sl with
  | none => .next s
  | some t =>
    match s.coolest c t with
    | none => .next s
    | some k =>
      .next ((s.modThread c sl fun t => { t with depart := some ⟨k, 3, pcWord t.pc, false, false, s.cycle, 0, true⟩ }).park c sl Park.other)

/-! travel, tspawn, tseg (R298–R301). -/

/-- The address check of `travel` and `tspawn` (R298). -/
def travelAddr (m : MemR) (s : State) : Except TrapInfo Word :=
  match s.check (s.refR m) 1 true false 1 with
  | .error t => .error t
  | .ok a => if spaceOf a = 3 || spaceOf a = 4 then .error (trapAt 5 5 a) else .ok a
/-- `travel` (R298). -/
def execTravel (h : CHead) (m : MemR) (s : State) : Out :=
  runC h
    { acc := fun _ => scalarAcc [m.idx] []
      kind := fun s => if s.view.kind = 0 then some (1, 5) else none
      park2 := fun s => s.segBusy m.sg.toNat
      trap3 := fun s => trapOf (travelAddr m s)
      effect := fun s =>
        let a := addrOf (travelAddr m s)
        if s.elsewhere a then s.depart (travelNode s.ctx.core (s.homeOf s.ctx.core a)) 3 a else s } s

/-- Every scalar register and predicate that a child copies (R299, R322). -/
def childReads : List RegDst := (List.range 16).map .sreg ++ (List.range 7).map .preg
/-- The traps of a child's target (R299, R322). -/
def State.childTrap (s : State) (x : Word) (addr : Word) : Option TrapInfo :=
  let t : Word32 := x.setWidth 32
  if wbits x 32 32 != 0 then some (trapAt 2 2 addr)
  else if t.toNat % 8 != 0 then some (trapAt 8 0 (pcWord t))
  else if s.view.kind != 2 && segOf t != 0 then some (trapAt 0x17 1 (pcWord t))
  else none
/-- `tspawn` (R299). -/
def execTspawn (h : CHead) (m : MemR) (x : BitVec 5) (s : State) : Out :=
  runC h
    { acc := fun _ => scalarAcc [m.idx, x] [] childReads
      park2 := fun s => s.segBusy m.sg.toNat
      trap3 := fun s =>
        let v := s.sval x [m.idx]
        s.uncommitted <|> trapOf (travelAddr m s) <|> s.childTrap v (v &&& 0xFFFFFFFF) <|>
        (if s.view.spawnlim = 0 then some (trapAt 0x13 1 (v &&& 0xFFFFFFFF)) else none)
      park4 := fun s => if s.curCore.spawnBuf.length ≥ 8 then some Park.other else s.view.outPark false
      effect := fun s =>
        let c := s.ctx.core
        let a := addrOf (travelAddr m s)
        let home := s.homeOf c a
        let dst := travelNode c home
        let pc : Word32 := (s.sval x [m.idx]).setWidth 32
        let t := s.view
        let r := s.newTid c
        let child : Packet :=
          { r.1.packetOf c s.ctx.slot { t with pc := pc, fflags := 0, seq := 0, spawnlim := 0, travels := 0, parent := none } 2
              (pcWord pc) a true with
            tid := r.2, src := s.me, org := s.ctx.org, spawnCls := s.classOf c a home }
        let s := r.1.modCur fun t =>
          { t with spawnlim := t.spawnlim - 1, outst := vset t.outst child.spawnCls (vget 0 t.outst child.spawnCls + 1) }
        let s := s.modTask t.task fun k => { k with live := k.live + 1 }
        (s.modCore c fun k => { k with spawnBuf := k.spawnBuf ++ [child] }).sendPacket c dst child } s

/-- The traps of `tseg` (R301). -/
def tsegTrap (a : BitVec 5) (s : State) : Option TrapInfo :=
  let x := s.sval a
  let t : Word32 := x.setWidth 32
  let th := s.view
  if wbits x 40 24 != 0 then some (trapAt 2 2 (pcWord t))
  else if t.toNat % 8 != 0 then some (trapAt 8 0 (pcWord t))
  else if segOf t ≥ th.segCount || s.nrep s.ctx.core th (segOf t) = 0 then some (trapAt 0x0F 1 (pcWord t))
  else if wbits x 32 8 ≥ s.nrep s.ctx.core th (segOf t) then some (trapAt 0x0F 2 (pcWord t))
  else none
/-- `tseg` (R301). -/
def execTseg (h : CHead) (a : BitVec 5) (s : State) : Out :=
  runC h
    { acc := fun _ => scalarAcc [a] []
      kind := fun s => if s.view.kind = 2 then none else some (1, 9)
      trap3 := tsegTrap a
      effect := fun s =>
        let x := s.sval a
        let t : Word32 := x.setWidth 32
        let d := s.replica s.ctx.core s.view (segOf t) (wbits x 32 8)
        let via := s.replicaAddr s.ctx.core s.view (segOf t) (wbits x 32 8)
        let s := s.modCur fun y => { y with pc := t }
        if d = s.ctx.core then s else s.depart d 1 (pcWord t) via } s

end Sys2Proof.Machine
end

