-- ==== Sys2Proof/Machine/Task.lean ====
section
/-! DEFINITION. Tasks and the launch path (R304–R328): records, the dependence table, placing code and data, dispatch,
deques and stealing, join tables, the end of threads and tasks, and the task instructions. -/

namespace Sys2Proof.Machine

/-! What the launch unit reads (R305, R307, R311). -/

/-- Bytes read by the launch unit as a source of its own: `none` in the error when a page fault holds the read, else a
refusal (R311). -/
def State.unitRead (s : State) (pdid : Nat) : Nat → Word → Nat → State × Except Bool (List Byte)
  | 0, _, _ => (s, .ok [])
  | fuel + 1, a, n =>
    if n = 0 then (s, .ok [])
    else
      let k := Nat.min n (64 - a.toNat % 64)
      let got : State × Except Bool (List Byte) :=
        if spaceOf a = 3 then (s, if wbits a 48 9 = 0 then .ok (s.hostBytes (s.hostKey pdid (wbits a 0 48)) k) else .error false)
        else
          let g := addOff a (-(a.toNat % 64 : Nat))
          match s.portAcc (portOf (vaOf a)) pdid g with
          | (s, .ok l _) => (s, .ok (((s.locRead l 64).drop (a.toNat % 64)).take k))
          | (s, .fault page) => (s.faultRecord (portOf (vaOf a)) pdid page, .error true)
          | (s, .stop _ _) => (s, .error false)
          | (s, _) => (s, .error true)
      match got with
      | (s, .error w) => (s, .error w)
      | (s, .ok b) =>
        match s.unitRead pdid fuel (addOff a k) (n - k) with
        | (s, .ok r) => (s, .ok (b ++ r))
        | (s, .error w) => (s, .error w)
/-- Bytes of the object at CODE. -/
def State.objRead (s : State) (pdid : Nat) (code : Word) (off n : Nat) : State × Except Bool (List Byte) :=
  s.unitRead pdid (n / 64 + 2) (addOff code off) n

/-- A field of an image header (R55). -/
def hdr (h : List Byte) (off n : Nat) : Nat := leNat ((h.drop off).take n)
/-- Does a header break a limit or a reserved-field rule of R55? -/
def badHeader (h : List Byte) : Bool :=
  hdr h 0 4 != 0x4354564E || hdr h 4 2 != 1 || hdr h 6 2 > 1 || hdr h 8 4 % 8 != 0 ||
  hdr h 8 4 > 65536 * hdr h 32 4 || hdr h 24 2 > 16 || hdr h 26 2 > 8 || (hdr h 6 2 == 0 && hdr h 32 4 != 1) ||
  hdr h 52 4 % 8 != 0 || (hdr h 12 4 == 0 && hdr h 52 4 != 0) || (hdr h 26 2 == 0 && hdr h 56 4 != 0) || hdr h 60 4 != 0

/-- The core of a logical core in a domain's launch placement table (R397). -/
def Domain.coreOf (d : Domain) (l : Nat) : Option Nat :=
  let e := d.lplace.getD l 0
  if d.v && e / 32768 % 2 = 1 && e % 4096 < 2304 then Option.some (e % 4096) else Option.none
/-- The core set of a record: its cores in logical order, with their logical numbers. -/
def Domain.coreSet (d : Domain) (r : LaunchRec) : List (Nat × Nat) :=
  (List.range (r.last + 1 - r.first)).filterMap fun i => (d.coreOf (r.first + i)).map fun c => (r.first + i, c)
/-- The physical cores of a task's set. -/
def State.taskCores (s : State) (t : Task) : List Nat := ((s.domAt t.pdid).coreSet t.lr).map (·.2)
/-- The port cores of the device. -/
def portCores : List Nat := (List.range 256).map portCore

/-- Does an address fail R15, as the launch unit reads it: SPACE 0 or SPACE 3 only. -/
def badUnitAddr (a : Word) (host : Bool) : Bool :=
  if spaceOf a = 0 then wbits a 43 14 != 0
  else !host || spaceOf a != 3 || wbits a 48 9 != 0 || tagOf a != 0
/-- The faults of R307 that the record alone shows. -/
def State.badRecord (s : State) (pdid : Nat) (r : LaunchRec) : Bool :=
  let d := s.domAt pdid
  !r.zeroOk || r.mode == 3 || r.group == 0 || r.psize > 256 || r.first > r.last || r.last > 4095 || r.pwoff % 64 != 0 ||
  r.pwoff + 512 > 786432 || r.iorg % 64 != 0 || r.nsucc > 8 || r.npred > 4095 || r.depidx > 4095 || r.code.toNat % 64 != 0 ||
  badUnitAddr r.code false || (r.psize != 0 && badUnitAddr r.params true) ||
  !(List.range (r.last + 1 - r.first)).all fun i =>
    match d.coreOf (r.first + i) with
    | some c => (s.coreAt c).v && (s.coreAt c).pdid == pdid && !(s.coreAt c).out
    | none => false
/-- The faults of R307 that the header shows. -/
def badObject (r : LaunchRec) (h : List Byte) : Bool :=
  badHeader h || (hdr h 6 2 == 1) != (r.mode == 2) || (r.mode == 2 && r.pwoff + 256 + 32 * hdr h 32 4 > 786432)

/-! Acceptance (R305, R307–R310). -/

/-- What becomes of a record that is offered. -/
inductive Offer where
  | wait
  | refused
  | noEntry
  | noTask
  | accepted
  deriving DecidableEq, Repr

/-- The lowest free task ID (R309). -/
def State.freeTask (s : State) : Option Nat := (List.range 4095).findSome? fun i => if (tget s.tasks (i + 1)).isNone then some (i + 1) else none
/-- A task becomes ready: its age, and its placement to come (R309, R311). -/
def State.makeReady (s : State) (task : Nat) : State :=
  ({ s with ages := s.ages + 1 }.modTask task fun t => { t with ready := true, age := s.ages, lastPlaced := s.cycle }).after 1
    .taskPlacement { n := task }
/-- Offers a record to the launch unit; the dependence table's rows are R310's. -/
def State.offer (s : State) (pdid prio queue idx : Nat) (r : LaunchRec) : State × Offer :=
  if s.badRecord pdid r then (s, .refused)
  else
    match s.objRead pdid r.code 0 64 with
    | (s, .error true) => (s, .wait)
    | (s, .error false) => (s, .refused)
    | (s, .ok h) =>
      if badObject r h then (s, .refused)
      else
        let dep := if r.npred = 0 then none else tget s.deps r.depidx
        match dep with
        | some (.held _ _) => (s, .noEntry)
        | _ =>
          let early := match dep with | some (.early n) => n | _ => 0
          if r.npred != 0 && early > r.npred then (s, .refused)
          else
            match s.freeTask with
            | none => (s, .noTask)
            | some id =>
              let t : Task :=
                { pdid := pdid, prio := prio, queue := queue, ringIdx := idx, lr := r
                  image := (List.range 8).map fun i => wd (hdr h (8 * i) 8)
                  ready := false, age := 0, placed := false, group := r.group, next := 0, live := 0, trapped := 0
                  committed := false, portCode := .idle, lastPlaced := s.cycle, lastDiscard := 0, finished := false }
              let s := { s with tasks := tset s.tasks id t }
              if r.npred = 0 then (s.makeReady id, .accepted)
              else if early = r.npred then ({ s with deps := tdel s.deps r.depidx }.makeReady id, .accepted)
              else ({ s with deps := tset s.deps r.depidx (.held (r.npred - early) id) }, .accepted)
/-- A finishing task decrements a dependence entry (R310). -/
def execDependenceDecrement (s : State) : Out :=
  let e := s.subj.n
  match tget s.deps e with
  | none => .next { s with deps := tset s.deps e (.early 1) }
  | some (.early n) => .next { s with deps := tset s.deps e (.early (n + 1)) }
  | some (.held c t) =>
    if c > 1 then .next { s with deps := tset s.deps e (.held (c - 1) t) }
    else .next ({ s with deps := tdel s.deps e }.makeReady t)

/-- A work queue. -/
def State.wqAt (s : State) (q : Nat) : WorkQ := (tget s.wqs q).getD WorkQ.reset
/-- Ring slots: 2^LOGN. -/
def WorkQ.slots (w : WorkQ) : Nat := 2 ^ wbits w.cfg 36 4
/-- EN. -/
def WorkQ.en (w : WorkQ) : Bool := w.cfg.getLsbD 63
/-- HEAD advances; PHX inverts at the wrap (R305). -/
def WorkQ.advance (w : WorkQ) : WorkQ :=
  let h := wbits w.cfg 0 32 + 1
  let cfg := wd (w.cfg.toNat - wbits w.cfg 0 32)
  if h = w.slots then { w with cfg := setBit cfg 62 (!w.cfg.getLsbD 62), taken := w.taken + 1 }
  else { w with cfg := wd (cfg.toNat + h), taken := w.taken + 1 }
/-- A completion record enters the external write buffer for the queue's next completion slot (R308, R343). -/
def State.complete (s : State) (q pdid idx task status trapped : Nat) : State :=
  let w := s.wqAt q
  let a := addOff w.comp (16 * w.compPos)
  let data := toLE 4 idx ++ toLE 2 task ++ toLE 1 status ++ toLE 1 w.compPhase.toNat ++ toLE 8 trapped
  let e : ExtWrite :=
    { rin := s.cutNo, host := spaceOf w.comp = 3, pdid := pdid
      addr := if spaceOf w.comp = 3 then s.hostKey pdid (wbits a 0 48) else vaOf a, data := data, comp := some (s.domAt pdid).vf }
  let pos := w.compPos + 1
  let w := if pos = w.slots then { w with compPos := 0, compPhase := !w.compPhase } else { w with compPos := pos }
  { s with wqs := tset s.wqs q w }.enterEwb e

/-- The queue unit looks at slot HEAD, and takes the record if its phase matches (R305). It looks again 16 cycles later,
or at the next poll of a host ring. -/
def execWorkQueueTake (s : State) : Out :=
  let q := s.subj.n
  let w := s.wqAt q
  if !w.en then .next s
  else
    let pdid := wbits w.cfg 40 8
    let host := spaceOf w.base == 3
    let later (s : State) : State := if host then s else s.after 16 .workQueueTake { n := q }
    match s.unitRead pdid 3 (addOff w.base (64 * wbits w.cfg 0 32)) 64 with
    | (s, .error _) => .next (later s)
    | (s, .ok b) =>
      if hdr b 0 1 % 2 != (w.cfg.getLsbD 62).toNat then .next (later s)
      else
        let r := decodeLaunch b
        let x := s.offer pdid (Nat.min r.prio (wbits w.cfg 48 8)) q w.taken r
        let s := x.1
        let took (s : State) : State :=
          { s with wqs := tset s.wqs q (s.wqAt q).advance }.after 1 .workQueueTake { n := q }
        match x.2 with
        | .accepted => .next (took s)
        | .refused => .next (took (s.complete q pdid w.taken 0 1 0))
        | _ => .next (later s)
/-- A ring in host memory is polled every 1,024 cycles (R305). -/
def execHostRingPoll (s : State) : Out :=
  let w := s.wqAt s.subj.n
  if w.en && spaceOf w.base == 3 then
    .next ((s.after 0 .workQueueTake { n := s.subj.n }).after 1024 .hostRingPoll { n := s.subj.n })
  else .next s

/-! Placement (R311). -/

/-- Writes into an instruction store, with undo records (R339). -/
def State.istoreWrite (s : State) (c off : Nat) (bs : List Byte) : State :=
  let s := (granulesOf off bs.length).foldl (fun s g => s.undoCode c g) s
  { s with istore := mwrite s.istore (istoreKey c off) bs }
/-- Do two instruction-store ranges overlap? -/
def CodeEntry.overlaps (e : CodeEntry) (origin len : Nat) : Bool := e.origin < origin + len && origin < e.origin + e.len
/-- Places a segment's code in a core: an entry that a finished task left is given the new task without a reload; none
when no entry is free (R311). -/
def State.placeText (s : State) (c task seg : Nat) (code : Word) (origin : Nat) (bs : List Byte) : Option State :=
  let k := s.coreAt c
  if (k.codeEntry task seg).isSome then some s
  else if k.codeDir.any fun e => e.free && e.code == code && e.origin == origin && e.seg == seg then
    some (s.setCore c { k with codeDir := k.codeDir.map fun e =>
      if e.free && e.code == code && e.origin == origin && e.seg == seg then { e with task := task, free := false } else e })
  else
    let dir := k.codeDir.filter fun e => !(e.free && e.overlaps origin bs.length)
    let dir := if dir.length < 8 then dir else dir.eraseP (·.free)
    if dir.length ≥ 8 then none
    else
      let s := s.setCore c { k with codeDir := dir ++ [⟨task, seg, origin, bs.length, code, false⟩] }
      some (s.istoreWrite c origin bs)
/-- Code pieces of a core: segment, offset and bytes. -/
abbrev Piece := Nat × Nat × List Byte
/-- Places pieces in every listed core, or in none of them. -/
def State.placeAll (s : State) (task : Nat) (code : Word) : List (Nat × List Piece) → Option State
  | [] => some s
  | (c, ps) :: rest =>
    match ps.foldl (fun o (x : Piece) => o.bind fun s => s.placeText c task x.1 code x.2.1 x.2.2) (some s) with
    | some s => s.placeAll task code rest
    | none => none

/-- A segment of an object: number, flags, code, and its explicit coppice's logical cores (R56; DEDUCED, log 13). -/
structure SegObj where
  num : Nat
  explicit : Bool
  text : List Byte
  cores : List Nat
  deriving DecidableEq, Repr
/-- Reads the segments of the object at CODE. An entry whose FLAGS has another bit set, or whose length passes 65,536, is
refused as a read that fails is (R55, R56); FLAGS[0] and the list's offset both set name an explicit coppice, and any
other pair automatic choice (DEDUCED, log 13). -/
def State.readSegs (s : State) (pdid : Nat) (code : Word) (segoff : Nat) : Nat → Nat → State × Except Bool (List SegObj)
  | 0, _ => (s, .ok [])
  | n + 1, i =>
    match s.objRead pdid code (segoff + 16 * i) 16 with
    | (s, .error w) => (s, .error w)
    | (s, .ok e) =>
      let flags := hdr e 2 2
      match if flags > 1 || hdr e 8 4 > 65536 then (s, .error false) else s.objRead pdid code (hdr e 4 4) (hdr e 8 4) with
      | (s, .error w) => (s, .error w)
      | (s, .ok text) =>
        let lst : State × Except Bool (List Byte) :=
          if flags % 2 = 1 && hdr e 12 4 != 0 then s.objRead pdid code (hdr e 12 4) 32 else (s, .ok (List.replicate 32 0))
        match lst with
        | (s, .error w) => (s, .error w)
        | (s, .ok l) =>
          let cores := (List.range (Nat.min (hdr l 0 2) 15)).map fun j => hdr l (2 + 2 * j) 2
          match s.readSegs pdid code segoff n (i + 1) with
          | (s, .ok r) => (s, .ok (⟨hdr e 0 2, flags % 2 = 1 && hdr e 12 4 != 0, text, cores⟩ :: r))
          | (s, .error w) => (s, .error w)
/-- The logical cores of segment `g`'s coppice, of `n` segments (R311). -/
def coppice (set : List (Nat × Nat)) (n : Nat) (g : SegObj) : List Nat :=
  if g.explicit then g.cores
  else if set.length < n then [(set.getD (g.num % Nat.max 1 set.length) (0, 0)).1]
  else ((set.zipIdx.filter fun x => x.2 % n == g.num).map fun x => x.1.1).take 15
/-- Puts a segment among others in ascending order of number. -/
def insertSeg (g : SegObj) : List SegObj → List SegObj
  | [] => [g]
  | x :: r => if g.num < x.num then g :: x :: r else x :: insertSeg g r
/-- Segments in ascending order of number (R311). -/
def sortSegs (l : List SegObj) : List SegObj := l.foldl (fun r g => insertSeg g r) []
/-- Packs segments from IORG, each at a multiple of 64 (R311). -/
def packSegs : Nat → List SegObj → List Piece
  | _, [] => []
  | o, g :: r => (g.num, o, g.text) :: packSegs ((o + g.text.length + 63) / 64 * 64) r
/-- The coppice table's bytes (R296). -/
def coppiceTable (set : List (Nat × Nat)) (segs : List SegObj) (n : Nat) : List Byte :=
  (List.range n).flatMap fun i =>
    let l := ((segs.find? (·.num == i)).map (coppice set n)).getD []
    toLE 2 l.length ++ (List.range 15).flatMap fun j => toLE 2 (l.getD j 0)

/-- What a placement needs: every core's code, the data, the parameters and the coppice table. -/
structure Load where
  text : List (Nat × List Piece)
  data : List Byte
  params : List Byte
  table : List Byte
  segs : Nat
  deriving DecidableEq, Repr
/-- A header field of the task's object. -/
def Task.hdr (t : Task) (off n : Nat) : Nat := bits ((t.image.getD (off / 8) 0).toNat) (8 * (off % 8)) (8 * n)
/-- Reads all that a task's placement needs (R311). -/
def State.loadOf (s : State) (t : Task) : State × Except Bool Load :=
  let r := t.lr
  let set := (s.domAt t.pdid).coreSet r
  let cores := set.map (·.2)
  let n := if r.mode = 2 then t.hdr 32 4 else 1
  match s.readSegs t.pdid r.code (t.hdr 36 4) (Nat.min n 256) 0 with
  | (s, .error w) => (s, .error w)
  | (s, .ok segs) =>
    match s.objRead t.pdid r.code (t.hdr 52 4) (Nat.min (t.hdr 12 4) 786433) with
    | (s, .error w) => (s, .error w)
    | (s, .ok data) =>
      match s.unitRead t.pdid 6 r.params r.psize with
      | (s, .error w) => (s, .error w)
      | (s, .ok params) =>
        let one := sortSegs (segs.map fun g => ({ g with num := if r.mode = 2 then g.num else 0 } : SegObj))
        let mine (x : Nat × Nat) : List SegObj := if r.mode = 2 then one.filter fun g => (coppice set n g).contains x.1 else one
        let own := set.map fun x => (x.2, packSegs r.iorg (mine x))
        let ports := if r.mode = 0 then [] else
          (portCores.filter fun c => !cores.contains c).map fun c => (c, packSegs r.iorg one)
        let both := if r.mode = 0 then own else
          own.map fun x => if (corePort x.1).isSome then (x.1, packSegs r.iorg one) else x
        (s, .ok ⟨both ++ ports, data, params, if r.mode = 2 then coppiceTable set one n else [], if r.mode = 2 then n else 0⟩)
/-- Does the code or data not fit (R311)? -/
def Load.tooBig (l : Load) (t : Task) : Bool :=
  l.text.any (fun x => x.2.any fun (p : Piece) => p.2.1 + p.2.2.length > 65536) ||
  (l.data.length != 0 && t.hdr 16 4 + l.data.length > 786432)
/-- The directory entries of a task are released for reuse (R311, R318). -/
def State.freeCode (s : State) (task : Nat) : State :=
  { s with cores := s.cores.map fun x =>
      (x.1, { x.2 with
        codeDir := x.2.codeDir.map fun e => if e.task == task && !e.free then { e with free := true } else e
        windows := x.2.windows.filter (·.task != task) }) }
/-- Refused at placement: status 3 (R311). -/
def State.refuseTask (s : State) (task : Nat) (t : Task) : State :=
  let s := s.freeCode task
  ({ s with tasks := tdel s.tasks task }).complete t.queue t.pdid t.ringIdx task 3 0
/-- Data, parameters and coppice table at one core, and the window that binds them (R135, R296, R311). -/
def State.placeData (s : State) (c task : Nat) (t : Task) (l : Load) : State :=
  let s := s.spadWriteLong c (l.data.length / 64 + 2) (t.hdr 16 4) l.data false
  let s := s.spadWriteLong c 6 t.lr.pwoff l.params false
  let s := s.spadWriteLong c (l.table.length / 64 + 2) (t.lr.pwoff + 256) l.table false
  let w : Window :=
    ⟨task, wd t.lr.pwoff, wd t.lr.psize, if t.lr.mode = 2 then wd ((t.lr.pwoff + 256) * 2 ^ 32 + l.segs) else 0⟩
  s.modCore c fun k => { k with windows := k.windows.filter (·.task != task) ++ [w] }
/-- The launch unit places a ready task (R311); it tries again while a fault or a full directory holds it. -/
def execTaskPlacement (s : State) : Out :=
  let id := s.subj.n
  match tget s.tasks id with
  | none => .next s
  | some t =>
    if t.placed || !t.ready then .next s
    else
      match s.loadOf t with
      | (s, .error true) => .next (s.after 1024 .taskPlacement { n := id })
      | (s, .error false) => .next (s.refuseTask id t)
      | (s, .ok l) =>
        if l.tooBig t then .next (s.refuseTask id t)
        else
          match s.placeAll id t.lr.code l.text with
          | none => .next (s.after 64 .taskPlacement { n := id })
          | some s =>
            let s := (s.taskCores t).foldl (fun s c => s.placeData c id t l) s
            .next (s.modTask id fun t => { t with placed := true, lastPlaced := s.cycle })
/-- The code of an anchored task is placed in the port cores for its first `fork` (R311, R322). -/
def execPortCoreCodePlacement (s : State) : Out :=
  let id := s.subj.n
  match tget s.tasks id with
  | none => .next s
  | some t =>
    match s.readSegs t.pdid t.lr.code (t.hdr 36 4) 1 0 with
    | (s, .error true) => .next (s.after 1024 .portCoreCodePlacement { n := id })
    | (s, .error false) => .next (s.modTask id fun t => { t with portCode := .answered false })
    | (s, .ok segs) =>
      let ps := packSegs t.lr.iorg (segs.map fun g => ({ g with num := 0 } : SegObj))
      match s.placeAll id t.lr.code (portCores.map fun c => (c, ps)) with
      | some s => .next (s.modTask id fun t => { t with portCode := .answered true })
      | none => .next (s.modTask id fun t => { t with portCode := .answered false })

/-! Dispatch (R312, R313, R315). -/

/-- Does one task come before another for the dispatcher? -/
def Task.before (a b : Task) : Bool := a.prio > b.prio || (a.prio == b.prio && a.age < b.age)
/-- The task whose next index a core gets (R312). -/
def State.bestTask (s : State) (c : Nat) : Option (Nat × Task) :=
  (s.tasks.filter fun x => x.2.ready && x.2.placed && x.2.next < x.2.group && (s.taskCores x.2).contains c).foldl
    (fun b x => match b with | none => some x | some y => if Task.before x.2 y.2 then some x else some y) none
/-- The dispatcher serves a core's request, if a task qualifies (R312). -/
def State.serveRequest (s : State) (c : Nat) : State :=
  match s.bestTask c with
  | none => s
  | some (id, t) =>
    let s := { s with requests := s.requests.erase c }
    let s := s.modTask id fun t => { t with next := t.next + 1, live := t.live + 1 }
    s.send launchNode c .dispatchRequest { core := c, n := id, m := t.next, b := true }
/-- A core's request reaches the dispatcher, which serves those it has in arrival order and holds the others; with the flag
set, the index it sends reaches the core's FIFO (R312). -/
def execDispatchRequest (s : State) : Out :=
  let c := s.subj.core
  if s.subj.b then .next (s.modCore c fun k => { k with fifo := k.fifo ++ [(s.subj.n, s.subj.m)], fifoAsked := false })
  else
    let s := if s.requests.contains c then s else { s with requests := s.requests ++ [c] }
    .next (s.requests.foldl (fun s c => s.serveRequest c) s)
/-- The thread of an index record (R313). -/
def State.indexThread (s : State) (c id idx : Nat) (t : Task) (sg : Vector Seg 8) (tid : Nat) : Thread :=
  let w := (s.coreAt c).window id
  { Thread.reset with
    tid := tid, task := id, pdid := t.pdid
    pc := BitVec.ofNat 32 (t.hdr 20 4) &&& 0xFFF8
    s := Thread.reset.s.set 0 (wd idx)
    status := wd (t.lr.mode * 64), spawnlim := 255
    twin := if t.lr.mode = 0 then wd (t.lr.twinv * 2 ^ 32 + t.lr.twinp) else 0
    sg := sg, pwbase := w.pwbase, pwsize := w.pwsize, segmap := w.segmap, stamp := s.cycle, earliest := s.cycle + 1 }
/-- The thread of a forked record where it is placed (R322). -/
def State.forkThread (s : State) (c : Nat) (f : ForkRec) (sg : Vector Seg 8) : Thread :=
  let w := (s.coreAt c).window f.task
  { Thread.reset with
    tid := f.tid, task := f.task, pdid := f.pdid, pc := f.pc
    s := Vector.ofFn fun i => f.regs.getD i 0
    p := f.pred, status := f.status, parent := some f.parent
    sg := sg, pwbase := w.pwbase, pwsize := w.pwsize, segmap := w.segmap, stamp := s.cycle, earliest := s.cycle + 1 }
/-- Places a forked record in a slot. -/
def State.placeFork (s : State) (c sl : Nat) (f : ForkRec) : State :=
  let r := s.segSet c f.pdid
  r.1.setThread c sl (r.1.forkThread c f (segRegs (r.2.getD [])))
/-- Places the thread of an index record in a slot; its task has had an index placed (R313, R320). -/
def State.placeIndex (s : State) (c sl id idx : Nat) : State :=
  match tget s.tasks id with
  | none => s
  | some t =>
    let r := s.segSet c t.pdid
    let n := r.1.newTid c
    (n.1.setThread c sl (n.1.indexThread c id idx t (segRegs (r.2.getD [])) n.2)).modTask id fun t =>
      { t with lastPlaced := s.cycle }
/-- The widest scope two cores share: 0 group, 1 die, 2 package. -/
def scopeBetween (a b : Nat) : Nat := if a / 16 = b / 16 then 0 else if a / 288 = b / 288 then 1 else 2
/-- May a thief take a record (R316)? -/
def State.mayStealRec (s : State) (thief : Nat) (f : ForkRec) : Bool :=
  match tget s.tasks f.task with
  | none => false
  | some t =>
    t.lr.steal != 3 && scopeBetween thief f.originCore ≤ t.lr.steal && (s.coreAt thief).v &&
    (s.coreAt thief).pdid == t.pdid && (t.lr.mode != 0 || (s.taskCores t).contains thief)
/-- What the deque unit of core `c` does in one turn (R315, R316): a steal is answered with the bottom record, or empty; a
take for a slot that is no longer free, or finds an arrival to place first, takes nothing. -/
def State.dequeOp (s : State) (c : Nat) (op : DequeOp) : State :=
  let k := s.coreAt c
  match op with
  | .push f => s.setCore c { k with deque := k.deque ++ [f] }
  | .take sl =>
    match k.deque.getLast? with
    | some f =>
      if k.slotFree sl && k.aq.isEmpty then (s.setCore c { k with deque := k.deque.dropLast }).placeFork c sl f else s
    | none => s
  | .steal thief n =>
    match k.deque.head?.filter (s.mayStealRec thief) with
    | some r => (s.setCore c { k with deque := k.deque.drop 1 }).send c thief .stealRequest { core := thief, fork := some r }
    | none => s.send c thief .stealRequest { core := thief, n := n, m := c, b := true }
/-- The deque unit makes one push, take or steal a cycle, in the order they arrived (R315). -/
def State.dequeTurn (s : State) (c : Nat) : State :=
  match (s.coreAt c).dequeQ with
  | [] => s
  | op :: rest =>
    if s.cycle < (s.coreAt c).dequeFree then s
    else (s.modCore c fun k => { k with dequeQ := rest, dequeFree := s.cycle + 1 }).dequeOp c op
/-- An operation reaches the deque unit. -/
def State.dequeAsk (s : State) (c : Nat) (op : DequeOp) : State :=
  (s.modCore c fun k => { k with dequeQ := k.dequeQ ++ [op] }).dequeTurn c
/-- Is a take for a slot waiting for its turn? -/
def Core.taking (k : Core) (sl : Nat) : Bool := k.dequeQ.contains (.take sl)
/-- Takes that wait for their turn. -/
def Core.takes (k : Core) : Nat := k.dequeQ.countP fun o => match o with | .take _ => true | _ => false
/-- A free slot is filled: arrival queue, top of the deque, dispatch FIFO, a stolen record (R315). -/
def execThreadPlacement (s : State) : Out :=
  let c := s.subj.core
  let sl := s.subj.slot
  let k := s.coreAt c
  if !k.slotFree sl || k.taking sl then .next s
  else
    match k.aq, decide (k.takes < k.deque.length), k.fifo, k.stolen with
    | p :: rest, _, _, _ => .next (((s.setCore c { k with aq := rest }).placePacket c sl p).freeArrivals c)
    | [], true, _, _ => .next (s.dequeAsk c (.take sl))
    | [], false, (id, idx) :: rest, _ => .next ((s.setCore c { k with fifo := rest }).placeIndex c sl id idx)
    | [], false, [], f :: rest => .next ((s.setCore c { k with stolen := rest }).placeFork c sl f)
    | [], false, [], [] => .next s

/-! Stealing (R316). -/

/-- The victims of a core in order, out to a scope (R316). -/
def victims (c scope : Nat) : List Nat :=
  let ring (lo n : Nat) (skip : Nat → Bool) : List Nat :=
    ((List.range (n - 1)).map fun i => lo + (c - lo + 1 + i) % n).filter fun x => !skip x
  if scope = 3 then []
  else
    ring (c / 16 * 16) 16 (fun _ => false) ++
    (if scope ≥ 1 then ring (c / 288 * 288) 288 (fun x => x / 16 == c / 16) else []) ++
    (if scope ≥ 2 then ring 0 2304 (fun x => x / 288 == c / 288) else [])
/-- Is there something to place (R315)? -/
def Core.hasWork (k : Core) : Bool := !k.aq.isEmpty || !k.deque.isEmpty || !k.fifo.isEmpty || !k.stolen.isEmpty
/-- Would a core steal: it has a free slot, and nothing to place in it (R316)? -/
def Core.wantsWork (k : Core) : Bool := k.v && !k.out && k.stealdom != 3 && k.freeSlot.isSome && !k.hasWork
/-- A thief asks the victim at a place of its order, while it still wants a record; a fruitless round is tried again after
256 cycles (R316). -/
def State.askVictim (s : State) (c n : Nat) : State :=
  let k := s.coreAt c
  if !k.wantsWork then s.modCore c fun k => { k with stealWait := false }
  else
    match (victims c k.stealdom.toNat)[n]? with
    | none => s.after 256 .stealRetry { core := c }
    | some v => s.send c v .stealRequest { core := c, n := n, m := v }
/-- A steal request reaches its victim, whose deque unit answers with its bottom record or empty (R316): the subject names the thief,
the victim's place in its order and the victim. With the flag set it is the empty answer at the thief, which asks the next
victim; with a record, the record reaches the thief. -/
def execStealRequest (s : State) : Out :=
  let c := s.subj.core
  let v := s.subj.m
  match s.subj.fork with
  | some f => .next (s.modCore c fun k => { k with stolen := k.stolen ++ [f], stealWait := false })
  | none =>
    if s.subj.b then .next (s.askVictim c (s.subj.n + 1))
    else .next (s.dequeAsk v (.steal c s.subj.n))
/-- The core may steal again (R316). -/
def execStealRetry (s : State) : Out := .next (s.modCore s.subj.core fun k => { k with stealWait := false })

/-! The end of a thread (R317, R318, R327). -/

/-- The core that created a thread (R286). -/
def creator (tid : Nat) : Nat := tid / 2 ^ 20 % 4096
/-- A thread's join entry. -/
def State.joinOf (s : State) (tid : Nat) : Option JoinE := tget (s.coreAt (creator tid)).joins tid
/-- Applies a function to the join table a thread's entry lies in. -/
def State.modJoins (s : State) (tid : Nat) (f : Table JoinE → Table JoinE) : State :=
  s.modCore (creator tid) fun k => { k with joins := f k.joins }
/-- A thread of a slot ends: eyelets, capabilities, monitors, its parent and its task (R216, R327). What a late trap will
name of it is kept (R370). -/
def State.endThread (s : State) (c sl : Nat) (t : Thread) (trapped : Bool) : State :=
  let rpc := if t.run = .stopped then t.rpc else t.pc
  let s := (s.closeEyelets c sl).clearCaps c sl
  let s := (s.dropThread c sl).leaveComb c sl
  let s := s.modCore c fun k =>
    { k with
      gone := (k.gone ++ [(t.tid, t.task, t.pdid, rpc)]).drop ((k.gone.length + 1) - 64) }
  let s := s.modJoins t.tid fun j => tdel j t.tid
  let s := match t.parent with
    | some p => s.send c p.1 .childEnd { core := p.1, n := p.2, b := trapped }
    | none => s
  s.modTask t.task fun k => { k with live := k.live - 1, trapped := k.trapped + trapped.toNat }
/-- A child's end reaches its parent's creating core (R317). -/
def execChildEnd (s : State) : Out :=
  .next (s.modCore s.subj.core fun k =>
    { k with joins := tmod k.joins s.subj.n fun j => { j with live := j.live - 1, fail := j.fail + s.subj.b.toNat } })
/-- A task with no live thread and no index left finishes (R318). -/
def execTaskFinish (s : State) : Out :=
  let id := s.subj.n
  match tget s.tasks id with
  | none => .next s
  | some t =>
    if t.live != 0 || t.next < t.group || !t.placed then .next s
    else
      let s := (t.lr.succ.take t.lr.nsucc).foldl (fun s e => s.after 0 .dependenceDecrement { n := e }) s
      let s := s.complete t.queue t.pdid t.ringIdx id (if t.trapped = 0 then 0 else 2) t.trapped
      .next ({ s with tasks := tdel s.tasks id }.freeCode id)

/-! Discard (R320). -/

/-- The victim a waiting task discards: uncommitted, lowest priority below its own, youngest, with a slot in its set. -/
def State.discardVictim (s : State) (w : Task) : Option Nat :=
  let cores := s.taskCores w
  let held (id : Nat) : Bool := cores.any fun c => (s.coreAt c).threads.any (·.2.task == id)
  ((s.tasks.filter fun x => !x.2.committed && x.2.prio < w.prio && held x.1).foldl (fun b x =>
    match b with
    | none => some x
    | some y => if x.2.prio < y.2.prio || (x.2.prio == y.2.prio && x.2.age > y.2.age) then some x else some y) none).map (·.1)
/-- Has a task an index that is not placed: not dispatched yet, or in a FIFO of its set? -/
def State.indexWaits (s : State) (id : Nat) (w : Task) : Bool :=
  w.next < w.group || (s.taskCores w).any fun c => (s.coreAt c).fifo.any (·.1 == id)
/-- Is a waiting task due a discard: no index placed for 8,192 cycles, its set without a free slot? -/
def State.discardDue (s : State) (id : Nat) (w : Task) : Bool :=
  w.ready && w.placed && s.indexWaits id w && w.lastPlaced + 8192 ≤ s.cycle && w.lastDiscard + 8192 ≤ s.cycle &&
  (s.taskCores w).all (fun c => (s.coreAt c).freeSlot.isNone) && (s.discardVictim w).isSome
/-- A task's packet. -/
def ofTask (id : Nat) (p : Packet) : Bool := p.task == id
/-- Is a step about a packet or an index of a task? -/
def carriesTask (id : Nat) (e : Ev) : Bool :=
  match e.ins with
  | .packetArrival _ p => ofTask id p
  | .arrivalReport p _ _ => ofTask id p
  | .reservationGrant p _ => ofTask id p
  | .reservationRetry p _ => ofTask id p
  | .packetResendTimeout p _ => ofTask id p
  | .dispatchRequest => e.subj.b && e.subj.n == id
  | _ => false
/-- A core after a task's discard: no thread, record, index or packet of it is left. -/
def Core.purge (k : Core) (id : Nat) : Core :=
  { k with
    fifo := k.fifo.filter (·.1 != id)
    deque := k.deque.filter (·.task != id)
    dequeQ := k.dequeQ.filter fun o => match o with | .push f => f.task != id | _ => true
    stolen := k.stolen.filter (·.task != id)
    aq := k.aq.filter fun p => !ofTask id p
    ring := k.ring.filter fun p => !ofTask id p
    resv := k.resv.filter fun p => !ofTask id p
    granted := k.granted.filter fun p => !ofTask id p
    spawnBuf := k.spawnBuf.filter fun p => !ofTask id p }
/-- The slots that a task's threads hold at a core, with their threads. -/
def Core.slotsOf (k : Core) (id : Nat) : Table Thread := k.threads.filter (·.2.task == id)
/-- Discards a task: it goes back to the ready set with its age (R320). -/
def State.discard (s : State) (id : Nat) : State :=
  let s := s.cores.foldl (fun s x =>
    (x.2.slotsOf id).foldl (fun (s : State) (e : Nat × Thread) =>
      (((s.closeEyelets x.1 e.1).clearCaps x.1 e.1).dropThread x.1 e.1).leaveComb x.1 e.1) s) s
  let s := s.cores.foldl (fun s x => (s.modCore x.1 fun k => k.purge id).freeArrivals x.1) s
  let lost := s.net.filter fun m => carriesTask id m.ev && m.ev.ins == .dispatchRequest
  let s := lost.foldl (fun (s : State) m => s.modCore m.dst fun k => { k with fifoAsked := false }) s
  let s := { s with net := s.net.filter fun m => !carriesTask id m.ev, agenda := s.agenda.filter fun x => !carriesTask id x.2 }
  let s := s.freeCode id
  (s.modTask id fun t =>
    { t with placed := false, group := t.lr.group, next := 0, live := 0, trapped := 0, portCode := .idle
             lastPlaced := s.cycle }).after 1 .taskPlacement { n := id }
/-- The dispatcher discards an uncommitted task for one that waits (R320). -/
def execTaskDiscard (s : State) : Out :=
  match tget s.tasks s.subj.n with
  | none => .next s
  | some w =>
    if !s.discardDue s.subj.n w then .next s
    else
      match s.discardVictim w with
      | none => .next s
      | some v => .next ((s.modTask s.subj.n fun t => { t with lastDiscard := s.cycle }).discard v)

/-! fork and join (R322, R323). -/

/-- Must the first `fork` of an anchored task wait for the port cores (R322)? -/
def State.forkTask (s : State) : Option Task := (tget s.tasks s.view.task).filter (·.lr.mode == 0)
/-- Records whose push waits for its turn. -/
def Core.dequePushes (k : Core) : List ForkRec := k.dequeQ.filterMap fun o => match o with | .push f => some f | _ => none
/-- Records in a deque, with the pushes that wait for their turn (R315). -/
def Core.dequeLoad (k : Core) : Nat := k.deque.length + k.dequePushes.length
/-- `fork` (R322). -/
def execFork (h : CHead) (a b : BitVec 5) (s : State) : Out :=
  runC h
    { acc := fun _ => scalarAcc [b] [(a, none)] childReads
      trap3 := fun s => s.uncommitted <|> s.childTrap (s.sval b) 0
      park4 := fun s =>
        match s.forkTask with
        | some t => (match t.portCode with | .answered _ => none | _ => some Park.other)
        | none => none
      onPark := fun s =>
        match s.forkTask with
        | some t =>
          if t.portCode = .idle then
            (s.modTask s.view.task fun t => { t with portCode := .waiting }).after 1 .portCoreCodePlacement { n := s.view.task }
          else s
        | none => s
      effect := fun s =>
        let c := s.ctx.core
        let t := s.view
        let pc : Word32 := (s.sval b).setWidth 32
        let noCode := (s.forkTask.map (·.portCode == .answered false)).getD false
        let join := s.joinOf t.tid
        let full := s.curCore.dequeLoad ≥ 32 || (join.isNone && (s.coreAt (creator t.tid)).joins.length ≥ 256)
        let reply (s : State) (v : Nat) : State :=
          if creator t.tid = c then s.resultTracked a 2 (wd v)
          else
            let w := s.me
            let d := s.track a
            d.1.send (creator t.tid) c (.trackedRegisterWrite ⟨w, d.2, v, none⟩)
        if noCode then reply (s.modTask t.task fun k => { k with portCode := .idle }) (2 ^ 64 - 1)
        else if full then reply s (2 ^ 64 - 1)
        else
          let r := s.newTid c
          let f : ForkRec :=
            { tid := r.2, task := t.task, pdid := t.pdid, pc := pc, regs := t.s.toList, pred := t.p ||| 0x80
              status := setBit (setBit t.status 7 (t.kind == 2)) 6 (t.kind != 2)
              parent := (creator t.tid, t.tid), originCore := c }
          let s := r.1.dequeAsk c (.push f)
          let s := s.modJoins t.tid fun j => tset j t.tid { (join.getD ⟨0, 0⟩) with live := (join.getD ⟨0, 0⟩).live + 1 }
          reply (s.modTask t.task fun k => { k with live := k.live + 1 }) 0 } s
/-- `join` (R323). -/
def execJoin (h : CHead) (a : BitVec 5) (s : State) : Out :=
  runC h
    { acc := fun _ => scalarAcc [] [(a, none)]
      park4 := fun s => if ((s.joinOf s.view.tid).map (·.live)).getD 0 = 0 then none else some Park.other
      effect := fun s =>
        let tid := s.view.tid
        let v := ((s.joinOf tid).map (·.fail)).getD 0
        let s := s.modJoins tid fun j => tdel j tid
        if creator tid = s.ctx.core then s.resultTracked a 2 (wd v)
        else
          let w := s.me
          let d := s.track a
          d.1.send (creator tid) s.ctx.core (.trackedRegisterWrite ⟨w, d.2, v, none⟩) } s

/-! launch, grow, commit, done (R324–R327). -/

/-- `launch` (R324): the read of the record is a request of the thread. -/
def execLaunch (h : CHead) (m : MemR) (s : State) : Out :=
  let u : GlobalUse :=
    { ref := fun s => s.refR m, size := 64, r := true, align := 64, travels := false, host := false }
  let spec := u.spec (scalarAcc [m.idx] []) .launchRec fun r s => (s, { r with cls := 2 })
  runC h { spec with trap3 := fun s => s.uncommitted <|> u.trap s } s
/-- The launch unit accepts or refuses a submitted record (R324). Its answer, with the flag set, comes back to the core with
the DETAIL of a refusal, or 0. -/
def execLaunchSubmit (who : SlotRef) (org : Origin) (task pdid : Nat) (r : LaunchRec) (s : State) : Out :=
  if s.subj.b then
    let s' := s.countIn who 2 false
    .next (if s.subj.n = 0 then s' else s'.reportTrap who org ⟨2, 4, 0, wd s.subj.n⟩)
  else
    let answer (s : State) (n : Nat) : Out :=
      .next (s.send launchNode who.core (.launchSubmit who org task pdid r) { b := true, n := n })
    match tget s.tasks task with
    | none => answer s 0
    | some t =>
      let x := s.offer pdid (Nat.min r.prio t.prio) t.queue 0xFFFFFFFF r
      match x.2 with
      | .wait => .next (x.1.after 1024 (.launchSubmit who org task pdid r))
      | .accepted => answer x.1 0
      | .refused => answer x.1 1
      | .noEntry => answer x.1 2
      | .noTask => answer x.1 3

/-- `grow` (R325). -/
def execGrow (h : CHead) (a : BitVec 5) (s : State) : Out :=
  runC h
    { acc := fun _ => scalarAcc [a] [(a, none)]
      trap3 := fun s => s.uncommitted
      effect := fun s =>
        let n := s.sval a
        let w := s.me
        let d := s.track a
        d.1.send s.ctx.core launchNode (.growRequest w s.ctx.org s.view.task n d.2) } s
/-- The dispatcher extends a group and replies, or the count would overflow (R325). The reply, with the flag set, comes back
to the core: in `n` the GROUP it found, or in `m` 1 for the overflow; the register is then full with the value it had, and a
reserved queue entry is given back (DEDUCED, log 27: the entry lists no other effect, R5). -/
def execGrowRequest (who : SlotRef) (org : Origin) (task : Nat) (n : Word) (dst : RegDst) (s : State) : Out :=
  if s.subj.b then
    if s.subj.m = 0 then .next (s.writeFull who dst s.subj.n)
    else
      .next ((match dst with
        | .queue q e => s.modQueue who.core q fun x => { x with entries := x.entries.filter (·.1 != e) }
        | d => s.modWho who (·.mark d false)).reportTrap who org ⟨0x13, 3, 0, 0⟩)
  else
    match tget s.tasks task with
    | none => .next s
    | some t =>
      let tooBig := decide (t.group + n.toNat > 2 ^ 32 - 1)
      let s := if tooBig then s else s.modTask task fun t => { t with group := t.group + n.toNat }
      .next (s.send launchNode who.core (.growRequest who org task n dst) { b := true, n := t.group, m := tooBig.toNat })

/-- `commit` (R326). -/
def execCommit (h : CHead) (s : State) : Out :=
  runC h
    { park4 := fun s => (match s.view.commitX with | .answered _ => none | _ => some Park.other)
      onPark := fun s =>
        if s.view.commitX = .idle then
          (s.modCur fun t => { t with commitX := .waiting }).send s.ctx.core launchNode (.commitRequest s.me s.view.task)
        else s
      effect := fun s => s.modCur fun t => { t with commitX := .idle } } s
/-- The dispatcher commits a task and answers (R326); a discard that came first has ended the asker. The answer, with the
flag set, comes back to the core. -/
def execCommitRequest (who : SlotRef) (task : Nat) (s : State) : Out :=
  if s.subj.b then .next (s.modWho who fun t => { t with commitX := .answered true })
  else
    match s.who who with
    | none => .next s
    | some _ =>
      .next ((s.modTask task fun t => { t with committed := true }).send launchNode who.core (.commitRequest who task) { b := true })

/-- May the thread end (R327)? -/
def State.mayEnd (s : State) (t : Thread) : Bool :=
  ((s.joinOf t.tid).map (·.live)).getD 0 == 0 && t.outst.toList.all (· == 0) && t.d.toList.all (· == 0) && t.sEmpty == 0 &&
  t.vEmpty == 0
/-- A thread whose `done` has issued ends once both words of its bundle have acted; in the service slot a handler ends
(R268, R327). -/
def State.finishDone (s : State) (c sl : Nat) : State :=
  match s.threadAt c sl with
  | none => s
  | some t =>
    if !t.ending then s
    else
      match t.handler with
      | some m => s.endHandler c sl m (t.sreg 0)
      | none => s.endThread c sl t false
/-- `done` (R327). -/
def execDone (h : CHead) (s : State) : Out :=
  let o := runC h
    { park4 := fun s => if s.mayEnd s.view then none else some Park.other
      effect := fun s => s.modCur fun t => { t with ending := true } } s
  match o with
  | .next s' => .next (if s.ctx.mode = .alone then s'.finishDone s.ctx.core s.ctx.slot else s')
  | o => o

end Sys2Proof.Machine
end

