-- ==== Sys2Proof/Machine/Perform.lean ====
section
/-! DEFINITION. What a local access does when its banks perform it (R120–R123): what each kind of access does, the banks
it takes, and what delays it, with every later local access of its core. -/

namespace Sys2Proof.Machine

/-! The local queue is delayed as a whole (R120, R121). -/

/-- Is a step in the local queue of a core: an access, or a request or active message that the interface sends to the own
core (R120, R276)? -/
def holdLocal (c : Nat) (e : Ev) : Bool :=
  let own (r : Req) : Bool := r.node == c && r.who.core == c
  match e.ins with
  | .localAccessPerformed k _ => k == c
  | .globalRead r => own r
  | .globalWrite r => own r
  | .atomicAtHome r => own r
  | .flushReadAtHome r => own r
  | .amsgArrival m => m.home == c && m.who.core == c
  | _ => false
/-- A delayed access holds every later one of the core for a cycle, in order (R120). -/
def State.delayLocal (s : State) (c : Nat) (a : LocalAcc) : State :=
  let late := s.agenda.filter fun x => holdLocal c x.2
  let s := { s with agenda := s.agenda.filter fun x => !holdLocal c x.2 }
  let s := s.at (s.cycle + 1) ⟨.localAccessPerformed c a, {}⟩
  let s := late.foldl (fun (s : State) (x : Nat × Ev) => s.at (x.1 + 1) x.2) s
  s.modCore c fun k => { k with localFree := k.localFree + 1 }

/-- The head of the queue loses the banks that others have taken in this cycle (R121). -/
def State.loseLocal (s : State) (c : Nat) (gs : List Nat) : State :=
  s.modCore c fun k =>
    let b := k.banks.enter s.cycle
    { k with banks := { b with locLost := countLost (b.used &&& banksOf gs) b.locLost } }

/-- A performed access counts no more among the thread's local accesses, nor among those a copy of the thread waits for
(R270). -/
def State.localIn (s : State) (c : Nat) (a : LocalAcc) : State :=
  let push := match a.op with | .streamWrite _ _ _ _ => true | _ => false
  let less (o : CopyOp) : CopyOp :=
    if o.who != a.who then o
    else if o.waits != 0 then { o with waits := o.waits - 1 }
    else if push then { o with pushWaits := o.pushWaits - 1 }
    else o
  (s.modWho a.who fun t => { t with localOut := t.localOut - 1 }).modCore c fun k => { k with copies := k.copies.map less }

/-! The accesses. -/

/-- A tracked result of a local access: written 3 cycles after it is performed (R121). -/
def State.loaded (s : State) (a : LocalAcc) (d : RegDst) (v : Nat) (dc : Option Nat) : State :=
  s.after 3 (.localLoadWriteback ⟨a.who, d, v, dc⟩)

/-- A read granule of a stream is kept until its pop (R153). -/
def State.doStreamRead (s : State) (c : Nat) (a : LocalAcc) (reg idx : Nat) : State :=
  let v : VReg := BitVec.ofNat 512 (leNat (s.spadRead c (a.off / 64 * 64) 64))
  (s.modWho a.who fun t =>
    match vget none t.streams (reg % 32 - 28) with
    | some x =>
      if x.gen = reg / 32 then t.setStream (reg % 32) (some { x with avail := x.avail ++ [(idx, v, false)] }) else t
    | none => t).after 2 (.streamReadAvailable a.who reg idx)

/-- The active bytes of a push. -/
def pushCells (off : Nat) (val : VReg) (mask : Word) : List (Nat × Byte) :=
  ((toLE 64 val.toNat).mapIdx fun i b => (i, b)).filterMap fun (x : Nat × Byte) =>
    if mask.getLsbD x.1 then some (off + x.1, x.2) else none
/-- A push at its bank: a mismatched tag is reported, and the granule is not written (R153). -/
def State.doStreamWrite (s : State) (c : Nat) (a : LocalAcc) (val : VReg) (mask : Word) (tag : Option (BitVec 4)) : State :=
  let got := s.spadTagAt c (a.off / 64)
  match tag with
  | some want =>
    if got != want then s.reportTrap a.who a.org (trapAt 7 1 (s.spadAddr c want a.off) (tagDetail want got))
    else s.spadCells c (a.off / 64) (pushCells a.off val mask) a.noundo
  | none => s.spadCells c (a.off / 64) (pushCells a.off val mask) a.noundo

/-- The bytes of a message read from its ring (R200, R210): a scalar, a vector register, or a push to a bound stream
register, which enters the local queue when the value is read (R153, R154). -/
def State.doRingRead (s : State) (c : Nat) (a : LocalAcc) (d : RegDst) (wide : Bool) (push : Option Push) : State :=
  let v := leNat (s.spadRead c a.off (if wide then 64 else 8))
  match push with
  | some q => s.after 3 (.streamPushQueued a.who a.org q.reg ⟨q.off, q.noundo, q.tag⟩ (BitVec.ofNat 512 v) allOnes)
  | none => s.loaded a d v none

/-- The access itself, by kind (R120–R123, R129–R143, R153, R178, R184, R204, R210, R237, R240, R241). -/
def State.perform (s : State) (c : Nat) (a : LocalAcc) : State :=
  match a.op with
  | .read size signed dst dc =>
    s.loaded a dst (extend signed (leNat (s.spadRead c a.off size)) (8 * size)).toNat dc
  | .readV reg last dc => s.loaded a (match last with | some g => .vgroup g.1 g.2 | none => .vpart reg) (leNat (s.spadRead c a.off 64)) dc
  | .write cells last dc =>
    let s := s.spadCells c (a.off / 64) cells a.noundo
    if last then s.decD a.who dc else s
  | .segld k dc =>
    let d := segWords (s.spadRead c a.off 16)
    s.after 3 (.segldComplete a.who a.org k d.1 d.2 dc)
  | .segst base attr dc => (s.spadWrite c a.off (toLE 8 base.toNat ++ toLE 8 attr.toNat) a.noundo).decD a.who dc
  | .tagset tag => s.spadTagWrite c (a.off / 64) tag a.noundo
  | .tagget addr dst => s.loaded a dst (tagged addr (s.spadTagAt c (a.off / 64))).toNat none
  | .hsift addr limit cand tagx => s.doHsift c a addr limit cand tagx
  | .streamRead reg idx => s.doStreamRead c a reg idx
  | .streamWrite _ val mask tag => s.doStreamWrite c a val mask tag
  | .loadPath op _ last => s.doLoadPath c a op last
  | .arm n => s.modWho a.who fun t => { t with mon := vset t.mon n ⟨true, a.off / 64, false⟩ }
  | .barinit addr count => s.doBarinit c a addr count
  | .bararr addr => s.doBararr c a addr
  | .scale op second last len tag => s.doScale c a op second last len tag
  | .lace ey => s.modEy c ey fun y => if y.loading then { y with pend := s.spadRead c a.off 640 } else y
  | .ringRead _ d wide push => s.doRingRead c a d wide push

/-! Banks (R119, R121), owned granules (R122) and the undo logger (R123). -/

/-- The granules an access takes its turn at. -/
def State.accGrans (s : State) (c : Nat) (a : LocalAcc) : List Nat :=
  match a.op with
  | .lace _ => granulesOf a.off 640
  | .hsift _ _ _ _ => s.heapGranules c a.off
  | _ => [a.off / 64]
/-- The granules an offer to a heap writes. -/
def State.heapWritten (s : State) (c h limit : Nat) (cand : Word) : List Nat :=
  let cap := leNat (s.spadRead c h 4)
  let n := leNat (s.spadRead c (h + 4) 4)
  let held := Nat.min n cap
  if heapBad cap (limit - h) then []
  else ((heapWrites cap n (words8 held (s.spadRead c (h + 16) (8 * held))) cand.toNat).flatMap fun (x : Nat × List Byte) =>
    granulesOf (h + x.1) x.2.length).eraseDups
/-- The granules an access writes. -/
def State.accWrites (s : State) (c : Nat) (a : LocalAcc) : List Nat :=
  match a.op with
  | .write _ _ _ => [a.off / 64]
  | .segst _ _ _ => [a.off / 64]
  | .tagset _ => [a.off / 64]
  | .hsift _ limit cand _ => s.heapWritten c a.off limit cand
  | .streamWrite _ _ _ tag => if tag.all (· == s.spadTagAt c (a.off / 64)) then [a.off / 64] else []
  | .barinit _ _ => [a.off / 64]
  | .bararr _ => [a.off / 64]
  | .loadPath op _ _ =>
    if ((s.coreAt c).lops.find? (·.id == op)).any fun o => o.kind == .tst || o.kind == .tsave then [a.off / 64] else []
  | _ => []
/-- Must the head of the queue wait for a copy: an access whose granule no bundle named at its issue, a stream's, an
offer's, a scale's, a payload's or a tile transfer's, at a granule that one owns (R122, R143, R153, R178, R210, R282); or for
a request of its thread that waits at the own core, held there or refused by a full filter (R260, R276)? -/
def State.localHeld (s : State) (c : Nat) (a : LocalAcc) : Bool :=
  let late := match a.op with
    | .streamRead _ _ => true
    | .streamWrite _ _ _ _ => true
    | .hsift _ _ _ _ => true
    | .scale _ _ _ _ _ => true
    | .ringRead _ _ _ _ => true
    | .loadPath _ _ _ => true
    | _ => false
  late && (s.accGrans c a).any (s.coreAt c).ownedLate ||
    (s.coreAt c).heldReqs.any (fun r => r.who.tid == a.who.tid && !ofCopy r) ||
    s.filterWait.any fun x => x.1 == c && x.2.who.core == c && x.2.who.tid == a.who.tid
/-- The accesses of a core that come to their banks in this cycle. -/
def State.localDue (s : State) (c : Nat) : List LocalAcc :=
  s.agenda.filterMap fun (x : Nat × Ev) =>
    match x.2.ins with
    | .localAccessPerformed k a => if k = c && x.1 ≤ s.cycle then some a else none
    | _ => none
/-- The undo logger's turns before an access that needs one: those of every access of this cycle at once, each at its
bank (R121, R123; DEDUCED, log 73). -/
def State.localLog (s : State) (c : Nat) (a : LocalAcc) : Option State :=
  (s.logTurn c (s.accWrites c a) a.noundo).map fun s =>
    (s.localDue c).foldl (fun (s : State) b => (s.logTurn c (s.accWrites c b) b.noundo).getD s) s

/-- A local access is performed, or delayed, with all behind it, for its bank, the undo logger or a copy (R120–R123). -/
def execLocalAccessPerformed (core : Nat) (a : LocalAcc) (s : State) : Out :=
  if s.localHeld core a || (s.coreAt core).bankTaken s.cycle (s.accGrans core a) then
    .next ((s.loseLocal core (s.accGrans core a)).delayLocal core a)
  else
    match s.localLog core a with
    | some s => .next ((s.loseLocal core (s.accGrans core a)).delayLocal core a)
    | none => .next (((s.takeBanks core (s.accGrans core a)).perform core a).localIn core a)

end Sys2Proof.Machine
end

