-- ==== Sys2Proof/Machine/System.lean ====
section
/-! DEFINITION. Control registers (R363–R365), `trap`, `syscall`, `brk` and `eret` (R361, R362), `iload` (R366), traps
reported after issue (R47, R355), the slot watchdog (R371) and held trap records (R357). -/

namespace Sys2Proof.Machine

/-! crd (R363, R364). -/

/-- The value of a control register (R364). -/
def State.creg (s : State) (n : Nat) : Word :=
  let t := s.view
  let k := s.curCore
  if 0x28 ≤ n ∧ n < 0x30 then vget 0 t.tcfg (n - 0x28)
  else if 0x70 ≤ n ∧ n < 0x80 then vget 0 k.bstates (n - 0x70)
  else match n with
    | 0x000 => wd t.tid
    | 0x001 => wd s.ctx.core
    | 0x002 => wd (s.ctx.core / 288)
    | 0x003 => wd s.devIdx
    | 0x004 => wd k.pdid
    | 0x005 => wd t.task
    | 0x006 => wd s.ctx.slot
    | 0x010 => t.status
    | 0x011 => t.fflags.setWidth 64
    | 0x012 => wd (k.sealed.toNat * 2 ^ 32 + k.rinCur.toNat)
    | 0x020 => k.issuepol
    | 0x021 => k.rottab
    | 0x022 => k.issuechk.setWidth 64
    | 0x023 => t.twin
    | 0x030 => t.msca
    | 0x031 => t.mscb
    | 0x040 => wd k.aqlim
    | 0x041 => t.spawnlim.setWidth 64
    | 0x042 => k.stealdom.setWidth 64
    | 0x043 => t.segmap
    | 0x044 => k.skidctl
    | 0x050 => t.nullmap
    | 0x051 => t.pwbase
    | 0x052 => t.pwsize
    | 0x060 => wd s.cycle
    | 0x061 => wd (s.cycle / 2700)
    | 0x062 => k.thermslot
    | 0x080 => t.evec
    | 0x081 => t.epc
    | 0x082 => t.ecause
    | 0x083 => t.eaddr
    | 0x084 => t.edetail
    | _ => 0

/-- Registers that only an anchored thread may name (R363). -/
def cregAnchored (n : Nat) : Bool :=
  n == 0x23 || (0x28 ≤ n && n < 0x32) || n == 0x50 || (0x80 ≤ n && n ≤ 0x84)
/-- Registers of a core (R364). -/
def cregOfCore (n : Nat) : Bool :=
  n == 0x001 || n == 0x002 || n == 0x004 || n == 0x012 || (0x20 ≤ n && n ≤ 0x22) || n == 0x40 || n == 0x42 || n == 0x44 ||
  n == 0x62 || (0x70 ≤ n && n < 0x80)

/-- `crd` (R363); FFLAGS waits (R70). -/
def execCrd (h : CHead) (a : BitVec 5) (r : BitVec 12) (s : State) : Out :=
  let n := r.toNat
  runC h
    { acc := fun _ => scalarAcc [] [(a, some 1)]
      kind := fun s => if s.view.kind != 0 && cregAnchored n then some (1, 5) else none
      park4 := fun s => if n == 0x011 && s.flagsPending s.ctx.core s.ctx.slot s.view.tid then some Park.other else none
      effect := fun s => s.result a 1 (s.creg n) } s

/-! cwr (R363–R365 and the registers' own rules). -/

/-- Has the thread a tile operation that has issued and not started (R178)? -/
def State.startPending (s : State) : Bool :=
  let k := s.curCore
  (k.mops ++ k.selops).any fun m => m.slot == s.ctx.slot && m.tid == s.view.tid && m.remote.isNone && !m.started
/-- Has the thread any tile operation pending (R171, R179)? -/
def State.tilePending (s : State) : Bool :=
  let k := s.curCore
  (k.mops ++ k.selops).any (fun m => m.slot == s.ctx.slot && m.tid == s.view.tid && m.remote.isNone) ||
  k.lops.any fun o => o.who == s.me
/-- Bits of EVEC that a write keeps (R359): HPC, and HMASK without the bits of causes 0x11, 0x16 and 0x18. -/
def evecMask : Word := 0x005EFFFFFFFFFFF8

/-- The trap of a register's own rule. -/
def cwrTrap (n : Nat) (v : Word) (s : State) : Option TrapInfo :=
  if 0x28 ≤ n ∧ n < 0x30 then (tcfgTrap v).map fun t => ⟨t.1, t.2, 0, 0⟩
  else if n = 0x30 ∨ n = 0x31 then
    if wbits v 20 40 != 0 then some ⟨2, 1, 0, 0⟩ else if v.toNat % 64 != 0 then some ⟨2, 2, 0, 0⟩ else none
  else if n = 0x22 then (if wbits v 0 2 = 3 then some ⟨2, 2, 0, 0⟩ else none)
  else if n = 0x40 then (if wbits v 0 7 = 0 || wbits v 0 7 > 64 then some ⟨2, 2, 0, 0⟩ else none)
  else if n = 0x41 then (if wbits v 0 8 > s.view.spawnlim.toNat then some ⟨0x13, 2, 0, 0⟩ else none)
  else if n = 0x51 ∨ n = 0x52 then some ⟨9, 3, 0, 0⟩
  else if 0x81 ≤ n ∧ n ≤ 0x84 then (if s.view.inHandler then none else some ⟨1, 10, 0, 0⟩)
  else none
/-- The park of a register's own rule (R171, R178). -/
def cwrPark (n : Nat) (s : State) : Option Park :=
  if n = 0x10 ∨ n = 0x30 ∨ n = 0x31 then (if s.startPending then some Park.other else none)
  else if n = 0x23 then (if s.tilePending then some Park.other else none)
  else none
/-- The write of a thread's register; a register whose writes are ignored is left as it is. -/
def Thread.cwr (t : Thread) (n : Nat) (v : Word) : Thread :=
  if 0x28 ≤ n ∧ n < 0x30 then { t with tcfg := vset t.tcfg (n - 0x28) v }
  else match n with
    | 0x010 => { t with status := (t.status &&& ~~~0x3C) ||| (v &&& 0x3C) }
    | 0x011 => { t with fflags := v.setWidth 5 }
    | 0x023 => { t with twin := v &&& 0xFFFFFFFFFF }
    | 0x030 => { t with msca := v }
    | 0x031 => { t with mscb := v }
    | 0x041 => { t with spawnlim := v.setWidth 8 }
    | 0x050 => { t with nullmap := v }
    | 0x080 => { t with evec := v &&& evecMask }
    | 0x081 => { t with epc := v &&& 0xFFFFFFFF }
    | 0x083 => { t with eaddr := v }
    | 0x084 => { t with edetail := v }
    | _ => t
/-- The write of a core's register; ISSUEPOL and ROTTAB take effect from the next cycle (R96, R101). -/
def State.cwrCore (s : State) (n : Nat) (v : Word) : State :=
  let c := s.ctx.core
  match n with
  | 0x020 => s.addDue (.creg 0x020) 1 v.toNat (2 ^ 64 - 1)
  | 0x021 => s.addDue (.creg 0x021) 1 v.toNat (2 ^ 64 - 1)
  | 0x022 => s.modCore c fun k => { k with issuechk := v.setWidth 2 }
  | 0x040 => (s.modCore c fun k => { k with aqlim := wbits v 0 7 }).freeArrivals c
  | 0x042 => s.modCore c fun k => { k with stealdom := v.setWidth 2 }
  | _ => s
/-- `cwr` (R363). -/
def execCwr (h : CHead) (a : BitVec 5) (r : BitVec 12) (s : State) : Out :=
  let n := r.toNat
  runC h
    { acc := fun _ => scalarAcc [a] []
      kind := fun s => if s.view.kind != 0 && (cregAnchored n || cregOfCore n) then some (1, 5) else none
      trap3 := fun s => cwrTrap n (s.sval a) s
      park4 := cwrPark n
      effect := fun s =>
        let v := s.sval a
        (s.modCur (·.cwr n v)).cwrCore n v } s

/-! trap, syscall, brk, eret (R361, R362). -/

/-- The word of a trap at issue with an immediate as DETAIL. -/
def softTrap (cause sub : Nat) (imm : BitVec 12) : WordSpec where
  trap3 _ := some ⟨cause, sub, 0, imm.setWidth 64⟩
/-- `trap` (R361). -/
def execTrap (h : CHead) (imm : BitVec 12) (s : State) : Out := runC h (softTrap 0x15 2 imm) s
/-- `syscall` (R361). -/
def execSyscall (h : CHead) (imm : BitVec 12) (s : State) : Out := runC h (softTrap 0x15 1 imm) s
/-- `brk` (R361). -/
def execBrk (h : CHead) (imm : BitVec 12) (s : State) : Out := runC h (softTrap 0x14 1 imm) s
/-- The traps of `eret` (R362). -/
def eretTrap (s : State) : Option TrapInfo :=
  let t : Word32 := s.view.epc.setWidth 32
  if !s.view.inHandler then some ⟨1, 10, 0, 0⟩
  else if t.toNat % 8 != 0 then some (trapAt 8 0 (pcWord t))
  else if segOf t != 0 then some (trapAt 0x17 1 (pcWord t))
  else none
/-- `eret` (R362). -/
def execEret (h : CHead) (s : State) : Out :=
  runC h
    { kind := anchoredOnly
      trap3 := eretTrap
      effect := fun s =>
        let t : Word32 := s.view.epc.setWidth 32
        s.modCur fun x => { x with status := setBit x.status 8 false, pc := t } } s

/-! iload (R366). -/

/-- NB, S and ORIGIN of an operand. -/
def ilNb (v : Word) : Nat := wbits v 32 16
/-- S. -/
def ilSeg (v : Word) : Nat := wbits v 16 16
/-- ORIGIN. -/
def ilOrigin (v : Word) : Nat := wbits v 0 16
/-- The address of an `iload` under R127 steps 1–7. -/
def ilAddr (m : MemR) (v : Word) (s : State) : Except TrapInfo Word := s.check (s.refR m) (8 * ilNb v) true false 8
/-- The traps of `iload` at issue (R366). -/
def ilTrap (m : MemR) (v : Word) (s : State) : Option TrapInfo :=
  let dir := s.curCore.codeDir
  let task := s.view.task
  let mine (e : CodeEntry) : Bool := e.task == task && e.seg == ilSeg v && !e.free
  if wbits v 48 16 != 0 || wbits v 0 3 != 0 || ilNb v = 0 || ilNb v > 8192 || ilOrigin v + 8 * ilNb v > 65536 then
    some ⟨2, 2, 0, 0⟩
  else match ilAddr m v s with
    | .error t => some t
    | .ok a =>
      if spaceOf a != 0 then some (trapAt 5 5 a)
      else if dir.any fun e => !e.free && !mine e && e.overlaps (ilOrigin v) (8 * ilNb v) then some (trapAt 0x17 5 0)
      else if !dir.any mine && dir.length ≥ 8 && dir.all (!·.free) then some (trapAt 0x17 4 0)
      else none
/-- The directory with entry (TASK, S) set: a released entry in the way, or one when all eight are used, makes room. -/
def ilDir (dir : List CodeEntry) (task : Nat) (v a : Word) : List CodeEntry :=
  let dir := dir.filter fun e => !(e.task == task && e.seg == ilSeg v && !e.free) &&
    !(e.free && e.overlaps (ilOrigin v) (8 * ilNb v))
  let dir := if dir.length < 8 then dir else dir.eraseP (·.free)
  dir ++ [⟨task, ilSeg v, ilOrigin v, 8 * ilNb v, a, false⟩]
/-- The first read of a load (R366): the ports answer granule by granule. -/
def State.startLoad (s : State) (m : MemR) (v : Word) : State :=
  let a := addrOf (ilAddr m v s)
  let s := s.modCur fun t => { t with codeX := .waiting, codeBuf := [] }
  let r : Req :=
    { s.newReq .codeRead a (Nat.min (8 * ilNb v) (64 - a.toNat % 64)) (s.view.seg (s.refR m).sg) with cmp := v }
  s.send s.ctx.core r.node (.globalRead r)
/-- `iload` (R366): parked while its bytes are read, then writes them and its entry in one step. -/
def execIload (h : CHead) (m : MemR) (x : BitVec 5) (s : State) : Out :=
  let v (s : State) : Word := s.sval x [m.idx]
  runC h
    { acc := fun _ => scalarAcc [m.idx, x] []
      kind := anchoredOnly
      park2 := fun s => s.segBusy m.sg.toNat
      trap3 := fun s => ilTrap m (v s) s
      park4 := fun s => (match s.view.codeX with | .answered _ => none | _ => some Park.other)
      onPark := fun s => if s.view.codeX = .idle then s.startLoad m (v s) else s
      effect := fun s =>
        let a := addrOf (ilAddr m (v s) s)
        let bs := s.view.codeBuf
        let o := ilOrigin (v s)
        let dir := ilDir s.curCore.codeDir s.view.task (v s) a
        let s := (s.modCore s.ctx.core fun k => { k with codeDir := dir }).istoreWrite s.ctx.core o bs
        s.modCur fun t => { t with codeX := .idle, codeBuf := [] } } s

/-! Traps after issue, the watchdog, held records. -/

/-- A trap reported after issue reaches its core (R47, R355, R370). -/
def execTrapReportAfterIssue (who : SlotRef) (org : Origin) (t : TrapInfo) (s : State) : Out :=
  .next (s.lateTrap who true org t)

/-- A slot has stayed parked beyond THWDOG (R371): Watchdog 3, with BSTATE as ADDR; its bundle has no effect, and a
departure that was under way is given up. -/
def execSlotWatchdog (s : State) : Out :=
  let c := s.subj.core
  let sl := s.subj.slot
  match s.watched c sl with
  | none => .next s
  | some t =>
    .next ((s.stay c sl t).takeTrap ⟨c, sl, t.tid⟩ false (s.nextOrg c t) ⟨0x16, 3, vget 0 (s.coreAt c).bstates sl, 0⟩)

/-- The core whose oldest held record of a domain is the oldest (R357). -/
def State.oldestHeld (s : State) (pdid : Nat) : Option (Nat × List Byte × Nat) :=
  let of (x : Nat × Core) : List (Nat × List Byte × Nat) :=
    (x.2.heldTraps.find? fun h => (h.1.getD 2 0).toNat == pdid).toList.map fun h => (x.1, h.1, h.2)
  let at_ (b : List Byte) : Nat := leNat ((b.drop 48).take 8)
  (s.cores.flatMap of).foldl (fun (b : Option (Nat × List Byte × Nat)) x =>
    match b with
    | none => some x
    | some y => if at_ x.2.1 < at_ y.2.1 then some x else some y) none
/-- Held records are written, oldest first, while the queue has room (R357). -/
def State.releaseHeld (s : State) (pdid : Nat) : Nat → State
  | 0 => s
  | n + 1 =>
    match s.oldestHeld pdid with
    | none => s
    | some (c, b, k) =>
      match s.tryPost pdid (s.restamp c (granules k b)) with
      | none => s
      | some s =>
        let mine (h : List Byte × Nat) : Bool := (h.1.getD 2 0).toNat == pdid
        ((s.modCore c fun q => { q with heldTraps := q.heldTraps.eraseP mine }).writeHeld pdid).releaseHeld pdid n
/-- Held records are written: those of a core whose threads' earlier accesses are performed (R19), or those of a domain
whose HEAD has advanced (R357). -/
def execHeldTrapRecordRelease (s : State) : Out :=
  .next (if s.subj.b then s.releaseTrailing s.subj.core else s.releaseHeld s.subj.n 256)

end Sys2Proof.Machine
end

