-- ==== Sys2Proof/Machine/Context.lean ====
section
/-! DEFINITION. The commands of system software (R354): context save and restore (R367–R370), RESUME, END, SEGSYNC,
TLBSYNC, REMOVE, DOMSYNC and PRIENABLE. A command's subject names PDID (`n`), CORE and SLOT, who writes it (`w`: 0 the
physical function, 1 + f the virtual function f), whether it has started (`b`), and then its SYSARG (`m`). -/

namespace Sys2Proof.Machine

/-! Commands (R354). -/

/-- Completes the command in progress with a RESULT; one that waits starts in the next cycle, by write 12 of
`registerWrite`. -/
def State.finish (s : State) (result : Nat) : State :=
  let s := { s with sysstat := wd result, saving := none }
  if s.sysq.isEmpty then s else s.after 1 .registerWrite { n := 12 }
/-- The oldest command that waits starts (R354). -/
def State.nextCommand (s : State) : State :=
  match s.sysq with
  | [] => s
  | x :: r =>
    let s := { s with sysq := r, sysstat := wd (2 ^ 63) }
    if x.ok then s.after 0 x.ev.ins { x.ev.subj with b := true, m := x.arg.toNat } else s.finish 1
/-- May the writer name the domain and core? -/
def State.mayName (s : State) (pfOnly named : Bool) : Bool :=
  let f := s.subj.w.toNat
  s.subj.n < 256 && (!named || s.subj.core < 2304) &&
  (f = 0 || (!pfOnly && (s.domAt s.subj.n).v && (s.domAt s.subj.n).vf + 1 == f &&
    (!named || ((s.coreAt s.subj.core).v && (s.coreAt s.subj.core).pdid == s.subj.n))))
/-- The command's step goes on in the next cycle. -/
def State.again (s : State) (i : Instr) (arg : Word) : State :=
  s.after 1 i { s.subj with b := true, m := arg.toNat }
/-- One step of a command: while another is in progress, or waits, it waits its turn, so that commands are performed in the
order they are written (R354); one that starts checks its operand and acts. -/
def State.command (s : State) (i : Instr) (ok : Bool) (act : State → Word → State) : Out :=
  if s.subj.b then .next (act s (wd s.subj.m))
  else if s.sysstat.getLsbD 63 || !s.sysq.isEmpty then .next { s with sysq := s.sysq ++ [⟨⟨i, s.subj⟩, s.sysarg, ok⟩] }
  else
    let s := { s with sysstat := wd (2 ^ 63) }
    .next (if ok then act s s.sysarg else s.finish 1)

/-! Stopping a slot (R94, R367). -/

/-- Is what holds a slot's next bundle over (R94)? -/
def Core.holdOver (k : Core) (t : Thread) : Bool :=
  match t.hold with
  | none => true
  | some (.full sm vm op q) =>
    t.sEmpty &&& sm == 0 && t.vEmpty &&& vm == 0 &&
    (match op with | some i => !k.lops.any (·.id == i) | none => true) &&
    (match q with | some x => !(k.queue x.1).entries.any fun e => e.1 == x.2 && e.2.isNone | none => true)
  | some (.push r) => (vget none t.streams (r - 28)).all (·.pushes == 0)
  | some _ => false
/-- Is a lace of the thread still loading (R204)? -/
def State.lacing (s : State) (w : SlotRef) : Bool :=
  s.agenda.any fun e => match e.2.ins with | .elaceComplete x _ _ _ _ => x == w | _ => false
/-- Has the thread a held trap record (R357)? -/
def Core.trapHeld (k : Core) (t : Thread) : Bool :=
  k.trapWait.any (·.1 == t.tid) || k.heldTraps.any fun h => leNat ((h.1.drop 12).take 4) == t.tid % 2 ^ 32
/-- Do the thread's names still stand for the tiles and configurations an operation captured (R174)? -/
def Thread.captures (t : Thread) (m : MOp) : Bool :=
  let names := wordNames m.word
  m.dst == t.tile names.1 && m.srcs == names.2.map t.tile
/-- The conditions of R367 step 2, with what the image has no place for: requests, local accesses and exchanges under
way (DEDUCED, log 30). -/
def State.quiet (s : State) (c sl : Nat) (t : Thread) : Bool :=
  let k := s.coreAt c
  let mine (m : MOp) : Bool := m.slot == sl && m.tid == t.tid
  t.sEmpty == 0 && t.vEmpty == 0 && t.sgBusy == 0 && t.acked && t.aout == 0 && !k.divBusy.getLsbD sl && !k.combOut sl t.tid && k.holdOver t &&
  t.depart.isNone && t.commitX != .waiting && t.codeX != .waiting && !k.trapHeld t &&
  !k.due.any (fun w => w.slot == sl && w.tid == t.tid) &&
  t.streams.toList.all (fun x => (x.map (·.pushes)).getD 0 == 0) && !k.lops.any (·.who.tid == t.tid) &&
  !(k.mops ++ k.selops).any (fun m => mine m &&
    (m.started && (m.remote.isSome || m.fn == 6 || 0 < m.scaleLeft) || m.remote.isNone && !t.captures m)) &&
  !s.lacing ⟨c, sl, t.tid⟩ &&
  !k.eyelets.toList.any fun y => y.lace.isSome && y.owner == sl &&
    (y.life == .connecting || (y.life == .closing && !y.saved))

/-! The image (R368). -/

/-- Cuts or fills to a length. -/
def padTo (n : Nat) (b : List Byte) : List Byte := b.take n ++ List.replicate (n - b.length) 0
/-- STATE of an image. -/
def Thread.stateCode (t : Thread) : Nat :=
  if t.run = .stopped then 3 else if t.run = .halted then 2 else if t.parked then 1 else 0
/-- A stream's 16 bytes: descriptor, and position with what `sbind` captured (DESIGN CHOICE, log 31). -/
def streamImage (x : Option Stream) : List Byte :=
  match x with
  | none => List.replicate 16 0
  | some x => toLE 8 x.desc.toNat ++
    toLE 8 (x.pos + offOf x.addr * 2 ^ 14 + x.tag.toNat * 2 ^ 34 + x.tagx.toNat * 2 ^ 38 + x.noundo.toNat * 2 ^ 39)
/-- The control registers of an image, in order. -/
def Thread.controls (t : Thread) : List Word :=
  [t.status, t.fflags.setWidth 64, t.twin] ++ t.tcfg.toList ++
  [t.msca, t.mscb, t.nullmap, t.spawnlim.setWidth 64, t.pwbase, t.pwsize, t.segmap, t.evec, t.epc, t.ecause, t.eaddr, t.edetail]
/-- The park reason of an image: 0 for a slot that is not parked, else how it is held, and the registers it waits for (the
code is a DESIGN CHOICE, log 31). -/
def Thread.parkReason (t : Thread) : Nat :=
  match t.hold with
  | some (.full sm vm _ _) => 2 + 2 ^ 16 * sm.toNat + 2 ^ 32 * vm.toNat
  | some (.push r) => 3 + 2 ^ 8 * r
  | some (.closing e) => 4 + 2 ^ 8 * e
  | some (.deleg e _) => 5 + 2 ^ 8 * e
  | some (.catching e) => 6 + 2 ^ 8 * e
  | none => if t.parked then 1 else 0
/-- Bytes 64–3135: the thread. -/
def State.regImage (s : State) (c sl : Nat) (t : Thread) : List Byte :=
  t.s.toList.flatMap (fun x => toLE 8 x.toNat) ++
  padTo 64 (toLE 1 (t.p ||| 0x80).toNat ++ toLE 1 t.altlast ++ t.d.toList.flatMap (toLE 1) ++
    toLE 2 (t.srep.getD 0)) ++
  padTo 192 (t.controls.flatMap fun x => toLE 8 x.toNat) ++
  t.sg.toList.flatMap (fun g => toLE 8 g.base.toNat ++ toLE 8 g.attr.toNat) ++
  t.mon.toList.flatMap (fun m => toLE 8 m.line ++ toLE 4 m.armed.toNat ++ toLE 4 m.pend.toNat) ++
  (match t.barRec with
    | some r => toLE 8 r.addr.toNat ++ toLE 2 r.epoch ++ toLE 2 1 ++ toLE 4 r.gen
    | none => List.replicate 16 0) ++
  toLE 8 (vget 0 (s.coreAt c).bstates sl).toNat ++ toLE 8 (s.bundleAt c t).toNat ++ toLE 8 t.parkReason ++
  t.outst.toList.flatMap (toLE 2) ++ toLE 4 t.aout ++ toLE 4 t.seq.toNat ++ List.replicate 8 0 ++
  t.streams.toList.flatMap streamImage ++
  t.rt.toList.flatMap (fun e => toLE 4 e.1.toNat ++ toLE 4 e.2.toNat) ++
  t.v.toList.flatMap (fun x => toLE 64 x.toNat) ++ (List.range 8).flatMap fun i => toLE 8 (t.mreg i).toNat
/-- Inserts an operation by its number. -/
def insertOp (m : MOp) : List MOp → List MOp
  | [] => [m]
  | x :: r => if m.id < x.id then m :: x :: r else x :: insertOp m r
/-- The thread's own operations that have not started, in issue order (R192). -/
def Core.unstarted (k : Core) (sl tid : Nat) : List MOp :=
  ((k.mops ++ k.selops).filter fun m => m.slot == sl && m.tid == tid && m.remote.isNone && !m.started).foldr insertOp []
/-- The thread's started operation on a tile, if it is the first name of that tile. -/
def Core.startedOn (k : Core) (sl : Nat) (t : Thread) (name : Nat) : Option MOp :=
  let phys := (t.tile name).phys
  if (List.range name).any fun i => t.mapped i && (t.tile i).phys == phys then none
  else k.mops.find? fun m => m.slot == sl && m.tid == t.tid && m.remote.isNone && m.started && m.dst.phys == phys
/-- The mapped names, ascending. -/
def Thread.names (t : Thread) : List Nat := (List.range 8).filter t.mapped
/-- Images of the mapped names (R191). -/
def Core.tileImages (k : Core) (sl : Nat) (t : Thread) : List Byte :=
  t.names.flatMap fun i =>
    tileImage k.tiles (t.tile i).phys (t.tile i).cfg (k.startedOn sl t i)
/-- Capability entries of a slot (R189). -/
def Core.capImages (k : Core) (sl : Nat) : List Byte :=
  k.caps.toList.flatMap fun e =>
    if e.v && e.away.isNone && e.slot == sl then
      toLE 1 1 ++ toLE 1 e.frompd ++ toLE 1 e.tmask.toNat ++ toLE 1 0 ++ toLE 2 e.fmask.toNat ++ toLE 2 0 ++
      toLE 4 e.key.toNat ++ toLE 4 0
    else List.replicate 16 0
/-- A held eyelet in an image (R368): record, lace image, and its ring messages. -/
def State.eyImage (s : State) (c e : Nat) : List Byte :=
  let y := s.eyAt c e
  y.record ++ padTo 640 ((y.lace.map (·.image)).getD []) ++ (s.ringMsgs c e).flatMap msgBytes
/-- Messages diverted at the old core for an eyelet, in arrival order (R369 steps 4 and 5). -/
def divertedFor (old e : Nat) (ev : Ev) : Option ChMsg :=
  match ev.ins with
  | .channelMessageArrival _ dst _ m => if dst.core == old && dst.ey == e && !dst.port then some m else none
  | _ => none
/-- What the record has no place for, of a held eyelet: its lifecycle, its close, its ring's offset, the length of its
messages, the count of those diverted since its MOVE (R367), and its further members; it stands at the image's end (DESIGN CHOICE, log 31). -/
def State.eyExtra (s : State) (c e : Nat) : List Byte :=
  let y := s.eyAt c e
  let life := if y.saved then 0 else y.life.code + 16
  let off := (y.lace.map fun l => l.ringAt - laceRingOff l.image).getD 0
  let more := (y.members.drop 1).flatMap fun m =>
    toLE 8 (locWord m.loc m.pd).toNat ++ toLE 2 m.connid ++ toLE 1 m.allow ++ toLE 5 0
  toLE 1 life ++ toLE 1 y.sent.toNat ++ toLE 1 y.reason ++ toLE 1 y.psu.toNat ++ toLE 1 y.pstate ++ toLE 3 0 ++ toLE 4 off ++
  toLE 4 (y.members.length - 1) ++ toLE 4 ((s.ringMsgs c e).flatMap msgBytes).length ++
    toLE 4 ((s.coreAt c).diverted.filterMap (divertedFor c e)).length ++ toLE 8 y.pdetail.toNat ++ more
/-- The end of an image: PC and RPC, whether a repetition is under way (R155), what the records of held eyelets have no
place for, and the length of it all (DESIGN CHOICE, log 31). -/
def State.extras (s : State) (c : Nat) (t : Thread) (eys : List Nat) : List Byte :=
  let x := toLE 4 t.pc.toNat ++ toLE 4 t.rpc.toNat ++ toLE 8 t.srep.isSome.toNat ++ eys.flatMap (s.eyExtra c)
  x ++ toLE 8 x.length
/-- Eyelets that a slot holds. -/
def Core.heldBy (k : Core) (sl : Nat) : List Nat :=
  (List.range 16).filter fun e => (k.ey e).lace.isSome && (k.ey e).owner == sl
/-- The image of the thread in a slot (R368). -/
def State.image (s : State) (c sl : Nat) (t : Thread) : List Byte :=
  let k := s.coreAt c
  let eys := k.heldBy sl
  let words := k.unstarted sl t.tid
  let body := s.regImage c sl t ++ padTo 64 (toLE 4 words.length ++ words.flatMap fun m => toLE 4 m.word.toNat) ++
    k.capImages sl ++ k.tileImages sl t ++ eys.flatMap (s.eyImage c) ++ s.extras c t eys
  toLE 4 0x43545843 ++ toLE 4 (64 + body.length) ++ toLE 1 t.stateCode ++ toLE 1 sl ++ toLE 2 t.task ++
  toLE 4 (t.tid % 2 ^ 32) ++ toLE 1 t.pdid ++ toLE 1 t.names.length ++ toLE 2 (eys.foldl (fun m e => m + 2 ^ e) 0) ++ toLE 2 c ++
  List.replicate 42 0 ++ body
/-- Writes granules to consecutive places, as far as none waits or fails. -/
def State.vwriteAll (s : State) (pdid : Nat) (rin : BitVec 32) : Nat → List (List Byte) → State × Put
  | _, [] => (s, .done)
  | va, b :: r =>
    match s.vwrite pdid va b rin with
    | (s, .done) => s.vwriteAll pdid rin (va + 64) r
    | (s, p) => (s, p)

/-! SAVE (R367). -/

/-- Moves the open eyelets of a slot out, with the image as the carrier (R221, R367 step 3). -/
def State.moveOut (s : State) (c sl : Nat) (eys : List Nat) : State :=
  eys.foldl (fun s e =>
    let y := s.eyAt c e
    let own := s.ownLoc c e
    let s := y.members.foldl (fun s p => s.toMember c e p (.moveNotice own p.loc p.connid)) s
    (s.freeLinks c e).modEy c e fun y =>
      { y with life := .closing, deleg := some (sl, 16 + y.members.length), slots := 0 }) s
/-- Takes back a move whose image could not be written. -/
def State.moveBack (s : State) (c : Nat) (eys : List Nat) : State :=
  eys.foldl (fun s e =>
    let y := s.eyAt c e
    if y.saved then
      let own := s.ownLoc c e
      let s := y.members.foldl (fun s p => s.send c (s.locNode p.loc) (.rehome own own p.loc p.connid)) s
      s.modEy c e fun y => { y with life := .opened, deleg := none }
    else s) s
/-- The slot is empty: what is left of the thread at the core goes, and unstarted remote commands are diverted (R192,
R367 step 5, R370). -/
def State.savedOut (s : State) (c sl : Nat) (t : Thread) (eys : List Nat) : State :=
  let mine (m : MOp) : Bool := m.slot == sl && m.tid == t.tid
  let s := eys.foldl (fun (s : State) e => (s.modEy c e fun y => { y with ring := [] }).unlaceEy c e) s
  let k := s.coreAt c
  let late := (k.mops ++ k.selops ++ k.rcmdWait).filter fun m => mine m && !m.started
  let s := (late.filterMap (·.remote)).foldl (fun (s : State) r => s.divert c ⟨.remoteCommandArrival r, {}⟩) s
  let s := s.modCore c fun k =>
    { k with
      mops := k.mops.filter fun m => !mine m
      selops := k.selops.filter fun m => !mine m
      rcmdWait := k.rcmdWait.filter fun m => !mine m
      caps := k.caps.map fun e => if e.v && e.away.isNone && e.slot == sl then { e with away := some t.tid } else e
      gone := (k.gone ++ [(t.tid, t.task, t.pdid, if t.run = .stopped then t.rpc else t.pc)]).drop ((k.gone.length + 1) - 64) }
  ((s.dropThread c sl).leaveComb c sl).tilesFreed c
/-- Carries a save on. -/
def State.saveStep (s : State) (c sl pdid : Nat) (arg : Word) : State :=
  match s.threadAt c sl with
  | none => s.finish 2
  | some t =>
    if t.kind != 0 || t.handler.isSome || t.pdid != pdid then s.finish 2
    else if spaceOf arg != 0 || arg.toNat % 64 != 0 || wbits arg 43 14 != 0 then s.finish 1
    else
      let s := ({ s with saving := some (c, sl) }).dropMwait ⟨c, sl, t.tid⟩
      let t := (s.threadAt c sl).getD t
      let eys := (s.coreAt c).heldBy sl
      let move := eys.filter fun e => (s.eyAt c e).life == .opened
      if !s.quiet c sl t then s.again .save arg
      else if !move.isEmpty then (s.moveOut c sl move).again .save arg
      else if eys.any fun e => (s.eyAt c e).deleg.any (·.2 > 16) then s.again .save arg
      else
        let img := s.image c sl t
        match s.vwriteAll pdid (s.coreAt c).rinCur (vaOf arg) (granules (img.length / 64 + 1) img) with
        | (s, .fails) => (s.moveBack c eys).finish 1
        | (s, .waits) => s.again .save arg
        | (s, .done) => (s.savedOut c sl t eys).finish 0
/-- SAVE. -/
def execSave (s : State) : Out :=
  s.command .save (s.mayName false true) fun s arg => s.saveStep s.subj.core s.subj.slot s.subj.n arg

/-! RESTORE (R369). -/

/-- Words of an image. -/
def imgW (b : List Byte) (off : Nat) : Word := wd (imgN b off 8)
/-- A stream register of an image at a core. -/
def State.imageStream (s : State) (c : Nat) (b : List Byte) (i : Nat) : Option Stream :=
  let d := imgW b (704 + 16 * i)
  let x := imgN b (712 + 16 * i) 8
  if d = 0 then none
  else
    let tag : BitVec 4 := BitVec.ofNat 4 (x / 2 ^ 34)
    some ⟨d, s.spadAddr c tag (x / 2 ^ 14 % 2 ^ 20), tag, x.testBit 38, x.testBit 39, x % 2 ^ 14, [], 0, s.cycle⟩
/-- What stands at an image's end. -/
def imageExtras (b : List Byte) : List Byte :=
  let n := imgN b (b.length - 8) 8
  (b.drop (b.length - 8 - n)).take n
/-- The thread of an image (R368, R369 steps 1 and 6). -/
def State.imageThread (s : State) (c : Nat) (b : List Byte) : Thread :=
  let w (i : Nat) : Word := imgW b (256 + 8 * i)
  let x := imageExtras b
  let st := imgN b 8 1
  { Thread.reset with
    tid := s.devIdx * 2 ^ 32 + imgN b 12 4
    task := imgN b 10 2
    pdid := imgN b 16 1
    pc := BitVec.ofNat 32 (imgN x 0 4 / 8 * 8) &&& 0xFFFF
    rpc := BitVec.ofNat 32 (imgN x 4 4)
    s := Vector.ofFn fun i => imgW b (64 + 8 * i)
    p := BitVec.ofNat 8 (imgN b 192 1) ||| 0x80
    altlast := imgN b 193 1 % 16
    d := Vector.ofFn fun i => imgN b (194 + i) 1 % 64
    srep := if imgN x 8 1 = 1 then some (imgN b 198 2 % 2 ^ 14) else none
    status := w 0
    fflags := (w 1).setWidth 5
    twin := w 2 &&& 0xFFFFFFFFFF
    tcfg := Vector.ofFn fun i => w (3 + i)
    msca := w 11
    mscb := w 12
    nullmap := w 13
    spawnlim := (w 14).setWidth 8
    pwbase := w 15 &&& 0xFFFFF
    pwsize := w 16 &&& 0x1FF
    segmap := w 17
    evec := w 18 &&& evecMask
    epc := w 19 &&& 0xFFFFFFFF
    ecause := w 20
    eaddr := w 21
    edetail := w 22
    sg := Vector.ofFn fun i => ⟨imgW b (448 + 16 * i), imgW b (456 + 16 * i) &&& 0xFFFFFFFFFFFF⟩
    mon := Vector.ofFn fun i =>
      let armed := imgN b (584 + 16 * i) 4 != 0
      ⟨armed, imgN b (576 + 16 * i) 8, armed || imgN b (588 + 16 * i) 4 != 0⟩
    barRec := if imgN b 650 2 = 0 then none else some ⟨imgW b 640, imgN b 648 2, imgN b 652 4⟩
    outst := Vector.ofFn fun i => imgN b (680 + 2 * i) 2
    aout := imgN b 688 4
    seq := BitVec.ofNat 32 (imgN b 692 4)
    streams := Vector.ofFn fun i => s.imageStream c b i
    rt := Vector.ofFn fun i => (BitVec.ofNat 4 (imgN b (768 + 8 * i) 4), BitVec.ofNat 32 (imgN b (772 + 8 * i) 4))
    v := Vector.ofFn fun i => BitVec.ofNat 512 (imgN b (1024 + 64 * i) 64)
    vm := Vector.ofFn fun i => imgW b (3072 + 8 * i)
    stamp := s.cycle
    earliest := s.cycle + 1
    run := if st = 3 then .stopped else if st = 2 then .halted else .running }
/-- Does the header fail its checks? -/
def badContext (b : List Byte) (pdid : Nat) : Bool :=
  let v := imgN b 272 8 / 2 ^ 32 % 256
  imgN b 0 4 != 0x43545843 || b.length < 3456 || imgN b 8 1 > 3 || imgN b 16 1 != pdid || imgN b 20 2 ≥ 2304 ||
  (b.drop 22).take 42 != List.replicate 42 0 || imgN b 256 8 / 64 % 4 != 0 ||
  (List.range 8).countP (fun i => v.testBit i) != imgN b 17 1 || imgN b 3136 4 > 12 ||
  b.length < 3456 + 6720 * imgN b 17 1
/-- Tile images are taken in: names in order, one with an operation in progress last (R192, R369 step 2). -/
def State.takeTiles (s : State) (w : SlotRef) (org : Origin) (b : List Byte) (names : List (Nat × Nat)) : State × Bool :=
  let img (i : Nat) : List Byte := (b.drop (3456 + 6720 * i)).take 6720
  let busy (x : Nat × Nat) : Bool := imgN (img x.2) 8 4 == 1
  let order := names.filter (fun x => !busy x) ++ names.filter busy
  order.foldl (fun (a : State × Bool) (x : Nat × Nat) =>
    if a.2 then
      let phys := (((a.1.who w).getD Thread.reset).tile x.1).phys
      a.1.takeImage w org x.1 phys (img x.2)
    else a) (s, true)
/-- The recorded operations that had not started are entered after it, in order (R192). -/
def State.takeWords (s : State) (w : SlotRef) (org : Origin) (ws : List (BitVec 32)) : State × Bool :=
  ws.foldl (fun (a : State × Bool) x =>
    let t := (a.1.who w).getD Thread.reset
    let names := wordNames x
    if !a.2 || (decodeA x).toOption.isNone || bits x.toNat 22 6 != 0x31 ||
        (t.tileTrap (bits x.toNat 9 4) (x.setWidth 9) names).isSome then (a.1, false)
    else
      let r := a.1.opId w.core
      (r.1.enterOp w.core (t.newOp r.2 w.slot w.tid org x none), true)) (s, true)
/-- One held eyelet of an image, from what stands there and in its extras `x`. -/
structure EyPart where
  record : List Byte
  lace : List Byte
  msgs : List Byte
  extra : List Byte
  more : List (List Byte)
  deriving DecidableEq, Repr
/-- The next held eyelet of an image; what follows it, and what follows its extras. -/
def eyParts (b x : List Byte) : EyPart × List Byte × List Byte :=
  let n := Nat.min (imgN x 12 4) 7
  let len := imgN x 16 4
  (⟨b.take 64, (b.drop 64).take 640, (b.drop 704).take len, x.take 32, (List.range n).map fun i => (x.drop (32 + 16 * i)).take 16⟩,
    b.drop (704 + len), x.drop (32 + 16 * n))
/-- Lifecycle from its code (R213). -/
def lifeOf (n : Nat) : Life := if n = 1 then .listen else if n = 5 then .closed else if n = 6 then .faulted else .unbound
/-- Installs one eyelet of an image under its saved number (R369 steps 3–5). -/
def State.takeEyelet (s : State) (c sl old e : Nat) (p : EyPart) : State × Bool :=
  let r := p.record
  let x := p.extra
  match laceOf p.lace (imgN x 8 4) 786432 with
  | none => (s, false)
  | some l =>
    let life := imgN x 0 1
    let s := s.modEy c e fun _ =>
      { Eyelet.reset with
        life := lifeOf (life - 16), lace := some l, owner := sl, state := imgN r 18 1, connid := imgN r 16 2
        grant := if imgN r 25 1 % 2 = 1 then some (imgN r 24 1) else none
        reason := imgN x 2 1, psu := imgN x 3 1 == 1, pstate := imgN x 4 1, pdetail := imgW x 24 }
    if life ≥ 16 then ((msgsOf 65 p.msgs).foldl (fun s m => s.putMessage c e m) s, true)
    else
      let own := s.ownLoc c e
      let back : EyLoc := ⟨s.devIdx, old, e, false⟩
      let s := s.install c e (r ++ p.msgs)
      let s := p.more.foldl (fun s m =>
        let pl := wordLoc (imgW m 0)
        let connid := imgN m 8 2
        let z : Member := ⟨pl.1, (s.transitPeer pl.1 connid).1, connid, pl.2, imgN m 10 1, false, []⟩
        (s.modEy c e fun y => { y with members := y.members ++ [z] }).send c (s.locNode pl.1) (.rehome back own pl.1 z.connid)) s
      let s := s.modEy c e fun y => { y with sent := imgN x 1 1 == 1 }
      let late := (s.coreAt old).diverted.filterMap (divertedFor old e)
      let s := s.modCore old fun k => { k with diverted := k.diverted.filter fun v => (divertedFor old e v).isNone }
      (late.foldl (fun s m => s.putMessage c e m) s, true)
/-- Installs the eyelets of an image. -/
def State.takeEyelets (s : State) (c sl old : Nat) : List Nat → List Byte → List Byte → State × Bool
  | [], _, _ => (s, true)
  | e :: r, b, x =>
    let p := eyParts b x
    match s.takeEyelet c sl old e p.1 with
    | (s, true) => s.takeEyelets c sl old r p.2.1 p.2.2
    | (s, false) => (s, false)
/-- A capability entry of an image. -/
def imageCap (b : List Byte) (sl i : Nat) : Option Cap :=
  let e := (b.drop (3200 + 16 * i)).take 16
  if imgN e 0 1 = 0 then none
  else some ⟨true, none, sl, imgN e 1 1, BitVec.ofNat 8 (imgN e 2 1), BitVec.ofNat 16 (imgN e 4 2),
    BitVec.ofNat 32 (imgN e 8 4), false⟩
/-- A remote command diverted at a core for one of the given capability entries (R192). -/
def divertedCmd (idx : List Nat) (ev : Ev) : Option RCmd :=
  match ev.ins with
  | .remoteCommandArrival r => if idx.contains r.idx then some r else none
  | _ => none
/-- Restores an image into a free slot; false when a tile, word or lace of it is bad. -/
def State.restoreInto (s : State) (c sl : Nat) (b : List Byte) : State × Bool :=
  let old := imgN b 20 2
  let caps := (List.range 16).filter fun i => (imageCap b sl i).isSome
  let t := s.imageThread c b
  let s := s.modCore old fun k =>
    { k with caps := k.caps.map fun e =>
        if e.away == some t.tid then { e with v := false, away := none, left := c != old } else e }
  let w : SlotRef := ⟨c, sl, t.tid⟩
  let org : Origin := ⟨t.pc, wd (imgN b 664 8), false, false⟩
  let s := (s.setThread c sl t).modCore c fun k =>
    { k with caps := k.caps.mapIdx fun i e => (imageCap b sl i).getD e }
  let names := t.names.zipIdx
  match s.takeTiles w org b names with
  | (s, false) => (s, false)
  | (s, true) =>
    match s.takeWords w org ((List.range (imgN b 3136 4)).map fun i => BitVec.ofNat 32 (imgN b (3140 + 4 * i) 4)) with
    | (s, false) => (s, false)
    | (s, true) =>
      match s.takeEyelets c sl old ((List.range 16).filter fun e => (imgN b 18 2).testBit e) (b.drop (3456 + 6720 * names.length))
        ((imageExtras b).drop 16) with
      | (s, false) => (s, false)
      | (s, true) =>
        let cmds := (s.coreAt old).diverted.filterMap (divertedCmd caps)
        let s := (s.modCore old fun k =>
          { k with diverted := k.diverted.filter fun v => (divertedCmd caps v).isNone }).freeArrivals old
        let s := cmds.foldl (fun s r => s.after 0 (.remoteCommandArrival { r with target := c })) s
        let reads := (List.range 4).flatMap fun i =>
          match vget none t.streams i with
          | some x =>
            if x.isWrite then []
            else ((List.range 4).filter fun j => x.pos + j < streamLen x.desc).map fun j =>
              (⟨w, org, x.off (x.pos + j), false, .streamRead (28 + i + 32 * x.gen) (x.pos + j)⟩ : LocalAcc)
          | none => []
        let s := if reads.isEmpty then s else s.queueLocal c reads
        (if t.run = .stopped then s.park c sl Park.other else s, true)
/-- Carries out a restore. -/
def State.restoreStep (s : State) (c pdid : Nat) (arg : Word) : State :=
  let k := s.coreAt c
  if !k.v || k.pdid != pdid || spaceOf arg != 0 || arg.toNat % 64 != 0 || wbits arg 43 14 != 0 then s.finish 1
  else
    match s.vreadLong pdid 2 (vaOf arg) 64 false with
    | (s, none) => s.finish 1
    | (s, some h) =>
      let len := Nat.min (imgN h 4 4) 0x1000000
      match s.vreadLong pdid (len / 64 + 2) (vaOf arg) len false with
      | (s, none) => s.finish 1
      | (s, some b) =>
        if badContext b pdid then s.finish 3
        else
          let old := imgN b 20 2
          let mine (e : Cap) : Bool := c == old && e.away == some (s.devIdx * 2 ^ 32 + imgN b 12 4)
          let eyUsed := (List.range 16).any fun e => (imgN b 18 2).testBit e && ((k.ey e).lace.isSome || (k.ey e).loading)
          let capUsed := (List.range 16).any fun i => (imageCap b 0 i).isSome &&
            (let e := vget noCap k.caps i; e.v && !mine e)
          match k.freeSlot with
          | none => s.finish 4
          | some sl =>
            if eyUsed || capUsed then s.finish 5
            else
              match s.restoreInto c sl b with
              | (s, true) => s.finish 0
              | (_, false) => s.finish 3
/-- RESTORE. -/
def execRestore (s : State) : Out :=
  s.command .restore (s.mayName false true) fun s arg => s.restoreStep s.subj.core s.subj.n arg

/-! RESUME and END. -/

/-- The thread goes on at `pc`, parked where it was leaving; where `pc` is elsewhere, what its bundle keeps across reissues
is dropped, a departure with it. -/
def Thread.resumed (t : Thread) (pc : Word32) (now : Nat) : Thread :=
  let t := if pc = t.pc then { t with codeX := .idle, codeBuf := [] } else { t.forget with depart := none }
  { t with run := .running, parked := t.depart.isSome, pc := pc, earliest := Nat.max t.earliest (now + 1) }
/-- RESUME (R354, R370). -/
def execResume (s : State) : Out :=
  s.command .resume (s.mayName false true) fun s arg =>
    let c := s.subj.core
    let sl := s.subj.slot
    match s.threadAt c sl with
    | none => s.finish 2
    | some t =>
      if t.run != .stopped || t.pdid != s.subj.n then s.finish 2
      else
        let pc := t.legalPc (if arg.getLsbD 32 then arg.setWidth 32 else t.rpc)
        let s := s.modThread c sl fun t => t.resumed pc s.cycle
        let s := s.modCore c fun k => { k with bstates := vset k.bstates sl 0 }
        (if ((s.threadAt c sl).bind (·.depart)).isSome then s.park c sl Park.other else s).finish 0
/-- Carries END on: it stops the slot, then waits as `done` waits (R327). -/
def State.endStep (s : State) (c sl pdid : Nat) (arg : Word) : State :=
  match s.threadAt c sl with
  | none => s.finish 2
  | some t =>
    if t.pdid != pdid then s.finish 2
    else
      let s := ({ s with saving := some (c, sl) }).dropMwait ⟨c, sl, t.tid⟩
      let t := (s.threadAt c sl).getD t
      if (t.depart.map (·.sent)).getD false || !s.mayEnd t then s.again .endThread arg
      else match t.handler with
        | some m => (s.endHandler c sl m allOnes).finish 0
        | none => (s.endThread c sl t true).finish 0
/-- END. -/
def execEndThread (s : State) : Out :=
  s.command .endThread (s.mayName false true) fun s arg => s.endStep s.subj.core s.subj.slot s.subj.n arg

/-! SEGSYNC, TLBSYNC, DOMSYNC, REMOVE, PRIENABLE. -/

/-- The instruction of the C-word of a bundle. -/
def cWordOf (b : Word) : Option Instr := (decodeC (b.setWidth 32) ((b >>> 32).setWidth 32)).toOption
/-- The object a slot's parked `barwait` waits on, as a descriptor (R141). -/
def State.waitsOn (s : State) (c sl : Nat) (t : Thread) : Option (Seg × Origin) :=
  let b := s.bundleAt c t
  if wbits (vget 0 (s.coreAt c).bstates sl) 60 4 != 7 then none
  else match cWordOf b with
    | some (.barwait _ _ m _) =>
      let s := { s with ctx := { s.ctx with core := c, slot := sl, mode := .alone } }
      let u := barUse m false
      let g := u.seg s
      some (⟨addrOf (u.addr s), wd (2 ^ 47 + 2 ^ 43 + 64) ||| (g.attr &&& wd (2 ^ 45))⟩, s.nextOrg c t)
    | _ => none
/-- Waiters whose covering entry is gone trap (R141); ADDR holds the object's address (DEDUCED, log 76: the rule names
none). -/
def State.uncover (s : State) (c : Nat) (old new : List Seg) : State :=
  (s.coreAt c).threads.foldl (fun s (x : Nat × Thread) =>
    match s.waitsOn c x.1 x.2 with
    | some (d, org) =>
      if old.any (covers · d) && !new.any (covers · d) then s.lateTrap ⟨c, x.1, x.2.tid⟩ false org (trapAt 6 5 d.base) else s
    | none => s) s
/-- SEGSYNC. -/
def execSegsync (s : State) : Out :=
  let pdid := s.subj.n
  s.command .segsync (s.mayName false false) fun s _ =>
    (s.cores.foldl (fun s (x : Nat × Core) =>
      match tget (s.coreAt x.1).segCache pdid with
      | none => s
      | some old =>
        let r := (s.modCore x.1 fun k => { k with segCache := tdel k.segCache pdid }).segSet x.1 pdid
        r.1.uncover x.1 old (r.2.getD [])) s).finish 0
/-- TLBSYNC (R254). -/
def execTlbsync (s : State) : Out :=
  let pdid := s.subj.n
  s.command .tlbsync (s.mayName false false) fun s _ =>
    ({ s with ports := s.ports.map fun (x : Nat × Port) => (x.1, { x.2 with tlb := x.2.tlb.filter (·.pdid != pdid) }) }).finish 0
/-- A domain descriptor from its eight words (R352). -/
def domainOf (w : List Word) : Domain :=
  let x (i : Nat) : Word := w.getD i 0
  { v := (x 0).getLsbD 0
    grant := (x 0).getLsbD 1
    supv := (x 0).getLsbD 2
    vf := wbits (x 0) 8 8
    supcore := wbits (x 0) 16 16
    chwdog := wbits (x 0) 32 32
    thwdog := wbits (x 1) 0 32
    tqlogn := wbits (x 1) 32 8
    ptroot := x 2
    segset := x 3
    tqbase := x 4
    lplace := [] }
/-- DOMSYNC: the descriptor, and the launch placement table it names (R352, R397). -/
def execDomsync (s : State) : Out :=
  let pdid := s.subj.n
  s.command .domsync (s.mayName true false) fun s _ =>
    let d := domainOf ((tget s.domTable pdid).getD [])
    let s := { s with domains := tset s.domains pdid d }
    match s.vreadLong pdid 130 (vaOf (((tget s.domTable pdid).getD []).getD 5 0)) 8192 false with
    | (s, some b) =>
      ({ s with domains := tset s.domains pdid { d with lplace := (List.range 4096).map fun i => imgN b (2 * i) 2 } }).finish 0
    | (s, none) => s.finish 0
/-- The peers of an eyelet that is lost with its core: reason 3, PSU 1 (R216). -/
def State.loseEyelet (s : State) (c e : Nat) : State :=
  let y := s.eyAt c e
  let s := y.members.foldl (fun s p =>
    s.toMember c e p (.closeNoticeArrival p.loc ⟨s.ownLoc c e, p.connid, p.own, 3, 0, true, 0, s.holderTid c e⟩)) s
  (if y.life == .connecting then s.withdraw c e else s).unlaceEy c e
/-- Packets of a core end with it: an admitted thread of a task is one fewer, and what waits on a reservation is refused
(R292 step 1). -/
def State.losePackets (s : State) (c : Nat) : State :=
  let k := s.coreAt c
  let s := k.resv.foldl (fun s p => s.report c p (.refused 0x10 6)) s
  let s := k.dequeQ.foldl (fun s o => match o with | .steal _ _ => (s.modCore c fun k => { k with deque := [] }).dequeOp c o | _ => s) s
  let ids := (k.aq ++ k.ring).map (·.task) ++ k.fifo.map (·.1) ++ (k.deque ++ k.dequePushes).map (·.task) ++ k.stolen.map (·.task)
  let s := ids.foldl (fun s id => s.modTask id fun t => { t with live := t.live - 1, trapped := t.trapped + 1 }) s
  s.modCore c fun k => { k with aq := [], ring := [], resv := [], granted := [], fifo := [], deque := [], dequeQ := [], stolen := [], amq := [], diverted := [] }
/-- REMOVE (R216, R354). -/
def execRemove (s : State) : Out :=
  let c := s.subj.core
  s.command .remove (s.mayName true true) fun s _ =>
    let s := (List.range 16).foldl (fun s e => if (s.eyAt c e).lace.isSome then s.loseEyelet c e else s) s
    let s := (s.coreAt c).threads.foldl (fun s (x : Nat × Thread) =>
      match x.2.handler with
      | some m => s.endHandler c x.1 m allOnes
      | none => s.endThread c x.1 x.2 true) s
    ((s.losePackets c).modCore c fun k => { k with out := true }).finish 0
/-- PRIENABLE: CORE and SLOT are zero (R256, R354). -/
def execPrienable (s : State) : Out :=
  let pdid := s.subj.n
  s.command .prienable (s.mayName false false && s.subj.core == 0 && s.subj.slot == 0) fun s _ =>
    let vf := (s.domAt pdid).vf
    let mine (x : PageReq) : Bool := (s.domAt x.pdid).vf == vf
    (({ s with
      priOff := s.priOff.filter (· != vf)
      pri := s.pri.map fun x => if mine x then { x with group := none } else x }).regroup vf).finish 0

end Sys2Proof.Machine
end

