-- ==== Sys2Proof/Machine/Recovery.lean ====
section
/-! DEFINITION. Recovery intervals (R329–R351): `seal`, `sealw`, `rin` and `xsync`, cut requests and the seal timer, the
cut of each core, seal records, sealing, the log of arrivals, host accesses, undo overflow, rollback, and fabric links. -/

namespace Sys2Proof.Machine

/-! seal, sealw, rin, xsync (R346). -/

/-- SEALCTL.EXPLICIT. -/
def State.explicitCuts (s : State) : Bool := s.sealctl.getLsbD 62
/-- Requests cut CUR + 1 for the issuing core, where EXPLICIT allows it. -/
def State.askCut (s : State) : State :=
  if s.explicitCuts then s.requestCut s.ctx.core ((s.curCore.rinCur + 1).toNat) else s
/-- `seal` (R346). -/
def execSeal (h : CHead) (s : State) : Out := runC h { effect := State.askCut } s
/-- A handler may not wait for a seal (R346). -/
def notHandler (s : State) : Option (Nat × Nat) := if s.view.isAmsg then some (1, 5) else none
/-- The target is taken, and the cut asked for, at the first issue. -/
def State.takeTarget (s : State) : State :=
  if s.view.sealTarget.isSome then s
  else (s.modCur fun t => { t with sealTarget := some s.curCore.rinCur }).askCut
/-- The target of a wait: CUR at its first issue. -/
def State.target (s : State) : BitVec 32 := s.view.sealTarget.getD s.curCore.rinCur
/-- Is SEALED at or after the target? -/
def State.targetSealed (s : State) : Bool := serialLe s.target s.curCore.sealed
/-- A wait for a seal: it asks for its cut at its first issue, whether it then parks or not. -/
def sealWait (done : State → Bool) : WordSpec where
  kind := notHandler
  park4 s := if done s then none else some Park.other
  onPark := State.takeTarget
  effect s := s.takeTarget.modCur fun t => { t with sealTarget := none }
/-- `sealw` (R346). -/
def execSealw (h : CHead) (s : State) : Out := runC h (sealWait State.targetSealed) s
/-- `rin` (R346). -/
def execRin (h : CHead) (a : BitVec 5) (s : State) : Out :=
  runC h
    { acc := fun _ => scalarAcc [] [(a, some 1)]
      effect := fun s => s.result a 1 (wd (s.curCore.sealed.toNat * 2 ^ 32 + s.curCore.rinCur.toNat)) } s
/-- Is a host write tagged at or before `n` still in the device: in the external write buffer, or waiting for room in it
(R343, R344)? -/
def State.hostDue (s : State) (n : BitVec 32) : Bool :=
  (s.ewb ++ s.ewbLate).any (fun w => serialLe w.rin n) ||
  s.ewbHeld.any (fun r => serialLe (BitVec.ofNat 32 r.rin) n) ||
  s.ports.any fun (x : Nat × Port) => x.2.held.any fun h => s.hostWaits x.1 h && serialLe (BitVec.ofNat 32 h.req.rin) n
/-- `xsync` (R346). -/
def execXsync (h : CHead) (s : State) : Out :=
  runC h (sealWait fun s => s.targetSealed && !s.hostDue s.target) s

/-! Cut requests and cuts (R332–R336). -/

/-- The leader's device: the least index of the group (R330). -/
def State.leader (s : State) : Nat := s.members.foldl Nat.min s.devIdx
/-- Has every core of the device made the current cut? -/
def State.allCut (s : State) : Bool := s.cores.all fun x => x.2.rinCur == s.cutNo
/-- May cut `n` start (R333)? -/
def State.mayCut (s : State) (n : BitVec 32) : Bool := n == s.cutNo + 1 && s.allCut && serialLe (n - 2) s.sealedNo
/-- A cut request reaches the leader (R333): the cut starts, waits, or has started already. -/
def execCutRequest (s : State) : Out :=
  let n := BitVec.ofNat 32 s.subj.n
  if serialLe n s.cutNo then .next s
  else if s.mayCut n then
    .next (s.members.foldl (fun s d =>
      s.send sealNode (if d = s.devIdx then sealNode else devNode d) .cutMessage { n := n.toNat }) s)
  else .next (if s.cutPending.contains n.toNat then s else { s with cutPending := s.cutPending ++ [n.toNat] })
/-- Requests that wait are looked at again. -/
def State.retryCuts (s : State) : State :=
  s.cutPending.foldl (fun s n => s.after 0 .cutRequest { n := n }) { s with cutPending := [] }
/-- SEALCTL.PERIOD in cycles. -/
def State.sealPeriod (s : State) : Nat := wbits s.sealctl 0 32 * 2700
/-- The leader's timer (R332, R333): it asks for a cut PERIOD after the start of the cut before. -/
def execSealTimer (s : State) : Out :=
  if s.sealctl.getLsbD 63 && s.subj.n == s.cutNo.toNat && s.cutStart + s.sealPeriod ≤ s.cycle && s.leader == s.devIdx then
    .next (s.after 0 .cutRequest { n := (s.cutNo + 1).toNat })
  else .next s
/-- The timer for the cut after the current one. -/
def State.startTimer (s : State) : State :=
  s.at (Nat.max s.cycle (s.cutStart + s.sealPeriod)) ⟨.sealTimer, { n := s.cutNo.toNat }⟩

/-- The unit whose seal record holds a step still to come; none for the device's own steps. -/
def evUnit (e : Ev) : Option CutUnit :=
  let c := some (CutUnit.core e.subj.core)
  let p := some (CutUnit.port e.subj.n)
  match e.ins with
  | .divideComplete w => some (.core w.who.core)
  | .localAccessPerformed k _ => some (.core k)
  | .localLoadWriteback w => some (.core w.who.core)
  | .trackedRegisterWrite w => some (.core w.who.core)
  | .segldComplete w _ _ _ _ _ => some (.core w.core)
  | .elaceComplete w _ _ _ _ => some (.core w.core)
  | .streamReadAvailable w _ _ => some (.core w.core)
  | .streamPushQueued w _ _ _ _ _ => some (.core w.core)
  | .remoteCommandArrival r => some (.core r.target)
  | .globalRead r => some (.core r.who.core)
  | .globalWrite r => some (.core r.who.core)
  | .atomicAtHome r => some (.core r.who.core)
  | .flushReadAtHome r => some (.core r.who.core)
  | .amsgArrival m => some (.core m.home)
  | .packetArrival d _ => some (.core d)
  | .arrivalReport q _ _ => some (.core q.src.core)
  | .reservationRetry q _ => some (.core q.src.core)
  | .packetResendTimeout q _ => some (.core q.src.core)
  | .trapReportAfterIssue w _ _ => some (.core w.core)
  | .launchSubmit _ _ _ _ _ => some .launch
  | .fixedLatencyWrite => c
  | .hsiftComplete => c
  | .vectorUnitFree => c
  | .matrixStep => c
  | .matrixOpFinish => c
  | .scaleReadComplete => c
  | .tselFinish => c
  | .loadPathFinish => c
  | .tilePayloadComplete => c
  | .heldRequestTimeout => c
  | .requestResendTimeout => c
  | .copyGranule => c
  | .forwardingExpiry => c
  | .mwaitDeadline => c
  | .combinerReread => c
  | .stealRequest => some (.core e.subj.m)
  | .stealRetry => c
  | .portStreamSend => p
  | .portStreamWrite => p
  | .portStreamStop => p
  | .faultRecordReoffer => p
  | .workQueueTake => some .launch
  | .hostRingPoll => some .launch
  | .dependenceDecrement => some .launch
  | .taskPlacement => some .launch
  | .portCoreCodePlacement => some .launch
  | _ => none
/-- Is the step one of the recovery machinery itself, or of a request no record keeps? -/
def cutStep (e : Ev) : Bool :=
  match e.ins with
  | .cutRequest => true
  | .cutMessage => true
  | .sealTimer => true
  | .coreCut => true
  | .sealRecordAck => true
  | .sealMarker => true
  | .durableReport _ _ => true
  | .sealedMessage => true
  | .filterRefusalRetry _ => true
  | .rollback => true
  | _ => false
/-- The steps to come of a unit. -/
def State.stepsOf (s : State) (u : CutUnit) : List (Nat × Ev) := s.agenda.filter fun x => evUnit x.2 == some u

/-- The other members of the group, whose reports the leader waits for (R334 step 8). -/
def State.othersDue (s : State) : List CutUnit :=
  if s.leader = s.devIdx then (s.members.filter (· != s.devIdx)).map CutUnit.device else []
/-- CUT(n) reaches the device (R334 step 2): the launch unit and the PCIe home make their part at once, every core in
use stops for its cut. A port cuts with its port core. -/
def execCutMessage (s : State) : Out :=
  let n := BitVec.ofNat 32 s.subj.n
  if n != s.cutNo + 1 then .next s
  else
    let s := s.ports.foldl (fun s (x : Nat × Port) => s.modCore (portCore x.1) id) s
    let r : SealRec :=
      { cut := n, cores := [], ports := [], launch := some ⟨s.wqs, s.deps, s.tasks, s.ages, s.requests⟩
        hostFilter := s.hostFilter, linkSlots := s.linkSlots, hostHeld := s.ewbHeld, waits := [], agenda := s.stepsOf .launch }
    let s := { s with
      cutNo := n
      cutStart := s.cycle
      seals := s.seals ++ [r]
      cutWait := (s.cores.map fun (x : Nat × Core) => CutUnit.core x.1) ++ [CutUnit.launch] ++ s.othersDue }
    let s := s.cores.foldl (fun (s : State) (x : Nat × Core) =>
      (s.modCore x.1 fun k => { k with paused := true }).after 0 .coreCut { core := x.1, n := n.toNat }) s
    .next (s.startTimer.after 1 .sealMarker { n := n.toNat, b := true })

/-- What a core waits for before its cut (R335 step 2). -/
def cutHolds (c : Nat) (e : Ev) : Bool :=
  match e.ins with
  | .localAccessPerformed k _ => k == c
  | .streamPushQueued w _ _ _ _ _ => w.core == c
  | _ => false
/-- Does the local queue stand behind a request of its own core that waits for undo room? It then waits for the seal, and
its record keeps it (DEDUCED, log 74). -/
def State.queueStuck (s : State) (c : Nat) : Bool :=
  (s.coreAt c).heldReqs.any fun r => r.who.core == c && reqWrites r && s.undoBlocks c (reqGrans r)
/-- Has a core come to rest? -/
def State.atRest (s : State) (c : Nat) : Bool :=
  let k := s.coreAt c
  k.due.isEmpty && k.heapUntil == 0 && k.divBusy == 0 && (s.queueStuck c || !s.agenda.any fun x => cutHolds c x.2)
/-- Applies a function to the record of a cut. -/
def State.modSeal (s : State) (n : BitVec 32) (f : SealRec → SealRec) : State :=
  { s with seals := s.seals.map fun r => if r.cut == n then f r else r }
/-- A core's cut (R335): at rest, it writes its record and its port's, and moves to RIN n. -/
def execCoreCut (s : State) : Out :=
  let c := s.subj.core
  let n := BitVec.ofNat 32 s.subj.n
  if !s.atRest c then .next (s.after 1 .coreCut s.subj)
  else
    let k := { s.coreAt c with paused := false }
    let s := s.modSeal n fun r =>
      { r with
        cores := tset r.cores c k
        waits := r.waits ++ s.filterWait.filter fun x => x.2.who.core == c && !ofCopy x.2
        agenda := r.agenda ++ s.stepsOf (.core c) }
    let s := match (corePort c).filter fun p => (tget s.ports p).isSome with
      | some p =>
        (s.modSeal n fun r => { r with ports := tset r.ports p (s.portAt p), agenda := r.agenda ++ s.stepsOf (.port p) }).modPort p
          fun q => { q with undoAsked := false, arrivals := 0 }
      | none => s
    .next ((s.modCore c fun k => { k with rinCur := n, arrivals := 0 }).after 27000 .sealRecordAck s.subj)
/-- The port has acknowledged the record: the core goes on and sends its markers (R334 step 4, R335 step 6). -/
def execSealRecordAck (s : State) : Out :=
  .next ((s.modCore s.subj.core fun k => { k with paused := false }).retryCuts.after 1 .sealMarker s.subj)
/-- Is a message to a core or its port? -/
def forCore (c d : Nat) : Bool := d == c || (corePort c).any fun p => d == portNode p
/-- Is a message to the launch unit, the PCIe home or the seal controller? -/
def forUnits (d : Nat) : Bool := 4352 ≤ d && d < 8192
/-- Have the markers of a cut come by every fabric port: from every other member of the group (R337)? -/
def State.othersMarked (s : State) (n : BitVec 32) : Bool :=
  (s.members.filter (· != s.devIdx)).all fun d => s.markers.contains (d, n)
/-- Once the device's cores have cut, what leaves it for the other members is tagged `n`, and the marker follows what went
before (R334 step 4, R337). -/
def State.sendMarkers (s : State) (n : Nat) : State :=
  (s.members.filter (· != s.devIdx)).foldl (fun (s : State) d => s.send sealNode (devNode d) .sealMarker { n := n, m := s.devIdx + 1 }) s
/-- The marker reaches a unit: its log closes once nothing sent before the cut is on its way to it, from this device or from
another (R334 steps 5 and 6, R337; DEDUCED, log 87: the markers are modelled by what they assure). With the flag set, the
units are those of die 0: the launch unit, with the PCIe home and the controller; `slot` then says that this device's
markers have gone to the others. A marker of another device names it in `m`. -/
def execSealMarker (s : State) : Out :=
  let c := s.subj.core
  let n := BitVec.ofNat 32 s.subj.n
  let mine (d : Nat) : Bool := if s.subj.b then forUnits d else forCore c d
  if s.subj.m != 0 then .next { s with markers := s.markers ++ [(s.subj.m - 1, n)] }
  else if n != s.cutNo then .next s
  else if !s.allCut then .next (s.after 64 .sealMarker s.subj)
  else
    let x := s.subj
    let s := if x.b && x.slot == 0 then s.sendMarkers x.n else s
    if !s.othersMarked n || s.net.any fun m => mine m.dst && serialLt m.rin n then .next (s.after 64 .sealMarker { x with slot := 1 })
    else .next (s.after 0 (.durableReport (if x.b then .launch else .core c) x.n))
/-- A unit's record is durable, or another device's, which the leader collects (R334 steps 6–8): once all are, the leader
seals the interval before, on every device. A report that comes before the leader's own cut waits for it. -/
def execDurableReport (unit : CutUnit) (n : Nat) (s : State) : Out :=
  if n == (s.cutNo + 1).toNat then .next (s.after 64 (.durableReport unit n))
  else if n != s.cutNo.toNat then .next s
  else
    let s := { s with cutWait := s.cutWait.filter (· != unit) }
    if !s.cutWait.isEmpty then .next s
    else if s.leader != s.devIdx then .next (s.send sealNode (devNode s.leader) (.durableReport (.device s.devIdx) n))
    else
      .next (s.members.foldl (fun (s : State) d =>
        s.send sealNode (if d = s.devIdx then sealNode else devNode d) .sealedMessage { n := (s.cutNo - 1).toNat }) s)

/-! Sealing (R334 step 9, R339, R343). -/

/-- Bytes a message carries beyond its transport fields: a context packet has those of R286, the others' sizes the spec
does not state (DESIGN CHOICE, log 77). -/
def carried (e : Ev) : Nat :=
  match e.ins with
  | .packetArrival _ p => (packetBytes p).length
  | .globalWrite r => 8 + r.data.length
  | .atomicAtHome r => 8 + r.data.length
  | .acknowledgementArrival _ (.ok bs) => bs.length
  | .channelMessageArrival _ _ _ m => m.payload.length
  | .remoteCommandArrival _ => 16
  | .hostWrite _ _ d => 8 + d.length
  | _ => 8
/-- Bytes of a KIND 3 entry: its header, and the packet with its transport fields, 16 bytes of them (DESIGN CHOICE, log 77),
rounded up to 16 (R340). -/
def logSize (e : Ev) : Nat := 16 + (16 + carried e + 15) / 16 * 16
/-- Is a log entry of the host-write log (R345): a write of the host itself? -/
def LogRec.fromHost (l : LogRec) : Bool := match l.ev.ins with | .hostWrite _ _ _ => !l.ev.subj.b | _ => false
/-- Where a log entry lies: with its home, but a host write's in port 0's undo region (R336, R345). -/
def LogRec.place (l : LogRec) : Nat := if l.fromHost then portNode 0 else l.home
/-- Bytes of the undo records and log entries of a home (R340). -/
def State.undoOf (s : State) (home : Nat) : Nat :=
  (s.undo.filter (·.home == home)).foldl (fun n u => n + undoSize u.old.isNone) 0 +
  (s.logs.filter (·.place == home)).foldl (fun n l => n + logSize l.ev) 0
/-- Counts undo bytes again after a discard: what had overflowed was the oldest. -/
def State.recount (s : State) : State :=
  let s := s.cores.foldl (fun s (x : Nat × Core) =>
    let total := s.undoOf x.1
    let gone := x.2.undoBytes + x.2.undoOver - total
    let lost := x.2.undoOver - gone
    s.modCore x.1 fun k => { k with undoBytes := total - lost, undoOver := lost }) s
  { s with ports := s.ports.map fun (x : Nat × Port) =>
      (x.1, { x.2 with undoBytes := s.undoOf (portNode x.1) +
        (s.cores.filter fun (c : Nat × Core) => sealPort c.1 == x.1).foldl (fun n (c : Nat × Core) => n + c.2.undoOver) 0 }) }
/-- A completion record is signalled as it leaves (R387). -/
def State.signalComp (s : State) (w : ExtWrite) : State :=
  match w.comp with
  | some vf => { s with msix := s.msix ++ [(vf, 1)] }
  | none => s
/-- An entry leaves the external write buffer: to the host, or a completion record to its home in device memory (R343).
One for a home that has no room, or whose page is not mapped, stays, and those of its domain behind it; the page is asked
for (R255, R342). -/
def State.release (s : State) (w : ExtWrite) (behind : Bool) : State × Option ExtWrite :=
  if w.host then ({ s with host := mwrite s.host w.addr w.data }.signalComp w, none)
  else if behind then (s, some w)
  else
    match s.vwrite w.pdid w.addr w.data w.rin with
    | (s, .done) => (s.signalComp w, none)
    | (s, .waits) => (s, some w)
    | (s, .fails) =>
      match s.walk w.pdid w.addr with
      | .fault => (s.faultRecord (portOf w.addr) w.pdid (pageOf w.addr), some w)
      | _ => (s, none)
/-- The entries of sealed intervals leave the buffer, in RIN order, and in arrival order within one RIN (R343). -/
def State.drainEwb (s : State) (n : BitVec 32) : State :=
  let out := s.ewb.filter fun w => serialLe w.rin n
  let s := { s with ewb := s.ewb.filter fun w => !serialLe w.rin n }
  let r := (out.filter (·.rin != n) ++ out.filter (·.rin == n)).foldl (fun (a : State × List ExtWrite) w =>
    let x := a.1.release w (a.2.any (·.pdid == w.pdid))
    (x.1, a.2 ++ x.2.toList)) (s, [])
  { r.1 with ewb := r.2 ++ r.1.ewb }

/-! The host's writes into device memory (R336, R344, R345). -/

/-- Logs an arrival at a home (R336, R340, R345). -/
def State.logArrival (s : State) (node : Nat) (ev : Ev) : State :=
  s.logAt node (LogRec.place ⟨0, node, 0, ev⟩) (logSize ev) ev
/-- The home of a granule of device memory that the host names: SPACE 0, or SPACE 1 with a physical core. -/
def hostHome (a : Word) : Option Nat :=
  if spaceOf a = 1 then some (wbits a 31 12) else if spaceOf a = 0 then some (portNode (portOf (vaOf a))) else none
/-- The part of a host write that lies in one granule: it is performed at once at its home, and logged, or waits there for
room, with the host's later writes to that home (R342, R344, R345). `unit` marks a replayed write of one of the device's own
units, whose log entry lies at its home (R336). -/
def State.hostPut (s : State) (unit : Bool) (w : HostPut) : State :=
  match hostHome w.addr with
  | none => s
  | some node =>
    let wait (s : State) : State := { s with hostWait := s.hostWait ++ [w] }
    if s.hostWait.any fun y => hostHome y.addr == some node then wait s
    else
      match s.sysWrite w.pdid w.addr w.data (s.rinOf node) with
      | (s, .done) => s.logArrival node ⟨.hostWrite w.pdid w.addr w.data, { b := unit }⟩
      | (s, .waits) => wait s
      | (s, .fails) => s
/-- Host writes that wait for room try again, in order. -/
def State.retryHost (s : State) : State := s.hostWait.foldl (fun s w => s.hostPut false w) { s with hostWait := [] }

/-- SEALED(n) (R334 step 9). -/
def execSealedMessage (s : State) : Out :=
  let n := BitVec.ofNat 32 s.subj.n
  if serialLe n s.sealedNo then .next s
  else
    let late (r : BitVec 32) : Bool := serialLt n r
    let s := { s with
      sealedNo := n
      cores := s.cores.map fun (x : Nat × Core) => (x.1, { x.2 with sealed := n })
      undo := s.undo.filter fun u => late u.rin
      logs := s.logs.filter fun l => late l.rin
      seals := s.seals.filter fun r => late r.cut
      markers := s.markers.filter fun x => late x.2 }
    let s := s.recount.drainEwb n
    let s := s.cores.foldl (fun s (x : Nat × Core) => s.releaseReqs x.1) s
    let serve (s : State) : State := s.ports.foldl (fun s (x : Nat × Port) => s.servePort x.1 none) s
    .next ((serve (serve s.retryHost).releaseHost).drainEwb n).retryCuts

/-- The buffer of a core is full: its oldest 4 KiB move to its seal port, if its region has room for them (R339, R342). -/
def execUndoOverflow (s : State) : Out :=
  let c := s.subj.core
  if (s.coreAt c).undoBytes < 4096 || (s.portAt (sealPort c)).undoBytes + 4096 > s.undoRegion then .next s
  else
    .next ((s.modCore c fun k => { k with undoBytes := k.undoBytes - 4096, undoOver := k.undoOver + 4096 }).portUndo
      (sealPort c) 4096)

/-! The host's accesses (R344, R345). -/

/-- Bytes up to the end of their granule, address by address. -/
def cutGranules : Nat → Word → List Byte → List (Word × List Byte)
  | 0, _, _ => []
  | n + 1, a, b =>
    if b.isEmpty then []
    else
      let k := 64 - a.toNat % 64
      (a, b.take k) :: cutGranules n (a + wd k) (b.drop k)
/-- A host write into device memory (R345). -/
def execHostWrite (pdid : Nat) (addr : Word) (data : List Byte) (s : State) : Out :=
  .next ((cutGranules (data.length + 1) addr data).foldl (fun s (x : Word × List Byte) => s.hostPut s.subj.b ⟨pdid, x.1, x.2⟩) s)

/-! Rollback (R347–R351). -/

/-- An uncorrectable error is found: its device tells the leader, and the leader every member (R347). The integrity check
of a packet is no step of its own: a late failure is an error that the outside reports, at any time (DEDUCED, log
87; R350). -/
def execUncorrectableError (s : State) : Out :=
  let x := s.subj
  if s.leader = s.devIdx then
    .next ((s.members.filter (· != s.devIdx)).foldl (fun (s : State) d => s.send sealNode (devNode d) .rollback x) (s.after 0 .rollback x))
  else .next (s.send sealNode (devNode s.leader) .uncorrectableError s.subj)
/-- Undoes one record (R348 step 2). -/
def State.undoOne (s : State) (u : UndoRec) : State :=
  let bytes := u.old.getD (List.replicate 64 0)
  let tag : Byte := if u.old.isSome then u.tag.setWidth 8 else 0
  if u.code then { s with istore := mwrite s.istore (istoreKey u.home (64 * u.gran)) bytes }
  else if u.home < 4096 then
    { s with
      spad := mwrite s.spad (spadKey u.home (64 * u.gran)) bytes
      spadTag := mset s.spadTag (spadGran u.home u.gran) tag
      marks := tset s.marks (spadGran u.home u.gran) ⟨u.mark, u.epoch, u.cause⟩ }
  else
    let p := u.home - 4096
    { s with hbm := mwrite s.hbm (hbmKey p (64 * u.gran)) bytes, hbmTag := mset s.hbmTag (hbmKey p u.gran) tag }
/-- A core's state as its record has it, with what no record holds kept (R338, R348 steps 4 and 6). -/
def Core.rolledBack (now old : Core) (c : BitVec 32) (cycle : Nat) : Core :=
  let base := if old.v == now.v && old.pdid == now.pdid && !now.out then old else Core.reset
  { base with
    v := now.v
    amen := now.amen
    out := now.out
    pdid := now.pdid
    cassignNext := now.cassignNext
    place := now.place
    devPlace := now.devPlace
    thermslot := now.thermslot
    stealdom := now.stealdom
    segCache := now.segCache
    rinCur := c
    sealed := c - 1
    localFree := cycle
    undoBytes := 0
    undoOver := 0
    paused := false
    arrivals := 0
    threads := base.threads.map fun (x : Nat × Thread) =>
      (x.1, { x.2 with earliest := cycle, parked := false, mon := x.2.mon.map fun m => { m with pend := m.pend || m.armed } }) }
/-- A port as its record has it: caches empty, walks to be made again, its requests to be served. -/
def Port.rolledBack (q : Port) : Port :=
  { q with tlb := [], walks := [], refresh := false, undoBytes := 0, undoAsked := false, arrivals := 0 }
/-- A log entry as an arrival to come (R348 step 5): a home's entries keep their order. -/
def replayMsg (c : BitVec 32) (l : LogRec) : NetMsg :=
  ⟨0x20000 + l.home, l.home, match l.ev.ins with | .hostWrite _ _ _ => c | _ => c - 1, l.ev⟩
/-- Is a log entry replayed at a rollback to `c`: one of interval `c`, or a host write of any interval not sealed (R345,
R348)? -/
def LogRec.replays (l : LogRec) (c : BitVec 32) : Bool := l.rin == c || l.fromHost
/-- The DomainRollback record of a domain (R348 step 7). -/
def State.rollbackRecord (s : State) (sub : Nat) (addr : Word) (c : BitVec 32) (pdid : Nat) : State :=
  match (s.cores.find? fun x => x.2.v && x.2.pdid == pdid).map (·.1) with
  | none => s
  | some k =>
    let t : TrapInfo := ⟨0x18, sub, addr, wd c.toNat⟩
    let s := s.postTrap k pdid [s.trapRecord k 0xFF pdid 0 0 0 ⟨0, 0, false, false⟩ 0 t]
    { s with msix := s.msix ++ [((s.domAt pdid).vf, 2)] }
/-- The records of every domain with cores. -/
def State.rollbackRecords (s : State) (sub : Nat) (addr : Word) (c : BitVec 32) : State :=
  (s.domains.filter (·.2.v)).foldl (fun s (x : Nat × Domain) => s.rollbackRecord sub addr c x.1) s
/-- The device goes back to the cut of a record (R348). -/
def State.rollTo (s : State) (c : BitVec 32) (r : SealRec) : State :=
  let logs := s.logs.filter (·.replays c)
  let keep := s.agenda.filter fun x => evUnit x.2 == none && !cutStep x.2
  let s := s.undo.reverse.foldl (fun s u => s.undoOne u) s
  let s := { s with
    net := (s.net.filter fun (m : NetMsg) => m.dst ≥ 8192 && serialLt m.rin c) ++ logs.map (replayMsg c)
    agenda := keep
    todo := []
    cores := s.cores.map fun (x : Nat × Core) => (x.1, x.2.rolledBack ((tget r.cores x.1).getD Core.reset) c s.cycle)
    ports := s.ports.map fun (x : Nat × Port) => (x.1, ((tget r.ports x.1).getD Port.reset).rolledBack)
    hostFilter := r.hostFilter
    linkSlots := r.linkSlots
    ewb := s.ewb.filter fun w => serialLt w.rin c
    ewbHeld := r.hostHeld
    ewbLate := s.ewbLate.filter fun w => serialLt w.rin c
    filterWait := r.waits
    markers := s.markers.filter fun x => serialLe x.2 c
    undo := []
    logs := []
    cutNo := c
    cutStart := s.cycle
    cutWait := []
    cutPending := []
    saving := none
    seals := s.seals.filter (·.cut == c)
    snagPrev := [] }
  let s := match r.launch with
    | some l => { s with wqs := l.wqs, deps := l.deps, tasks := l.tasks, ages := l.ages, requests := l.requests }
    | none => { s with deps := [], tasks := [], requests := [] }
  let s := r.agenda.foldl (fun (s : State) (x : Nat × Ev) => s.at x.1 x.2) s
  let s := (r.waits.map (·.2)).foldl (fun (s : State) q => s.after 1024 (.filterRefusalRetry q)) s
  let s := s.ports.foldl (fun (s : State) (x : Nat × Port) => (s.servePort x.1 none).after 0 .faultRecordReoffer { n := x.1 }) s
  s.startTimer
/-- A rollback (R348). One that finds a further error stops at step 1: the group's tasks end, and the device halts. -/
def execRollback (s : State) : Out :=
  let c := s.sealedNo + 1
  let sub := s.subj.n
  let addr := s.subj.w
  if s.subj.b then
    let s := { s with
      tasks := []
      halted := true
      cores := s.cores.map fun (x : Nat × Core) => (x.1, { x.2 with threads := [] }) }
    .next (s.rollbackRecords (sub + 128) addr c)
  else
    let r := (s.seals.find? (·.cut == c)).getD ⟨c, [], [], none, [], [], [], [], []⟩
    .next ((s.rollTo c r).rollbackRecords sub addr c)

/-! Fabric links (R17, R260, R388). -/

/-- A coordinate of a device (R17): dimension 0–3. -/
def coord (d dim : Nat) : Nat :=
  if dim = 0 then d % 4 else if dim = 1 then d / 4 % 4 else if dim = 2 then d / 16 % 32 else d / 512 % 32
/-- The fabric port by which a path to another device leaves (R17). A torus takes the shorter way, and + at distance 16: the
rule gives the order of the dimensions only (DESIGN CHOICE, log 78). -/
def firstPort (a b : Nat) : Option Nat :=
  (List.range 4).findSome? fun i =>
    let x := coord a i
    let y := coord b i
    if x = y then none
    else if i < 2 then some (2 * i + (if y > x then 0 else 1))
    else some (2 * i + (if (y + 32 - x) % 32 ≤ 16 then 0 else 1))
/-- Does a port lead off the edge of a mesh dimension (R17)? -/
def edgePort (d p : Nat) : Bool := (p == 0 && d % 4 == 3) || (p == 1 && d % 4 == 0) || (p == 2 && d / 4 % 4 == 3) || (p == 3 && d / 4 % 4 == 0)
/-- The fabric port by which traffic to another device leaves while the ports `up` are up: that of R17's order, or, where it
is down, a detour by a port of dimension A or B, the lowest (R17, R388; which one is a DESIGN CHOICE, log 78). -/
def pathPort (up : BitVec 8) (a b : Nat) : Option Nat :=
  (firstPort a b).bind fun p => if up.getLsbD p then some p else (List.range 4).find? up.getLsbD
/-- Does the path to a node leave by a fabric port while the ports `up` are up? -/
def State.leavesBy (s : State) (up : BitVec 8) (p node : Nat) : Bool :=
  8192 ≤ node && node < 0x10000 && pathPort up s.devIdx (node - 8192) == some p
/-- What a core had on its way by a port is sent again: each thread's requests to a home, in order, and context packets
(R260, R289). -/
def State.resendPath (s : State) (up : BitVec 8) (c p : Nat) : State :=
  let k := s.coreAt c
  let tids := (k.unacked.map (·.who.tid) ++ k.amOut.map (·.who.tid)).eraseDups
  let s := tids.foldl (fun (s : State) tid =>
    ((((k.sentBy tid).map (·.2.1)).filter (s.leavesBy up p)).eraseDups).foldl (fun (s : State) node => s.resend c tid node) s) s
  let s := k.threads.foldl (fun (s : State) (x : Nat × Thread) =>
    match x.2.depart.filter fun d => d.sent && !d.resv && s.leavesBy up p d.dest with
    | some d => s.send c d.dest (.packetArrival d.dest (s.packetOf c x.1 x.2 d.kind d.addr d.via d.ships))
    | none => s) s
  k.spawnBuf.foldl (fun (s : State) q =>
    let dst := travelNode c (s.homeOf c q.via)
    if !q.resv && s.leavesBy up p dst then s.send c dst (.packetArrival dst q) else s) s
/-- A link fails: it trains again, and what was on a path over it is resent in order (R260, R289, R388). -/
def execLinkFailure (s : State) : Out :=
  let p := s.subj.n
  let up := s.portUp
  let s := { s with portUp := setBit up p false }
  let s := s.cores.foldl (fun (s : State) (x : Nat × Core) => s.resendPath up x.1 p) s
  let d := s.draw 270000000
  let o := d.1.draw 2
  .next (o.1.after (d.2 + 1) .portTraining { n := p, b := o.2 == 1 })
/-- Training ends within 100 ms: the link is up, or the port stays down (R388). -/
def execPortTraining (s : State) : Out :=
  .next { s with portUp := setBit s.portUp s.subj.n (s.subj.b && !edgePort s.devIdx s.subj.n) }

end Sys2Proof.Machine
end

