-- ==== Sys2Proof/Machine/Package.lean ====
section
/-! DEFINITION. The management registers and the base address regions (R16, R294, R304, R332, R342, R352–R354, R386), the
host's reads (R344), device reset and boot (R388, R390), and the package's clocked steps: power samples (R385), the health
update (R393) and attestation (R392). -/

namespace Sys2Proof.Machine

/-! Placement tables (R16). -/

/-- A location that was held with its logical numbers, as the tables now map it. -/
def State.located (s : State) (c : Nat) (l : EyLoc) : Option EyLoc :=
  let dev : Option Nat :=
    if l.dev < 0x8000 then some l.dev
    else ((tget (s.coreAt c).devPlace (l.dev - 0x8000)).filter fun p => p.valid && !p.transit).map (·.phys)
  let core : Option Nat := ((tget (s.coreAt c).place l.core).filter fun p => p.valid && !p.transit).map (·.phys)
  match dev, core with
  | some d, some k => some { l with dev := d, core := k }
  | _, _ => none
/-- A request held at an interface, for the home its address has under the tables as they now stand; one that has none now
fails as R15 says. -/
def State.unheldReq (s : State) (c : Nat) (mk : Req → Instr) (r : Req) : Nat × Ev :=
  match s.r15 c r.addr with
  | some t => (c, ⟨.acknowledgementArrival r (.failed t.1 t.2 0), {}⟩)
  | none =>
    let r := { r with node := s.reqNode c r, rin := (s.coreAt c).rinCur.toNat }
    (r.node, ⟨mk r, {}⟩)
/-- A message held at an interface for an entry in transit, with the node it goes to under the tables as they now
stand (R16). -/
def State.unheld (s : State) (c : Nat) (ev : Ev) : Nat × Ev :=
  let at_ (a : Word) : Nat := homeNode c (s.homeOf c a)
  let conn (r : ConnReq) : Nat × Ev :=
    match s.located c r.dst with
    | some l =>
      let r := { r with dst := l }
      (s.locNode l, ⟨if l.port then .portEndpointConnect r else .connectRequestArrival r, ev.subj⟩)
    | none => (heldNode c, ev)
  match ev.ins with
  | .globalRead r => s.unheldReq c .globalRead r
  | .globalWrite r => s.unheldReq c .globalWrite r
  | .atomicAtHome r => s.unheldReq c .atomicAtHome r
  | .flushReadAtHome r => s.unheldReq c .flushReadAtHome r
  | .remoteCommandArrival r => (at_ r.addr, ⟨.remoteCommandArrival { r with target := homeCore (s.homeOf c r.addr) }, ev.subj⟩)
  | .connectRequestArrival r => conn r
  | .portEndpointConnect r => conn r
  | .combinedArrival m => (at_ m.addr, ⟨.combinedArrival { m with home := homeCore (s.homeOf c m.addr) }, ev.subj⟩)
  | .combinerReread => (at_ ev.subj.w, ⟨.combinerReread, { ev.subj with n := homeCore (s.homeOf c ev.subj.w) }⟩)
  | .amsgArrival m =>
    match s.r15 c m.addr with
    | some t => (c, ⟨.acknowledgementArrival (amsgReq m) (.failed t.1 t.2 0), {}⟩)
    | none => (at_ m.addr, ⟨.amsgArrival { m with home := at_ m.addr }, ev.subj⟩)
  | .packetArrival _ p =>
    if (s.r15 c p.via).isSome then (c, ⟨.arrivalReport p c (.refused 0x10 6), {}⟩)
    else
      let n := travelNode c (s.homeOf c p.via)
      (n, ⟨.packetArrival n p, ev.subj⟩)
  | _ => (heldNode c, ev)
/-- What a source keeps of a held message follows it: the destination of a departure, if the packet is the thread's own, a request's or an active message's home, an
eyelet's target. -/
def State.follow (s : State) (c : Nat) (x : Nat × Ev) : State :=
  let asks (r : Req) : State := s.modCore c fun k =>
    { k with unacked := k.unacked.map fun y => if y.who.tid == r.who.tid && y.seq == r.seq then r else y }
  let seeks (r : ConnReq) : State := s.modEy c r.src.ey fun y => { y with target := some r.dst }
  match x.2.ins with
  | .packetArrival n p =>
    (s.modWho p.src fun t =>
      if p.tid == t.tid && p.seq == t.seq then { t with depart := t.depart.map fun d => { d with dest := n } } else t).after 32768
      (.packetResendTimeout p n)
  | .amsgArrival m => s.modCore c fun k =>
      { k with amOut := k.amOut.map fun y => if y.who.tid == m.who.tid && y.seq == m.seq then m else y }
  | .globalRead r => if ofCopy r then s else asks r
  | .globalWrite r => if ofCopy r then s else asks r
  | .atomicAtHome r => asks r
  | .flushReadAtHome r => asks r
  | .connectRequestArrival r => seeks r
  | .portEndpointConnect r => seeks r
  | _ => s
/-- Sends the messages that an interface held, in order, where their entry is no longer in transit (R16); they leave under
the core's interval of then (R329). -/
def State.letGo (s : State) (c : Nat) : State :=
  let held := s.net.filter fun m => m.dst == heldNode c
  let s := { s with net := s.net.filter fun m => m.dst != heldNode c }
  held.foldl (fun s m =>
    let x := s.unheld c m.ev
    let m := { m with dst := x.1, ev := x.2 }
    if x.1 = heldNode c then { s with net := s.net ++ [m] }
    else { s with net := s.net ++ [{ m with rin := (s.coreAt c).rinCur }] }.follow c x) s
/-- A placement entry is written (R16): bit 63 valid, bit 62 in transit, and the physical core or the domain index. -/
def execPlacementTableWrite (s : State) : Out :=
  let w := s.subj.w
  let e : Place := ⟨w.getLsbD 63, w.getLsbD 62, if s.subj.b then wbits w 0 14 else wbits w 0 12⟩
  let s' := s.modCore s.subj.core fun k =>
    if s.subj.b then { k with devPlace := tset k.devPlace s.subj.n e } else { k with place := tset k.place s.subj.n e }
  .next (s'.letGo s.subj.core)

/-! Registers of the management region. A write's `slot` is the function that makes it: 0 the physical function, 1 + f the
virtual function f (R386). -/

/-- May the writing function write a register of the physical function's page (R386)? -/
def State.physical (s : State) : Bool := s.subj.slot == 0
/-- May the writing function write a queue's registers: the queue is its own, when the domains that its WQCFG names and is
to name are the function's (R304, R386; DESIGN CHOICE, log 36)? -/
def State.mayQueue (s : State) (pdids : List Nat) : Bool :=
  s.physical || pdids.all fun p => (s.domAt p).v && (s.domAt p).vf + 1 == s.subj.slot

/-- The command a word of SYSCMD starts; none where OP names none, or where [35:0] are not zero (R354). -/
def sysCommand (v : Word) : Option (Instr × Subj) :=
  let x : Subj := { n := wbits v 52 8, core := wbits v 40 12, slot := wbits v 36 4 }
  if wbits v 0 36 != 0 then none
  else match wbits v 60 4 with
    | 1 => some (.save, x)
    | 2 => some (.restore, x)
    | 3 => some (.resume, x)
    | 4 => some (.endThread, x)
    | 5 => some (.segsync, x)
    | 6 => some (.tlbsync, x)
    | 7 => some (.remove, x)
    | 8 => some (.domsync, x)
    | 9 => some (.prienable, x)
    | _ => none
/-- CASSIGN (R353): a change of V or PDID waits until the core is empty; AMEN alone changes at once. -/
def execCassignWrite (s : State) : Out :=
  let c := s.subj.core
  let k := s.coreAt c
  let w := if s.subj.b then k.cassignNext.getD 0 else s.subj.w
  if !(s.physical || s.subj.b) || c ≥ 2304 || (s.subj.b && k.cassignNext.isNone) then .next s
  else if k.v == w.getLsbD 63 && k.pdid == wbits w 0 8 then
    .next (s.setCore c { k with amen := w.getLsbD 62, cassignNext := none })
  else .next ((s.setCore c { k with cassignNext := some w }).assign c)
/-- Is a step of a queue already to come? -/
def State.queueComing (s : State) (q : Nat) (i : Instr) : Bool := s.agenda.any fun e => e.2.ins == i && e.2.subj.n == q
/-- An enabled queue is read: by the unit itself in device memory, by polls in host memory (R305). -/
def State.startQueue (s : State) (q : Nat) : State :=
  let w := s.wqAt q
  if !w.en then s
  else if spaceOf w.base = 3 then (if s.queueComing q .hostRingPoll then s else s.after 1 .hostRingPoll { n := q })
  else if s.queueComing q .workQueueTake then s
  else s.after 1 .workQueueTake { n := q }
/-- WQCFG (R304). -/
def execWqcfgWrite (s : State) : Out :=
  let q := s.subj.n
  let v := s.subj.w
  let old := s.wqAt q
  let logn := wbits v 36 4
  if q ≥ 64 || !s.mayQueue [wbits old.cfg 40 8, wbits v 40 8] || (v.getLsbD 63 && (logn < 4 || logn > 12)) then .next s
  else
    let rw : Word := v &&& 0x80FFFFF000000000
    let new : WorkQ :=
      if v.getLsbD 63 && !old.en then
        { old with cfg := rw ||| 0x4000000000000000, compPos := 0, compPhase := true, taken := 0 }
      else { old with cfg := rw ||| (old.cfg &&& 0x40000000FFFFFFFF) }
    .next ({ s with wqs := tset s.wqs q new }.startQueue q)
/-- Is a queue there, and the writing function's own (R304, R386)? -/
def State.owns (s : State) (q : Nat) : Bool := q < 64 && s.mayQueue [wbits (s.wqAt q).cfg 40 8]
/-- SEALCTL (R332). -/
def execSealctlWrite (s : State) : Out :=
  let p := wbits s.subj.w 0 32
  if !s.physical || p < 100 || p > 1000000 then .next s
  else .next ({ s with sealctl := s.subj.w &&& 0xC0000000FFFFFFFF }).startTimer
/-- UNDOCFG (R342). -/
def execUndocfgWrite (s : State) : Out :=
  if !s.physical || wbits s.subj.w 0 3 > 4 || s.tasks.any (·.2.placed) then .next s
  else .next { s with undocfg := s.subj.w &&& 7 }
/-- System software reclaims a dependence entry, or from 4,096 up resets the table (R310); a record held there is given up
with its task ID (DESIGN CHOICE, log 36). -/
def State.reclaim (s : State) (i : Nat) : State :=
  let mine (x : Nat × Dep) : Bool := i ≥ 4096 || x.1 == i
  let ids := (s.deps.filter mine).filterMap fun (x : Nat × Dep) => match x.2 with | .held _ t => some t | _ => none
  { s with deps := s.deps.filter fun x => !mine x, tasks := s.tasks.filter fun x => !ids.contains x.1 }
/-- A word of the table of health indicators (R393): 0–23 months of end of life, of the dies and then the stacks; 24–167 drift
of a core group; 168–183 corrected ECC errors of a stack; 184–199 row repairs used and 200–215 remaining; 216–471 the eye
margins of the lanes, horizontal and then vertical (the numbers are a DESIGN CHOICE, log 36). -/
def State.health (s : State) (i : Nat) : Word :=
  (tget s.mgmt (0x3000 + i)).getD (if 200 ≤ i && i < 216 then wd (Config.spareRows (i - 200)) else 0)
/-- A row repair: one more used, one fewer left (R389, R393). -/
def State.rowRepair (s : State) (u : Nat) : State :=
  if u ≥ 16 || s.health (200 + u) == 0 then s
  else { s with mgmt := tset (tset s.mgmt (0x3000 + 184 + u) (s.health (184 + u) + 1)) (0x3000 + 200 + u) (s.health (200 + u) - 1) }
/-- The other registers of the management region, by number (DESIGN CHOICE, log 36): 0 a word of the domain table (R352), 1
WQBASE and 2 WQCOMP (R304), 3 SYSARG (R354), 4 PWRLIM (R385), 5 SKIDCTL of a core (R294), 6 a device of the recovery group
(R330), 7 the device's own domain index (R17), 8 the page-request allocation of a function (R256), 9 PORTTOP of a port
(R251), 10 a dependence entry to reclaim (R310), 11 SYSCMD by the function of INDEX (0 the physical function, 1 + f the
virtual function f), 12 the turn of a command that waits (R354), 13 a row repair of a stack (R389). A virtual function writes
its own queues, SYSARG and SYSCMD only (R386). -/
def execRegisterWrite (s : State) : Out :=
  let i := s.subj.m
  let v := s.subj.w
  if !s.physical && !([1, 2, 3, 8, 11, 12].contains s.subj.n) then .next s
  else match s.subj.n with
  | 0 =>
    if i ≥ 2048 then .next s
    else
      let row := (tget s.domTable (i / 8)).getD (List.replicate 8 0)
      .next { s with domTable := tset s.domTable (i / 8) (row.set (i % 8) v) }
  | 1 => .next (if s.owns i then { s with wqs := tset s.wqs i { s.wqAt i with base := v } }.startQueue i else s)
  | 2 => .next (if s.owns i then { s with wqs := tset s.wqs i { s.wqAt i with comp := v } } else s)
  | 3 => .next { s with sysarg := v }
  | 4 => .next { s with pwrlim := v.toNat }
  | 5 => .next ((s.modCore i fun k => { k with skidctl := v &&& 0x000FFFC0000003FF }).freeArrivals i)
  | 6 =>
    let rest := s.members.filter (· != i)
    .next { s with members := if !v.getLsbD 0 then rest else if s.members.contains i then s.members else s.members ++ [i] }
  | 7 =>
    let d := wbits v 0 14
    .next { s with
      devIdx := d
      members := s.members.map fun x => if x = s.devIdx then d else x
      portUp := (List.range 8).foldl (fun m p => setBit m p (!edgePort d p && (s.portUp.getLsbD p || edgePort s.devIdx p))) s.portUp }
  | 8 => .next ({ s with priAlloc := tset s.priAlloc i v.toNat }.regroup i)
  | 9 => .next { s with mgmt := tset s.mgmt (0x1000 + i) v }
  | 10 => .next (s.reclaim i)
  | 11 =>
    match sysCommand v with
    | none => s.command .registerWrite false fun s _ => s
    | some (i, x) => .next (s.after 0 i { x with w := wd s.subj.m })
  | 12 => .next s.nextCommand
  | 13 => .next (s.rowRepair i)
  | _ => .next s

/-! Power, health, attestation, boot. -/

/-- The regulators report (R385): above PWRLIM every core disables a slot, as it does for heat; below, what was disabled
for it is enabled again, one slot at a time. -/
def execPowerSample (s : State) : Out :=
  let amps := Config.vcoreCurrent s.draws
  let s := { s with draws := s.draws + 1 }.after 270000 .powerSample
  let all (s : State) (b : Bool) : State :=
    (List.range 2304).foldl (fun (s : State) c => s.after 0 .thermslotUpdate { core := c, b := b }) s
  if amps > s.pwrlim then .next (all { s with throttled := true } true)
  else if s.throttled then .next (all { s with throttled := s.cores.any fun x => wbits x.2.thermslot 16 5 > 1 } false)
  else .next s
/-- The indicators that firmware reads and computes: all but the row repairs, which are counted as they are made. -/
def healthIndex : List Nat := List.range 184 ++ (List.range 256).map (· + 216)
/-- Once an hour firmware computes the months of predicted end of life of each die and stack from the indicators, whose
readings are taken at the same time (R393; DESIGN CHOICE, log 5). -/
def execHealthUpdate (s : State) : Out :=
  let v (u : Nat) : Nat := if u < 24 then Config.endOfLife (s.eol * 24 + u) else Config.healthReading s.eol u
  let m := healthIndex.foldl (fun (m : Table Word) u => tset m (0x3000 + u) (wd (v u))) s.mgmt
  .next ({ s with eol := s.eol + 1, mgmt := m }.after 9720000000000 .healthUpdate)
/-- The attestation report of a function (R392): function 0 is the physical one. -/
def State.attest (s : State) (fn : Nat) (nonce : List Byte) : List Byte :=
  let pdid := ((s.domains.find? fun x => x.2.v && x.2.vf + 1 == fn).map (·.1)).getD 0
  let head := padTo 32 nonce ++ padTo 64 (Config.imageDigest true) ++ padTo 64 (Config.imageDigest false) ++
    padTo 57 (Config.identityKey s.boots) ++ toLE 1 fn ++ toLE 1 pdid ++ List.replicate 5 0
  head ++ padTo 114 (Config.sign head)
/-- A function writes its mailbox (R392), or, with no nonce, the oldest request is served. -/
def execAttestationRequest (fn : Nat) (nonce : List Byte) (s : State) : Out :=
  let serve (s : State) : State :=
    let d := s.draw 4096
    d.1.after (d.2 + 1) (.attestationRequest 0 [])
  if nonce.isEmpty then
    match s.mailbox with
    | [] => .next s
    | (f, n) :: rest =>
      let s := { s with reports := tset s.reports f (s.attest f n), mailbox := rest }
      .next (if rest.isEmpty then s else serve s)
  else if s.mailbox.any (·.1 == fn) then
    .next { s with mailbox := s.mailbox.map fun x => if x.1 == fn then (fn, nonce) else x }
  else
    let first := s.mailbox.isEmpty
    let s := { s with mailbox := s.mailbox ++ [(fn, nonce)] }
    .next (if first then serve s else s)
/-- What the firmware applies from the signed configuration at boot number `n` (R390 step 5), and the ports that train
(R388): PWRLIM, an undo fraction in its range, the enabled ports and their link widths. -/
def State.configured (s : State) (n : Nat) : State :=
  let on := Config.bootPorts n &&& Config.portsTrained n
  { s with
    pwrlim := Config.bootPower n
    undocfg := if (Config.bootUndo n).toNat ≤ 4 then (Config.bootUndo n).setWidth 64 else s.undocfg
    portUp := (List.range 8).foldl (fun m p => setBit m p (on.getLsbD p && !edgePort s.devIdx p)) 0
    mgmt := (List.range 8).foldl (fun (m : Table Word) p => tset m (0x4000 + p) (wd (Config.bootWidth n p))) s.mgmt }
/-- Device reset and boot (R390): everything stands as after reset; what is outside the device stays, and so do the health
indicators (R393). The configuration is applied if it is good. -/
def execDeviceReset (s : State) : Out :=
  let b := Config.bootCheck (s.boots + 1)
  let t := { State.reset with
    boots := s.boots + 1
    bootstat := if !b.1 then 2 else if !b.2 then 3 else 1
    host := s.host
    draws := s.draws
    devIdx := s.devIdx
    portUp := 0
    members := [s.devIdx]
    msix := s.msix
    hostReads := s.hostReads
    eol := s.eol
    mgmt := s.mgmt.filter fun x => 0x3000 ≤ x.1 && x.1 < 0x4000 }
  .next (if b.1 && b.2 then t.configured (s.boots + 1) else t)

/-! The base address region of a function (R386). -/

/-- The first page: the function's number, its status, BOOTSTAT, and for function 0 the ports that are up and the health
summary (the places within a page are a DESIGN CHOICE, log 36). -/
def State.statusWord (s : State) (f i : Nat) : Word :=
  if i = 0 then wd f
  else if i = 1 then wd (s.halted.toNat + 2 * s.throttled.toNat)
  else if i = 2 then wd s.bootstat
  else if f != 0 then 0
  else if i = 3 then s.portUp.setWidth 64
  else if 32 ≤ i then s.health (i - 32)
  else 0
/-- CASSIGN of a core as it reads (R353). -/
def Core.cassign (k : Core) : Word :=
  setBit (setBit (setBit (wd k.pdid) 63 k.v) 62 k.amen) 61 k.out
/-- Word `i` of the region of function `f`: a virtual function sees its own queues only, and the physical function's page
reads zero to it (R386). -/
def State.barWord (s : State) (f i : Nat) : Word :=
  let q := (i - 512) / 4
  let mine := f == 0 || ((s.domAt (wbits (s.wqAt q).cfg 40 8)).v && (s.domAt (wbits (s.wqAt q).cfg 40 8)).vf + 1 == f)
  if i < 512 then s.statusWord f i
  else if i < 768 then
    if !mine then 0
    else if i % 4 = 0 then (s.wqAt q).base
    else if i % 4 = 1 then (s.wqAt q).comp
    else if i % 4 = 2 then (s.wqAt q).cfg
    else 0
  else if i = 8704 then s.sysarg
  else if i = 8706 then s.sysstat
  else if f = 0 && 9216 ≤ i && i < 11264 then ((tget s.domTable ((i - 9216) / 8)).getD []).getD ((i - 9216) % 8) 0
  else if f = 0 && 11264 ≤ i && i < 13568 then (s.coreAt (i - 11264)).cassign
  else if f = 0 && i = 13568 then s.sealctl
  else if f = 0 && i = 13569 then s.undocfg
  else if f = 0 && i = 13570 then wd s.pwrlim
  else if 17408 ≤ i && i < 17920 then wd (leNat ((((tget s.reports f).getD []).drop (8 * (i - 17408))).take 8))
  else 0
/-- Bytes of the region of a function. -/
def State.barBytes (s : State) (f off n : Nat) : List Byte :=
  (List.range n).map fun i => BitVec.ofNat 8 ((s.barWord f ((off + i) / 8)).toNat / 2 ^ (8 * ((off + i) % 8)))
/-- Does the host read a function's base address region: PDIDs from 256 on stand for the functions (DESIGN CHOICE, log 36)? -/
def barRead (pdid : Nat) : Bool := 256 ≤ pdid
/-- A host read of device memory sees the values as they stand (R344); one of a function's base address region sees its
registers (R386). -/
def execHostRead (pdid : Nat) (addr : Word) (len : Nat) (s : State) : Out :=
  if barRead pdid then .next { s with hostReads := s.hostReads ++ [s.barBytes (pdid - 256) addr.toNat len] }
  else
    let r := (cutGranules (len + 1) addr (List.replicate len 0)).foldl (fun (a : State × List Byte) (x : Word × List Byte) =>
      match a.1.sysRead pdid x.1 x.2.length with
      | (s, some b) => (s, a.2 ++ b)
      | (s, none) => (s, a.2 ++ x.2)) (s, [])
    .next { r.1 with hostReads := r.1.hostReads ++ [r.2] }
/-- Does a device that is not up answer a step: its reset, or a read of a base address region, of which only function 0's
first 4 KiB answer while no firmware runs (R390)? -/
def State.answers (s : State) (i : Instr) : Bool :=
  match i with
  | .deviceReset => true
  | .hostRead pdid a n => barRead pdid && (s.bootstat != 2 || (pdid == 256 && a.toNat + n ≤ 4096))
  | _ => false

end Sys2Proof.Machine
end

