-- ==== Sys2Proof/Machine/Scalar.lean ====
section
/-! DEFINITION. Scalar and predicate instructions (R78–R93), scalar conversion (R73), and the completion of a division. -/

namespace Sys2Proof.Machine

/-! Shared forms. -/

/-- A two-source integer instruction of a fixed latency (R82). -/
def aluSpec (o : AR) (lat : Nat) (f : Word → Word → Word) : WordSpec where
  acc _ := scalarAcc [o.a, o.b] [(o.d, some lat)]
  effect s := s.result o.d lat (f (s.sval o.a) (s.sval o.b [o.a]))

/-- A one-source integer instruction, latency 1 (R82). -/
def unarySpec (o : AU) (f : Word → Word) : WordSpec where
  acc _ := scalarAcc [o.a] [(o.d, some 1)]
  effect s := s.result o.d 1 (f (s.sval o.a))

/-- Leading zero bits; 64 for 0 (R82). -/
def clz64 (a : Word) : Nat := if a = 0 then 64 else 63 - Nat.log2 a.toNat
/-- Trailing zero bits; 64 for 0 (R82). -/
def ctz64 (a : Word) : Nat := ((List.range 64).find? fun i => a.getLsbD i).getD 64
/-- One bits (R82). -/
def popc64 (a : Word) : Nat := (List.range 64).countP fun i => a.getLsbD i
/-- `lea` (R85). -/
def leaOf (a b : Word) (k : Nat) : Word :=
  let sum := a + (b <<< k)
  (a >>> 57 <<< 57) ||| (sum &&& BitVec.ofNat 64 (2 ^ 57 - 1))
/-- Quotient and remainder (R83). -/
def divRem (signed : Bool) (a b : Word) : Word × Word :=
  if b = 0 then (allOnes, a)
  else if signed then (a.sdiv b, a.srem b)
  else (a / b, a % b)
/-- The dividend's bit length (R83). -/
def divBits (signed : Bool) (a : Word) : Nat :=
  let n := if signed then a.toInt.natAbs else a.toNat
  if n = 0 then 0 else Nat.log2 n + 1
/-- Cycles from issue to the result of a division (R83). -/
def divLatency (signed : Bool) (a b : Word) : Nat := if b = 0 then 2 else 2 + (divBits signed a + 1) / 2
/-- A division: one divider per slot, and a tracked result (R83). -/
def divSpec (o : AR) (signed quotient : Bool) : WordSpec where
  acc _ := scalarAcc [o.a, o.b] [(o.d, none)]
  park4 s := if s.curCore.divBusy.getLsbD s.ctx.slot then some Park.other else none
  effect s :=
    let a := s.sval o.a
    let b := s.sval o.b [o.a]
    let q := divRem signed a b
    let w := s.me
    let r := s.track o.d
    (r.1.modCore s.ctx.core fun k => { k with divBusy := setBit k.divBusy s.ctx.slot true }).after (divLatency signed a b)
      (.divideComplete ⟨w, r.2, (if quotient then q.1 else q.2).toNat, none⟩)
/-- The relation CC of integers (R38, R87). -/
def compareCC (cc : Nat) (a b : Word) : Bool :=
  if cc = 0 then a == b else if cc = 1 then a != b
  else if cc = 2 then a.slt b else if cc = 3 then a.sle b else if cc = 4 then b.slt a else if cc = 5 then b.sle a
  else if cc = 6 then a.ult b else if cc = 7 then a.ule b else if cc = 8 then b.ult a else b.ule a
/-- Writes a condition and its complement (R87). -/
def State.resultPP (s : State) (pt pf : BitVec 3) (c : Bool) (flags : BitVec 5) (lat : Nat) : State :=
  (s.resultP pt lat c flags).resultP pf lat (!c)
/-- A compare (R87). -/
def cmpSpec (pt pf : BitVec 3) (src : List (BitVec 5)) (c : State → Bool) : WordSpec where
  acc _ := scalarAcc src [] [] [(.preg pt.toNat, some 1), (.preg pf.toNat, some 1)]
  effect s := s.resultPP pt pf (c s) 0 1
/-- A predicate operation (R88). -/
def predSpec (pd pa pb : BitVec 3) (c : Thread → Bool) : WordSpec where
  acc _ := scalarAcc [] [] [.preg pa.toNat, .preg pb.toNat] [(.preg pd.toNat, some 1)]
  effect s := s.resultP pd 1 (c s.view)
/-- An operand read in format FT (R71, R89). -/
def readFT (ft : BitVec 2) (w : Word) : Num := readFmt (fmtOf ft.toNat) false w.toNat
/-- A float arithmetic instruction, latency 4 (R89). `d` marks `fma`, which reads its destination. -/
def fpSpec (o : AFP) (d : Bool) (f : Fmt → Nat → Num → Num → Num → Nat × BitVec 5) : WordSpec where
  acc _ := scalarAcc [o.a, o.b] [(o.d, some 4)] (if d then [.sreg o.d.toNat] else [])
  effect s :=
    let r := f (fmtOf o.ft.toNat) (effRM o.rm.toNat s.view.rm) (readFT o.ft (s.sval o.a)) (readFT o.ft (s.sval o.b [o.a]))
      (readFT o.ft (s.view.sreg o.d.toNat))
    s.result o.d 4 (wd r.1) r.2
/-- A float select or sign instruction, latency 4 (R90), on the operands' low bits. -/
def fsSpec (o : AFS) (f : Fmt → Nat → Nat → Nat × BitVec 5) : WordSpec where
  acc _ := scalarAcc [o.a, o.b] [(o.d, some 4)]
  effect s :=
    let m := fmtOf o.ft.toNat
    let r := f m ((s.sval o.a).toNat % 2 ^ m.width) ((s.sval o.b [o.a]).toNat % 2 ^ m.width)
    s.result o.d 4 (wd r.1) r.2
/-- `fsgn` on bits (R90). -/
def signFrom (flip : Bool) (m : Fmt) (a b : Nat) : Nat × BitVec 5 :=
  let h := 2 ^ (m.width - 1)
  (a % h + (if (b / h == 1) != flip then h else 0), 0)
/-- `fmin` and `fmax` on bits (R90). -/
def minMaxBits (max : Bool) (m : Fmt) (a b : Nat) : Nat × BitVec 5 :=
  fMinMax m max a b (readFmt m false a) (readFmt m false b)

/-! The instructions. -/

/-- `nop`, A-word (R116). -/
def execNopA (h : AHead) (s : State) : Out := runA h {} s
/-- `add` (R82). -/
def execAdd (h : AHead) (o : AR) (s : State) : Out := runA h (aluSpec o 1 (· + ·)) s
/-- `sub` (R82). -/
def execSub (h : AHead) (o : AR) (s : State) : Out := runA h (aluSpec o 1 (· - ·)) s
/-- `mul` (R82). -/
def execMul (h : AHead) (o : AR) (s : State) : Out := runA h (aluSpec o 3 (· * ·)) s
/-- `mulh` (R82). -/
def execMulh (h : AHead) (o : AR) (s : State) : Out :=
  runA h (aluSpec o 3 fun a b => BitVec.ofInt 64 (a.toInt * b.toInt / (2 ^ 64 : Nat))) s
/-- `mulhn` (R82). -/
def execMulhn (h : AHead) (o : AR) (s : State) : Out :=
  runA h (aluSpec o 3 fun a b => wd (a.toNat * b.toNat / 2 ^ 64)) s
/-- `div` (R83). -/
def execDiv (h : AHead) (o : AR) (s : State) : Out := runA h (divSpec o true true) s
/-- `divn` (R83). -/
def execDivn (h : AHead) (o : AR) (s : State) : Out := runA h (divSpec o false true) s
/-- `rem` (R83). -/
def execRem (h : AHead) (o : AR) (s : State) : Out := runA h (divSpec o true false) s
/-- `remn` (R83). -/
def execRemn (h : AHead) (o : AR) (s : State) : Out := runA h (divSpec o false false) s
/-- `and` (R82). -/
def execAnd (h : AHead) (o : AR) (s : State) : Out := runA h (aluSpec o 1 (· &&& ·)) s
/-- `or` (R82). -/
def execOr (h : AHead) (o : AR) (s : State) : Out := runA h (aluSpec o 1 (· ||| ·)) s
/-- `xor` (R82). -/
def execXor (h : AHead) (o : AR) (s : State) : Out := runA h (aluSpec o 1 (· ^^^ ·)) s
/-- `andn` (R82). -/
def execAndn (h : AHead) (o : AR) (s : State) : Out := runA h (aluSpec o 1 fun a b => a &&& ~~~b) s
/-- `shl` (R82). -/
def execShl (h : AHead) (o : AR) (s : State) : Out := runA h (aluSpec o 1 fun a b => a <<< (b.toNat % 64)) s
/-- `shr` (R82). -/
def execShr (h : AHead) (o : AR) (s : State) : Out := runA h (aluSpec o 1 fun a b => a >>> (b.toNat % 64)) s
/-- `sra` (R82). -/
def execSra (h : AHead) (o : AR) (s : State) : Out := runA h (aluSpec o 1 fun a b => a.sshiftRight (b.toNat % 64)) s
/-- `rot` (R82). -/
def execRot (h : AHead) (o : AR) (s : State) : Out := runA h (aluSpec o 1 fun a b => a.rotateLeft (b.toNat % 64)) s
/-- `clz` (R82). -/
def execClz (h : AHead) (o : AU) (s : State) : Out := runA h (unarySpec o fun a => wd (clz64 a)) s
/-- `ctz` (R82). -/
def execCtz (h : AHead) (o : AU) (s : State) : Out := runA h (unarySpec o fun a => wd (ctz64 a)) s
/-- `popc` (R82). -/
def execPopc (h : AHead) (o : AU) (s : State) : Out := runA h (unarySpec o fun a => wd (popc64 a)) s
/-- `min` (R82). -/
def execMin (h : AHead) (o : AR) (s : State) : Out := runA h (aluSpec o 1 fun a b => if b.slt a then b else a) s
/-- `max` (R82). -/
def execMax (h : AHead) (o : AR) (s : State) : Out := runA h (aluSpec o 1 fun a b => if a.slt b then b else a) s
/-- `minn` (R82). -/
def execMinn (h : AHead) (o : AR) (s : State) : Out := runA h (aluSpec o 1 fun a b => if b.ult a then b else a) s
/-- `maxn` (R82). -/
def execMaxn (h : AHead) (o : AR) (s : State) : Out := runA h (aluSpec o 1 fun a b => if a.ult b then b else a) s
/-- `mov` of a register (R82). -/
def execMov (h : AHead) (o : AU) (s : State) : Out := runA h (unarySpec o id) s
/-- `sext.8` (R82). -/
def execSext8 (h : AHead) (o : AU) (s : State) : Out := runA h (unarySpec o fun a => extend true a.toNat 8) s
/-- `sext.16` (R82). -/
def execSext16 (h : AHead) (o : AU) (s : State) : Out := runA h (unarySpec o fun a => extend true a.toNat 16) s
/-- `sext.32` (R82). -/
def execSext32 (h : AHead) (o : AU) (s : State) : Out := runA h (unarySpec o fun a => extend true a.toNat 32) s
/-- `zext.8` (R82). -/
def execZext8 (h : AHead) (o : AU) (s : State) : Out := runA h (unarySpec o fun a => extend false a.toNat 8) s
/-- `zext.16` (R82). -/
def execZext16 (h : AHead) (o : AU) (s : State) : Out := runA h (unarySpec o fun a => extend false a.toNat 16) s
/-- `zext.32` (R82). -/
def execZext32 (h : AHead) (o : AU) (s : State) : Out := runA h (unarySpec o fun a => extend false a.toNat 32) s
/-- `lea` (R85). -/
def execLea (h : AHead) (o : AR) (k : BitVec 2) (s : State) : Out := runA h (aluSpec o 1 fun a b => leaOf a b k.toNat) s
/-- `sel` (R82): reads pK at issue. -/
def execSel (h : AHead) (o : AR) (k : BitVec 3) (s : State) : Out :=
  runA h
    { acc := fun _ => scalarAcc [o.a, o.b] [(o.d, some 1)] [.preg k.toNat]
      effect := fun s => s.result o.d 1 (if s.view.pred k.toNat then s.sval o.a else s.sval o.b [o.a]) } s
/-- `addi` (R84). -/
def execAddi (h : AHead) (d a : BitVec 5) (imm : BitVec 12) (s : State) : Out :=
  runA h (unarySpec ⟨d, a⟩ fun x => x + imm.signExtend 64) s
/-- `mov` of an immediate (R84). -/
def execMovImm (h : AHead) (d : BitVec 5) (imm : BitVec 17) (s : State) : Out :=
  runA h
    { acc := fun _ => scalarAcc [] [(d, some 1)]
      effect := fun s => s.result d 1 (imm.signExtend 64) } s
/-- `mov.k` (R84): the other bits are those the register holds at issue. -/
def execMovK (h : AHead) (d : BitVec 4) (k : BitVec 2) (imm : BitVec 16) (s : State) : Out :=
  runA h
    { acc := fun _ => scalarAcc [] [(d.setWidth 5, some 1)] [short d]
      effect := fun s => s.result (d.setWidth 5) 1
        (mergeBits (s.sval4 d) (imm.toNat * 2 ^ (16 * k.toNat)) (0xFFFF * 2 ^ (16 * k.toNat))) } s
/-- L of a bit-field instruction (R86). -/
def afLen (o : AF) : Nat := if o.len = 0 then 64 else o.len.toNat
/-- `bfx` (R86). -/
def execBfx (h : AHead) (o : AF) (s : State) : Out :=
  runA h (unarySpec ⟨o.d, o.a⟩ fun a => wd (wbits a o.pos.toNat (afLen o))) s
/-- `bfi` (R86): reads its destination. -/
def execBfi (h : AHead) (o : AF) (s : State) : Out :=
  runA h
    { acc := fun _ => scalarAcc [o.a] [(o.d, some 1)] [.sreg o.d.toNat]
      effect := fun s => s.result o.d 1
        (mergeBits (s.view.sreg o.d.toNat) ((s.sval o.a).toNat * 2 ^ o.pos.toNat) ((2 ^ afLen o - 1) * 2 ^ o.pos.toNat)) } s
/-- `cmp` (R87). -/
def execCmp (h : AHead) (pt pf : BitVec 3) (a b : BitVec 5) (cc : BitVec 4) (s : State) : Out :=
  runA h (cmpSpec pt pf [a, b] fun s => compareCC cc.toNat (s.sval a) (s.sval b [a])) s
/-- `cmpi` (R87). -/
def execCmpi (h : AHead) (pt pf : BitVec 3) (a : BitVec 5) (cc : BitVec 4) (imm : BitVec 7) (s : State) : Out :=
  runA h (cmpSpec pt pf [a] fun s => compareCC cc.toNat (s.sval a) (imm.signExtend 64)) s
/-- `pand` (R88). -/
def execPand (h : AHead) (o : AP) (s : State) : Out :=
  runA h (predSpec o.pd o.pa o.pb fun t => (t.pred o.pa.toNat != o.na) && (t.pred o.pb.toNat != o.nb)) s
/-- `por` (R88). -/
def execPor (h : AHead) (o : AP) (s : State) : Out :=
  runA h (predSpec o.pd o.pa o.pb fun t => (t.pred o.pa.toNat != o.na) || (t.pred o.pb.toNat != o.nb)) s
/-- `pxor` (R88). -/
def execPxor (h : AHead) (o : AP) (s : State) : Out :=
  runA h (predSpec o.pd o.pa o.pb fun t => (t.pred o.pa.toNat != o.na) != (t.pred o.pb.toNat != o.nb)) s
/-- `pmov` (R88). -/
def execPmov (h : AHead) (pd pa : BitVec 3) (na : Bool) (s : State) : Out :=
  runA h (predSpec pd pa pa fun t => t.pred pa.toNat != na) s
/-- `fadd` (R89). -/
def execFadd (h : AHead) (o : AFP) (s : State) : Out := runA h (fpSpec o false fun f m a b _ => fAdd f m a b) s
/-- `fsub` (R89). -/
def execFsub (h : AHead) (o : AFP) (s : State) : Out := runA h (fpSpec o false fun f m a b _ => fAdd f m a b.negate) s
/-- `fmul` (R89). -/
def execFmul (h : AHead) (o : AFP) (s : State) : Out := runA h (fpSpec o false fun f m a b _ => fMul f m a b) s
/-- `fma` (R89). -/
def execFma (h : AHead) (o : AFP) (s : State) : Out := runA h (fpSpec o true fFma) s
/-- `fmin` (R90). -/
def execFmin (h : AHead) (o : AFS) (s : State) : Out := runA h (fsSpec o (minMaxBits false)) s
/-- `fmax` (R90). -/
def execFmax (h : AHead) (o : AFS) (s : State) : Out := runA h (fsSpec o (minMaxBits true)) s
/-- `fsgn` (R90). -/
def execFsgn (h : AHead) (o : AFS) (s : State) : Out := runA h (fsSpec o (signFrom false)) s
/-- `fsgn.n` (R90). -/
def execFsgnN (h : AHead) (o : AFS) (s : State) : Out := runA h (fsSpec o (signFrom true)) s
/-- `fcmp` (R91), latency 1. -/
def execFcmp (h : AHead) (pt pf : BitVec 3) (a b : BitVec 5) (fc : BitVec 3) (ft : BitVec 2) (s : State) : Out :=
  runA h
    { acc := fun _ => scalarAcc [a, b] [] [] [(.preg pt.toNat, some 1), (.preg pf.toNat, some 1)]
      effect := fun s =>
        let r := fCompare fc.toNat (readFT ft (s.sval a)) (readFT ft (s.sval b [a]))
        s.resultPP pt pf r.1 r.2 1 } s
/-- `cvt` (R73), latency 3. -/
def execCvt (h : AHead) (o : ACV) (s : State) : Out :=
  runA h
    { acc := fun _ => scalarAcc [o.a] [(o.d, some 3)]
      effect := fun s =>
        let t := s.view
        let r := convert (fmtOf o.dst.toNat) t.topx (effRM o.rm.toNat t.rm)
          (readFmt (fmtOf o.frm.toNat) t.topx (s.sval o.a).toNat)
        s.result o.d 3 (writeScalar (fmtOf o.dst.toNat) r.1) r.2 } s

/-! Steps. -/

/-- The results of a core due by now are written, in the order they were made due; their flags enter (R70, R102). -/
def execFixedLatencyWrite (s : State) : Out :=
  let c := s.subj.core
  let now := (s.coreAt c).due.filter (·.due ≤ s.cycle)
  let s := s.modCore c fun k => { k with due := k.due.filter fun w => !(w.due ≤ s.cycle) }
  .next (now.foldl (fun s w => (s.writeDst ⟨c, w.slot, w.tid⟩ w.dst w.val w.mask).raiseDue c w) s)

/-- A slot's divider writes its result, and is free (R83). -/
def execDivideComplete (w : Wb) (s : State) : Out :=
  .next ((s.writeFull w.who w.dst w.val).modCore w.who.core fun k =>
    { k with divBusy := setBit k.divBusy w.who.slot false })

/-- A tracked result of another unit is written (R79, R107). -/
def execTrackedRegisterWrite (w : Wb) (s : State) : Out := .next ((s.writeFull w.who w.dst w.val).decD w.who w.dc)

end Sys2Proof.Machine
end

