-- ==== Sys2Proof/Machine/Dispatch.lean ====
section
/-! DEFINITION. One arm per constructor of `Instr`, each a call of its meaning. -/

namespace Sys2Proof.Machine

/-- The meaning of an instruction or step. -/
def exec (i : Instr) (s : State) : Host.Outcome State Fault Refusal :=
  match i with
  | .nopC h => Sys2Proof.Machine.execNopC h s
  | .br h d => Sys2Proof.Machine.execBr h d s
  | .call h d => Sys2Proof.Machine.execCall h d s
  | .ret h => Sys2Proof.Machine.execRet h s
  | .jr h a => Sys2Proof.Machine.execJr h a s
  | .loop h cnt d => Sys2Proof.Machine.execLoop h cnt d s
  | .yield h => Sys2Proof.Machine.execYield h s
  | .halt h => Sys2Proof.Machine.execHalt h s
  | .ld h m => Sys2Proof.Machine.execLd h m s
  | .st h m => Sys2Proof.Machine.execSt h m s
  | .ldv h m => Sys2Proof.Machine.execLdv h m s
  | .stv h m => Sys2Proof.Machine.execStv h m s
  | .ldp h m => Sys2Proof.Machine.execLdp h m s
  | .segld h m => Sys2Proof.Machine.execSegld h m s
  | .segst h m => Sys2Proof.Machine.execSegst h m s
  | .tagset h a m => Sys2Proof.Machine.execTagset h a m s
  | .tagget h a m => Sys2Proof.Machine.execTagget h a m s
  | .tlook h a b => Sys2Proof.Machine.execTlook h a b s
  | .tfill h a b c => Sys2Proof.Machine.execTfill h a b c s
  | .hsift h m c => Sys2Proof.Machine.execHsift h m c s
  | .waitd h n => Sys2Proof.Machine.execWaitd h n s
  | .tcfg h t b => Sys2Proof.Machine.execTcfg h t b s
  | .tld h t m => Sys2Proof.Machine.execTld h t m s
  | .tst h t m => Sys2Proof.Machine.execTst h t m s
  | .tsave h t m => Sys2Proof.Machine.execTsave h t m s
  | .trest h t m => Sys2Proof.Machine.execTrest h t m s
  | .tcmd h a b c => Sys2Proof.Machine.execTcmd h a b c s
  | .elace h e m => Sys2Proof.Machine.execElace h e m s
  | .econn h e b => Sys2Proof.Machine.execEconn h e b s
  | .elisten h e => Sys2Proof.Machine.execElisten h e s
  | .eaccept h e b => Sys2Proof.Machine.execEaccept h e b s
  | .egrant h a b => Sys2Proof.Machine.execEgrant h a b s
  | .eclose h e => Sys2Proof.Machine.execEclose h e s
  | .estat h a e => Sys2Proof.Machine.execEstat h a e s
  | .eslot h a b => Sys2Proof.Machine.execEslot h a b s
  | .esend h m => Sys2Proof.Machine.execEsend h m s
  | .erecv h m => Sys2Proof.Machine.execErecv h m s
  | .esel h e n => Sys2Proof.Machine.execEsel h e n s
  | .eoffer h e b => Sys2Proof.Machine.execEoffer h e b s
  | .ealt h a b => Sys2Proof.Machine.execEalt h a b s
  | .edeleg h e b => Sys2Proof.Machine.execEdeleg h e b s
  | .ecatch h e b => Sys2Proof.Machine.execEcatch h e b s
  | .route h a b => Sys2Proof.Machine.execRoute h a b s
  | .qcfg h q b => Sys2Proof.Machine.execQcfg h q b s
  | .spawn h a b c => Sys2Proof.Machine.execSpawn h a b c s
  | .wake h a => Sys2Proof.Machine.execWake h a s
  | .marm h n m => Sys2Proof.Machine.execMarm h n m s
  | .mwait h a b => Sys2Proof.Machine.execMwait h a b s
  | .mdisarm h n => Sys2Proof.Machine.execMdisarm h n s
  | .barinit h m c => Sys2Proof.Machine.execBarinit h m c s
  | .bararr h m => Sys2Proof.Machine.execBararr h m s
  | .barwait h a m pd => Sys2Proof.Machine.execBarwait h a m pd s
  | .gld h m => Sys2Proof.Machine.execGld h m s
  | .gst h m => Sys2Proof.Machine.execGst h m s
  | .gstc h m => Sys2Proof.Machine.execGstc h m s
  | .gatom h m => Sys2Proof.Machine.execGatom h m s
  | .gred h m => Sys2Proof.Machine.execGred h m s
  | .amsg h a sg lit => Sys2Proof.Machine.execAmsg h a sg lit s
  | .frd h a m => Sys2Proof.Machine.execFrd h a m s
  | .copy h y len => Sys2Proof.Machine.execCopy h y len s
  | .copyg h y lst cnt rowb => Sys2Proof.Machine.execCopyg h y lst cnt rowb s
  | .cpref h m c => Sys2Proof.Machine.execCpref h m c s
  | .fence h scope => Sys2Proof.Machine.execFence h scope s
  | .travel h m => Sys2Proof.Machine.execTravel h m s
  | .tspawn h m c => Sys2Proof.Machine.execTspawn h m c s
  | .tseg h a => Sys2Proof.Machine.execTseg h a s
  | .fork h a b => Sys2Proof.Machine.execFork h a b s
  | .join h a => Sys2Proof.Machine.execJoin h a s
  | .launch h m => Sys2Proof.Machine.execLaunch h m s
  | .grow h a => Sys2Proof.Machine.execGrow h a s
  | .commit h => Sys2Proof.Machine.execCommit h s
  | .done h => Sys2Proof.Machine.execDone h s
  | .sealCut h => Sys2Proof.Machine.execSeal h s
  | .sealw h => Sys2Proof.Machine.execSealw h s
  | .rin h a => Sys2Proof.Machine.execRin h a s
  | .xsync h => Sys2Proof.Machine.execXsync h s
  | .crd h a r => Sys2Proof.Machine.execCrd h a r s
  | .cwr h a r => Sys2Proof.Machine.execCwr h a r s
  | .trap h imm => Sys2Proof.Machine.execTrap h imm s
  | .syscall h imm => Sys2Proof.Machine.execSyscall h imm s
  | .brk h imm => Sys2Proof.Machine.execBrk h imm s
  | .iload h m c => Sys2Proof.Machine.execIload h m c s
  | .eret h => Sys2Proof.Machine.execEret h s
  | .nopA h => Sys2Proof.Machine.execNopA h s
  | .add h o => Sys2Proof.Machine.execAdd h o s
  | .sub h o => Sys2Proof.Machine.execSub h o s
  | .mul h o => Sys2Proof.Machine.execMul h o s
  | .mulh h o => Sys2Proof.Machine.execMulh h o s
  | .mulhn h o => Sys2Proof.Machine.execMulhn h o s
  | .div h o => Sys2Proof.Machine.execDiv h o s
  | .divn h o => Sys2Proof.Machine.execDivn h o s
  | .rem h o => Sys2Proof.Machine.execRem h o s
  | .remn h o => Sys2Proof.Machine.execRemn h o s
  | .and h o => Sys2Proof.Machine.execAnd h o s
  | .or h o => Sys2Proof.Machine.execOr h o s
  | .xor h o => Sys2Proof.Machine.execXor h o s
  | .andn h o => Sys2Proof.Machine.execAndn h o s
  | .shl h o => Sys2Proof.Machine.execShl h o s
  | .shr h o => Sys2Proof.Machine.execShr h o s
  | .sra h o => Sys2Proof.Machine.execSra h o s
  | .rot h o => Sys2Proof.Machine.execRot h o s
  | .clz h o => Sys2Proof.Machine.execClz h o s
  | .ctz h o => Sys2Proof.Machine.execCtz h o s
  | .popc h o => Sys2Proof.Machine.execPopc h o s
  | .min h o => Sys2Proof.Machine.execMin h o s
  | .max h o => Sys2Proof.Machine.execMax h o s
  | .minn h o => Sys2Proof.Machine.execMinn h o s
  | .maxn h o => Sys2Proof.Machine.execMaxn h o s
  | .mov h o => Sys2Proof.Machine.execMov h o s
  | .sext8 h o => Sys2Proof.Machine.execSext8 h o s
  | .sext16 h o => Sys2Proof.Machine.execSext16 h o s
  | .sext32 h o => Sys2Proof.Machine.execSext32 h o s
  | .zext8 h o => Sys2Proof.Machine.execZext8 h o s
  | .zext16 h o => Sys2Proof.Machine.execZext16 h o s
  | .zext32 h o => Sys2Proof.Machine.execZext32 h o s
  | .lea h o k => Sys2Proof.Machine.execLea h o k s
  | .sel h o k => Sys2Proof.Machine.execSel h o k s
  | .addi h d a imm => Sys2Proof.Machine.execAddi h d a imm s
  | .movImm h d imm => Sys2Proof.Machine.execMovImm h d imm s
  | .movK h d k imm => Sys2Proof.Machine.execMovK h d k imm s
  | .bfx h o => Sys2Proof.Machine.execBfx h o s
  | .bfi h o => Sys2Proof.Machine.execBfi h o s
  | .cmp h pt pf a b cc => Sys2Proof.Machine.execCmp h pt pf a b cc s
  | .cmpi h pt pf a cc imm => Sys2Proof.Machine.execCmpi h pt pf a cc imm s
  | .pand h o => Sys2Proof.Machine.execPand h o s
  | .por h o => Sys2Proof.Machine.execPor h o s
  | .pxor h o => Sys2Proof.Machine.execPxor h o s
  | .pmov h pd pa na => Sys2Proof.Machine.execPmov h pd pa na s
  | .fadd h o => Sys2Proof.Machine.execFadd h o s
  | .fsub h o => Sys2Proof.Machine.execFsub h o s
  | .fmul h o => Sys2Proof.Machine.execFmul h o s
  | .fma h o => Sys2Proof.Machine.execFma h o s
  | .fmin h o => Sys2Proof.Machine.execFmin h o s
  | .fmax h o => Sys2Proof.Machine.execFmax h o s
  | .fsgn h o => Sys2Proof.Machine.execFsgn h o s
  | .fsgnN h o => Sys2Proof.Machine.execFsgnN h o s
  | .fcmp h pt pf a b fc ft => Sys2Proof.Machine.execFcmp h pt pf a b fc ft s
  | .cvt h o => Sys2Proof.Machine.execCvt h o s
  | .vaddF h o => Sys2Proof.Machine.execVaddF h o s
  | .vaddI h o => Sys2Proof.Machine.execVaddI h o s
  | .vsubF h o => Sys2Proof.Machine.execVsubF h o s
  | .vsubI h o => Sys2Proof.Machine.execVsubI h o s
  | .vmulF h o => Sys2Proof.Machine.execVmulF h o s
  | .vmulI h o => Sys2Proof.Machine.execVmulI h o s
  | .vfma h o => Sys2Proof.Machine.execVfma h o s
  | .vfms h o => Sys2Proof.Machine.execVfms h o s
  | .vminF h o => Sys2Proof.Machine.execVminF h o s
  | .vminS h o => Sys2Proof.Machine.execVminS h o s
  | .vminN h o => Sys2Proof.Machine.execVminN h o s
  | .vmaxF h o => Sys2Proof.Machine.execVmaxF h o s
  | .vmaxS h o => Sys2Proof.Machine.execVmaxS h o s
  | .vmaxN h o => Sys2Proof.Machine.execVmaxN h o s
  | .vabsF h o => Sys2Proof.Machine.execVabsF h o s
  | .vnegF h o => Sys2Proof.Machine.execVnegF h o s
  | .vabsI h o => Sys2Proof.Machine.execVabsI h o s
  | .vnegI h o => Sys2Proof.Machine.execVnegI h o s
  | .vrcp h o => Sys2Proof.Machine.execVrcp h o s
  | .vrsq h o => Sys2Proof.Machine.execVrsq h o s
  | .vexp2 h o => Sys2Proof.Machine.execVexp2 h o s
  | .vlog2 h o => Sys2Proof.Machine.execVlog2 h o s
  | .vmov h o => Sys2Proof.Machine.execVmov h o s
  | .vand h o => Sys2Proof.Machine.execVand h o s
  | .vor h o => Sys2Proof.Machine.execVor h o s
  | .vxor h o => Sys2Proof.Machine.execVxor h o s
  | .vshl h o => Sys2Proof.Machine.execVshl h o s
  | .vshr h o => Sys2Proof.Machine.execVshr h o s
  | .vsra h o => Sys2Proof.Machine.execVsra h o s
  | .vcmpF h o => Sys2Proof.Machine.execVcmpF h o s
  | .vcmpI h o => Sys2Proof.Machine.execVcmpI h o s
  | .vsel h o => Sys2Proof.Machine.execVsel h o s
  | .vperm h o => Sys2Proof.Machine.execVperm h o s
  | .vbcast h v sf w => Sys2Proof.Machine.execVbcast h v sf w s
  | .vext h sf v lane w => Sys2Proof.Machine.execVext h sf v lane w s
  | .vins h o => Sys2Proof.Machine.execVins h o s
  | .vcompress h o => Sys2Proof.Machine.execVcompress h o s
  | .vexpand h o => Sys2Proof.Machine.execVexpand h o s
  | .vred h o => Sys2Proof.Machine.execVred h o s
  | .vcvt h o => Sys2Proof.Machine.execVcvt h o s
  | .vpackbx h o => Sys2Proof.Machine.execVpackbx h o s
  | .vunpbx h o => Sys2Proof.Machine.execVunpbx h o s
  | .mand h md ma mb => Sys2Proof.Machine.execMand h md ma mb s
  | .mor h md ma mb => Sys2Proof.Machine.execMor h md ma mb s
  | .mnot h md ma => Sys2Proof.Machine.execMnot h md ma s
  | .mpop h sd ma => Sys2Proof.Machine.execMpop h sd ma s
  | .sbind h v sf => Sys2Proof.Machine.execSbind h v sf s
  | .srep h sf => Sys2Proof.Machine.execSrep h sf s
  | .tzero h td => Sys2Proof.Machine.execTzero h td s
  | .tmma h o => Sys2Proof.Machine.execTmma h o s
  | .tmmas h o tm n => Sys2Proof.Machine.execTmmas h o tm n s
  | .ttrans h td ta => Sys2Proof.Machine.execTtrans h td ta s
  | .tadd h td ta tb => Sys2Proof.Machine.execTadd h td ta tb s
  | .tcvt h td ta fmt rm => Sys2Proof.Machine.execTcvt h td ta fmt rm s
  | .tsel h td ta k => Sys2Proof.Machine.execTsel h td ta k s
  | .divideComplete w => Sys2Proof.Machine.execDivideComplete w s
  | .localAccessPerformed core a => Sys2Proof.Machine.execLocalAccessPerformed core a s
  | .localLoadWriteback w => Sys2Proof.Machine.execLocalLoadWriteback w s
  | .trackedRegisterWrite w => Sys2Proof.Machine.execTrackedRegisterWrite w s
  | .segldComplete who org k base attr dc => Sys2Proof.Machine.execSegldComplete who org k base attr dc s
  | .elaceComplete who org ey addr seg => Sys2Proof.Machine.execElaceComplete who org ey addr seg s
  | .streamReadAvailable who reg idx => Sys2Proof.Machine.execStreamReadAvailable who reg idx s
  | .streamPushQueued who org reg off val mask => Sys2Proof.Machine.execStreamPushQueued who org reg off val mask s
  | .remoteCommandArrival c => Sys2Proof.Machine.execRemoteCommandArrival c s
  | .remoteCommandReply c r => Sys2Proof.Machine.execRemoteCommandReply c r s
  | .connectRequestArrival r => Sys2Proof.Machine.execConnectRequestArrival r s
  | .connectOutcome r o => Sys2Proof.Machine.execConnectOutcome r o s
  | .portEndpointConnect r => Sys2Proof.Machine.execPortEndpointConnect r s
  | .channelMessageArrival src dst connid m => Sys2Proof.Machine.execChannelMessageArrival src dst connid m s
  | .allowanceReturn src dst connid => Sys2Proof.Machine.execAllowanceReturn src dst connid s
  | .closeNoticeArrival dst n => Sys2Proof.Machine.execCloseNoticeArrival dst n s
  | .closeAcknowledge src dst connid => Sys2Proof.Machine.execCloseAcknowledge src dst connid s
  | .moveNotice src dst connid => Sys2Proof.Machine.execMoveNotice src dst connid s
  | .markArrival src dst connid => Sys2Proof.Machine.execMarkArrival src dst connid s
  | .rehome old new dst connid => Sys2Proof.Machine.execRehome old new dst connid s
  | .globalRead r => Sys2Proof.Machine.execGlobalRead r s
  | .globalWrite r => Sys2Proof.Machine.execGlobalWrite r s
  | .atomicAtHome r => Sys2Proof.Machine.execAtomicAtHome r s
  | .flushReadAtHome r => Sys2Proof.Machine.execFlushReadAtHome r s
  | .acknowledgementArrival r rep => Sys2Proof.Machine.execAcknowledgementArrival r rep s
  | .countedAckArrival r => Sys2Proof.Machine.execCountedAckArrival r s
  | .amsgArrival m => Sys2Proof.Machine.execAmsgArrival m s
  | .amsgReply m val => Sys2Proof.Machine.execAmsgReply m val s
  | .filterRefusalRetry r => Sys2Proof.Machine.execFilterRefusalRetry r s
  | .faultNotice who port => Sys2Proof.Machine.execFaultNotice who port s
  | .packetArrival dst p => Sys2Proof.Machine.execPacketArrival dst p s
  | .arrivalReport p dst rep => Sys2Proof.Machine.execArrivalReport p dst rep s
  | .reservationGrant p dst => Sys2Proof.Machine.execReservationGrant p dst s
  | .reservationRetry p dst => Sys2Proof.Machine.execReservationRetry p dst s
  | .packetResendTimeout p dst => Sys2Proof.Machine.execPacketResendTimeout p dst s
  | .lateReplyForward core r rep => Sys2Proof.Machine.execLateReplyForward core r rep s
  | .combinedArrival m => Sys2Proof.Machine.execCombinedArrival m s
  | .combinerReply m r => Sys2Proof.Machine.execCombinerReply m r s
  | .trapReportAfterIssue who org t => Sys2Proof.Machine.execTrapReportAfterIssue who org t s
  | .commitRequest who task => Sys2Proof.Machine.execCommitRequest who task s
  | .growRequest who org task n dst => Sys2Proof.Machine.execGrowRequest who org task n dst s
  | .launchSubmit who org task pdid r => Sys2Proof.Machine.execLaunchSubmit who org task pdid r s
  | .durableReport unit n => Sys2Proof.Machine.execDurableReport unit n s
  | .prgResponse group resp => Sys2Proof.Machine.execPrgResponse group resp s
  | .hostWrite pdid addr data => Sys2Proof.Machine.execHostWrite pdid addr data s
  | .hostRead pdid addr len => Sys2Proof.Machine.execHostRead pdid addr len s
  | .attestationRequest fn nonce => Sys2Proof.Machine.execAttestationRequest fn nonce s
  | .fixedLatencyWrite => Sys2Proof.Machine.execFixedLatencyWrite s
  | .hsiftComplete => Sys2Proof.Machine.execHsiftComplete s
  | .vectorUnitFree => Sys2Proof.Machine.execVectorUnitFree s
  | .matrixStep => Sys2Proof.Machine.execMatrixStep s
  | .matrixOpFinish => Sys2Proof.Machine.execMatrixOpFinish s
  | .scaleReadComplete => Sys2Proof.Machine.execScaleReadComplete s
  | .tselFinish => Sys2Proof.Machine.execTselFinish s
  | .loadPathFinish => Sys2Proof.Machine.execLoadPathFinish s
  | .heldRequestTimeout => Sys2Proof.Machine.execHeldRequestTimeout s
  | .portStreamSend => Sys2Proof.Machine.execPortStreamSend s
  | .portStreamWrite => Sys2Proof.Machine.execPortStreamWrite s
  | .portStreamStop => Sys2Proof.Machine.execPortStreamStop s
  | .portEndpointClosed => Sys2Proof.Machine.execPortEndpointClosed s
  | .channelWatchdog => Sys2Proof.Machine.execChannelWatchdog s
  | .amsgHandlerStart => Sys2Proof.Machine.execAmsgHandlerStart s
  | .requestResendTimeout => Sys2Proof.Machine.execRequestResendTimeout s
  | .replyConfirm => Sys2Proof.Machine.execReplyConfirm s
  | .pageWalkComplete => Sys2Proof.Machine.execPageWalkComplete s
  | .wakeNotice => Sys2Proof.Machine.execWakeNotice s
  | .pageRequestGroup => Sys2Proof.Machine.execPageRequestGroup s
  | .faultRecordReoffer => Sys2Proof.Machine.execFaultRecordReoffer s
  | .copyGranule => Sys2Proof.Machine.execCopyGranule s
  | .departure => Sys2Proof.Machine.execDeparture s
  | .reservationWatchdog => Sys2Proof.Machine.execReservationWatchdog s
  | .threadPlacement => Sys2Proof.Machine.execThreadPlacement s
  | .forwardingExpiry => Sys2Proof.Machine.execForwardingExpiry s
  | .thermalDisplacement => Sys2Proof.Machine.execThermalDisplacement s
  | .thermslotUpdate => Sys2Proof.Machine.execThermslotUpdate s
  | .powerSample => Sys2Proof.Machine.execPowerSample s
  | .queueTimerTick => Sys2Proof.Machine.execQueueTimerTick s
  | .mwaitDeadline => Sys2Proof.Machine.execMwaitDeadline s
  | .combinerReread => Sys2Proof.Machine.execCombinerReread s
  | .snagScan => Sys2Proof.Machine.execSnagScan s
  | .slotWatchdog => Sys2Proof.Machine.execSlotWatchdog s
  | .heldTrapRecordRelease => Sys2Proof.Machine.execHeldTrapRecordRelease s
  | .undoOverflow => Sys2Proof.Machine.execUndoOverflow s
  | .workQueueTake => Sys2Proof.Machine.execWorkQueueTake s
  | .hostRingPoll => Sys2Proof.Machine.execHostRingPoll s
  | .dependenceDecrement => Sys2Proof.Machine.execDependenceDecrement s
  | .taskPlacement => Sys2Proof.Machine.execTaskPlacement s
  | .dispatchRequest => Sys2Proof.Machine.execDispatchRequest s
  | .stealRequest => Sys2Proof.Machine.execStealRequest s
  | .stealRetry => Sys2Proof.Machine.execStealRetry s
  | .childEnd => Sys2Proof.Machine.execChildEnd s
  | .taskFinish => Sys2Proof.Machine.execTaskFinish s
  | .taskDiscard => Sys2Proof.Machine.execTaskDiscard s
  | .cutRequest => Sys2Proof.Machine.execCutRequest s
  | .sealTimer => Sys2Proof.Machine.execSealTimer s
  | .cutMessage => Sys2Proof.Machine.execCutMessage s
  | .coreCut => Sys2Proof.Machine.execCoreCut s
  | .sealRecordAck => Sys2Proof.Machine.execSealRecordAck s
  | .sealMarker => Sys2Proof.Machine.execSealMarker s
  | .sealedMessage => Sys2Proof.Machine.execSealedMessage s
  | .uncorrectableError => Sys2Proof.Machine.execUncorrectableError s
  | .rollback => Sys2Proof.Machine.execRollback s
  | .linkFailure => Sys2Proof.Machine.execLinkFailure s
  | .portTraining => Sys2Proof.Machine.execPortTraining s
  | .save => Sys2Proof.Machine.execSave s
  | .restore => Sys2Proof.Machine.execRestore s
  | .resume => Sys2Proof.Machine.execResume s
  | .endThread => Sys2Proof.Machine.execEndThread s
  | .segsync => Sys2Proof.Machine.execSegsync s
  | .tlbsync => Sys2Proof.Machine.execTlbsync s
  | .remove => Sys2Proof.Machine.execRemove s
  | .domsync => Sys2Proof.Machine.execDomsync s
  | .prienable => Sys2Proof.Machine.execPrienable s
  | .wqcfgWrite => Sys2Proof.Machine.execWqcfgWrite s
  | .cassignWrite => Sys2Proof.Machine.execCassignWrite s
  | .sealctlWrite => Sys2Proof.Machine.execSealctlWrite s
  | .undocfgWrite => Sys2Proof.Machine.execUndocfgWrite s
  | .registerWrite => Sys2Proof.Machine.execRegisterWrite s
  | .deviceReset => Sys2Proof.Machine.execDeviceReset s
  | .healthUpdate => Sys2Proof.Machine.execHealthUpdate s
  | .illegalEncodingIssue => Sys2Proof.Machine.execIllegalEncodingIssue s
  | .codeMissFetch => Sys2Proof.Machine.execCodeMissFetch s
  | .placementTableWrite => Sys2Proof.Machine.execPlacementTableWrite s
  | .portCoreCodePlacement => Sys2Proof.Machine.execPortCoreCodePlacement s
  | .tilePayloadComplete => Sys2Proof.Machine.execTilePayloadComplete s
  | .hbmRefresh => Sys2Proof.Machine.execHbmRefresh s

end Sys2Proof.Machine
end

