-- ==== Sys2Proof/Machine/Issue.lean ====
section
/-! DEFINITION. The issue of a bundle: fetch, what the four stages find for both words (R43–R46), the states of the slots
(R94), repetition under `srep` (R155), the choice of a slot (R96–R98, R247) and the issue itself (R103). -/

namespace Sys2Proof.Machine

/-- The issue context outside the issue of a bundle. -/
def Ctx.idle : Ctx := ⟨0, 0, .alone, [], Thread.reset, Core.reset.queues, ⟨0, 0, false, false⟩, Finding.none⟩

/-- What a slot's next bundle is found to be before anything of it acts: no code there (R295), past the end of a travelling
segment (R295), a trap that hides the words, or both words with what the stages decide (R45). -/
inductive Look where
  | miss
  | beyond
  | bad (aWord : Bool) (t : TrapInfo)
  | words (c : Instr) (a : Option Instr) (fc fa : Finding) (v : Verdict)
  deriving DecidableEq, Repr

/-- What a probe of one word finds. -/
def probeWord (i : Instr) (s : State) : Finding :=
  match exec i s with
  | .next s' => s'.ctx.found
  | _ => Finding.none

/-- The C-word's LONE bit (R25). -/
def loneBit (b : Word) : Bool := b.getLsbD 31
/-- STALL of a bundle (R24). -/
def stallOf (b : Word) : Nat := wbits b 28 3
/-- May a bundle be repeated: a C-word `nop` and an A-word of major 0x10–0x2E (R155)? -/
def repeatable (c : Instr) (b : Word) : Bool :=
  (match c with | .nopC _ => true | _ => false) && !loneBit b && 0x10 ≤ wbits b 54 6 && wbits b 54 6 ≤ 0x2E
/-- The instruction of the A-word, none when it is a literal (R25). -/
def aWordOf (b : Word) : Except DErr (Option Instr) :=
  if loneBit b then .ok none
  else match decodeA ((b >>> 32).setWidth 32) with
    | .ok i => .ok (some i)
    | .error e => .error e

/-- Both words of a bundle that decodes, and what the stages decide. -/
def State.lookWords (s : State) (rep : Option Nat) (b : Word) (c : Instr) (a : Option Instr) (fc : Finding) : Look :=
  let s := s.afterPops fc.pops
  let fa := match a with
    | some i => probeWord i s
    | none => Finding.none
  let v := s.verdict ((false, fc) :: (if a.isSome then [(true, fa)] else []))
  if rep.isSome && !repeatable c b && fc.kindTrap.isNone && fa.kindTrap.isNone then
    .bad (match c with | .nopC _ => !loneBit b | _ => false) ⟨1, 7, 0, 0⟩
  else .words c a fc fa v
/-- What a probe of the A-word finds before the C-word's pops are known: the stream granules it takes before the C-word. -/
def State.beside (s : State) (b : Word) : Finding :=
  match aWordOf b with
  | .ok (some i) => probeWord i s
  | _ => Finding.none
/-- The bits of a bundle, decoded: the C-word is checked fully before the A-word (R43). -/
def State.lookBundle (s : State) (c sl : Nat) (t : Thread) (b : Word) : Look :=
  let s := { s with ctx := ⟨c, sl, .probe, [], t, (s.coreAt c).queues, ⟨t.pc, b, false, t.srep.isSome⟩, Finding.none⟩ }
  match decodeC (b.setWidth 32) ((b >>> 32).setWidth 32) with
  | .error e => .bad false ⟨e.cause, e.sub, 0, 0⟩
  | .ok ci =>
    let fc := probeWord ci (s.found (s.beside b))
    match fc.kindTrap, aWordOf b with
    | none, .error e => .bad true ⟨e.cause, e.sub, 0, 0⟩
    | none, .ok a => s.lookWords t.srep b ci a fc
    | some k, _ => .bad false k
/-- The next bundle of the thread in a slot (R295). -/
def State.look (s : State) (c sl : Nat) (t : Thread) : Look :=
  match (s.coreAt c).codeEntry t.task t.fetchSeg with
  | none => .miss
  | some e =>
    if t.kind == 2 && t.pc.toNat % 65536 ≥ e.len then .beyond
    else s.lookBundle c sl t (s.bundleOf c e t.pc)

/-! The states of a slot (R94). -/

/-- Does a slot's next bundle wait for something other than itself: a page fault's wake, an answer to its departure, what
an earlier bundle holds it for (R94, R255, R289)? -/
def Core.heldUp (k : Core) (t : Thread) : Bool := !t.faulted.isEmpty || t.depart.isSome || !k.holdOver t
/-- Is the slot one whose next bundle is tested in this cycle: its thread runs, and its earliest issue cycle has come? -/
def State.tested (s : State) (c sl : Nat) (t : Thread) : Bool :=
  t.run == .running && t.earliest ≤ s.cycle && s.saving != some (c, sl) && !(s.coreAt c).heldUp t
/-- Does a disabled slot take part in issue in this cycle (R247)? -/
def Core.enabled (k : Core) (now sl : Nat) : Bool := !k.slotOff sl || now % 64 == 4 * sl
/-- A bundle whose SREPN is 0 is passed over without an issue (R155). -/
def Thread.passed (t : Thread) : Thread := if t.srep == some 0 then { t with srep := none, pc := t.after t.pc } else t
/-- The slot's next bundle is passed over if its SREPN is 0. -/
def State.passOver (s : State) (c sl : Nat) : State := s.modThread c sl Thread.passed

/-- One word of a parked bundle does what it does each time it parks, if it is one that parks at stage 4. -/
def parkWord (i : Instr) (f : Finding) (s : State) : State :=
  if f.park4.isNone then s
  else match exec i s with
    | .next s' => s'
    | _ => s
/-- The bundle of a slot parks (R94). -/
def State.parkBundle (s : State) (c sl : Nat) (t : Thread) (b : Word) (ci : Instr) (ai : Option Instr) (fc fa : Finding)
    (p : Park) (stage4 : Bool) : State :=
  if !stage4 then s.park c sl p
  else
    let s' := { s with ctx := ⟨c, sl, .parking, [], t, (s.coreAt c).queues, ⟨t.pc, b, false, t.srep.isSome⟩, fa⟩ }
    let s' := parkWord ci fc s'
    let s' := match ai with
      | some i => parkWord i fa (s'.afterPops fc.pops)
      | none => s'
    let s' := { s' with ctx := Ctx.idle }
    if ((s'.threadAt c sl).bind (·.depart)).isSome then s' else s'.park c sl p
/-- The bits of a thread's next bundle. -/
def State.nextBundle (s : State) (c : Nat) (t : Thread) : Word := s.bundleAt c t

/-- Does the slot's next bundle meet a park condition as a cycle begins (R94)? What clears it in that cycle makes the slot
ready in the one after. -/
def State.sleeps (s : State) (c sl : Nat) (t : Thread) : Bool :=
  t.run == .running && ((s.coreAt c).heldUp t || match s.look c sl t.passed with
    | .words _ _ _ _ (.park _ _) => true
    | _ => false)
/-- Notes which slots meet a park condition as the cycle begins. -/
def State.markAsleep (s : State) : State :=
  { s with cores := s.cores.map fun x =>
      (x.1, { x.2 with threads := x.2.threads.map fun e => (e.1, { e.2 with asleep := s.sleeps x.1 e.1 e.2 }) }) }

/-- A slot is tested (R94): a park is entered, or found to have ended. The answer is the bundle, if the slot is ready; one
whose park ended in this very cycle is not. -/
def State.testSlot (s : State) (c sl : Nat) : State × Option Look :=
  match s.threadAt c sl with
  | none => (s, none)
  | some t =>
    if !s.tested c sl t then (s, none)
    else
      let s := if t.hold.isSome then s.modThread c sl fun t => { t with hold := none } else s
      let s := s.passOver c sl
      match s.threadAt c sl with
      | none => (s, none)
      | some t =>
        match s.look c sl t with
        | .words ci ai fc fa (.park p st4) => (s.parkBundle c sl t (s.nextBundle c t) ci ai fc fa p st4, none)
        | .words _ _ _ _ .wait => (s, none)
        | l =>
          if t.asleep then (s, none)
          else (if t.parked then s.modThread c sl fun t => { t with parked := false } else s, some l)
/-- Tests slots in order. -/
def State.testSlots (s : State) (c : Nat) : List Nat → State × List (Nat × Look)
  | [] => (s, [])
  | sl :: r =>
    let x := s.testSlot c sl
    let y := x.1.testSlots c r
    match x.2 with
    | some l => (y.1, (sl, l) :: y.2)
    | none => y

/-! The choice (R96–R98). -/

/-- The residence stamp of a slot (R95). -/
def Core.stampOf (k : Core) (sl : Nat) : Nat := ((tget k.threads sl).map (·.stamp)).getD 0
/-- Is one slot older than another (R95)? -/
def Core.older (k : Core) (a b : Nat) : Bool := k.stampOf a < k.stampOf b || (k.stampOf a == k.stampOf b && a < b)
/-- The oldest of some slots. -/
def Core.oldest (k : Core) : List Nat → Option Nat
  | [] => none
  | a :: r =>
    match k.oldest r with
    | none => some a
    | some b => if k.older a b then some a else some b
/-- A slot's wait count (R98). -/
def Core.waitOf (k : Core) (sl : Nat) : Nat := vget 0 k.waits sl
/-- Does `a` come before `b` in W (R98)? -/
def Core.waitsMore (k : Core) (a b : Nat) : Bool :=
  k.waitOf a > k.waitOf b || (k.waitOf a == k.waitOf b && k.older a b)
/-- Inserts a slot into W. -/
def Core.insertW (k : Core) (a : Nat) : List Nat → List Nat
  | [] => [a]
  | b :: r => if k.waitsMore a b then a :: b :: r else b :: k.insertW a r
/-- W: the ready slots other than G, longest wait first, ties oldest first (R98). -/
def Core.waiting (k : Core) (ready : List Nat) : List Nat :=
  (ready.filter fun a => k.greedy != some a).foldl (fun w a => k.insertW a w) []
/-- guard_ok (R98): w(W[i]) + i ≤ 15 for every i, counted from `i`. -/
def Core.guardOk (k : Core) : Nat → List Nat → Bool
  | _, [] => true
  | i, a :: r => k.waitOf a + i ≤ 15 && k.guardOk (i + 1) r
/-- The greedy-then-oldest choice (R98). -/
def Core.chooseGreedy (k : Core) (ready : List Nat) : Option Nat :=
  let w := k.waiting ready
  let ok := k.guardOk 1 w
  let fresh := ready.filter fun a => !k.yielded.getLsbD a
  match k.greedy.filter fun g => ready.contains g && !k.yielded.getLsbD g && ok with
  | some g => some g
  | none =>
    if ok then (k.oldest fresh).orElse fun _ => k.oldest ready
    else w.head?
/-- The round-robin choice (R97). -/
def Core.chooseRound (k : Core) (ready : List Nat) : Option Nat :=
  ((List.range 16).map fun i => (k.last + 1 + i) % 16).find? ready.contains
/-- The slot that issues among the ready ones (R96). -/
def Core.choose (k : Core) (ready : List Nat) : Option Nat :=
  if k.issuepol.getLsbD 0 then k.chooseRound ready else k.chooseGreedy ready
/-- What the core keeps of a choice (R97, R98). Under round-robin the greedy slot stays, and the wait counts and the marks of
`yield` go on as under greedy-then-oldest (DESIGN CHOICE, log 79: the rules give them for that policy). -/
def Core.chosen (k : Core) (ready : List Nat) (x : Option Nat) : Core :=
  { k with
    waits := Vector.ofFn fun (i : Fin 16) => if ready.contains i.val && x != some i.val then k.waitOf i.val + 1 else 0
    yielded := 0
    last := x.getD k.last
    greedy := if k.issuepol.getLsbD 0 || x.isNone then k.greedy else x }

/-! The issue. -/

/-- A bundle that traps at issue: no effect, its repetition is over (R5, R155). The slot may issue again in the next cycle:
the bundle has not issued, so its STALL does not count (DESIGN CHOICE, log 80; R103). -/
def State.trapBundle (s : State) (c sl : Nat) (t : Thread) (aWord : Bool) (i : TrapInfo) : State :=
  let s := s.modThread c sl fun t => { t with parked := false, earliest := s.cycle + 1 }
  s.takeTrap ⟨c, sl, t.tid⟩ false ⟨t.pc, s.nextBundle c t, aWord, t.srep.isSome⟩ i
/-- A word acts beside a trap of its own (R209). -/
def trapWord (i : Option Instr) (s : State) : State :=
  match i with
  | none => s
  | some i => match exec i s with
    | .next s' => s'
    | _ => s
/-- Ends a repetition: PC stays while repetitions are left (R155). -/
def State.countRep (s : State) (c sl : Nat) (t : Thread) : State :=
  match t.srep with
  | none => s
  | some n => s.modThread c sl fun x =>
      if n ≤ 1 then { x with srep := none } else { x with srep := some (n - 1), pc := t.pc }
/-- Does the C-word change what only later bundles see: a queue's configuration, or a control register (R60, R233)? -/
def actsLast (ci : Instr) : Bool :=
  match ci with
  | .qcfg _ _ _ => true
  | .cwr _ _ _ => true
  | _ => false
/-- One word, with the pops that its fields come after, and then another. -/
def execBoth (i j : Instr × List Nat) (s : State) : Out :=
  match exec i.1 (s.afterPops i.2) with
  | .next s' => exec j.1 (s'.afterPops j.2)
  | o => o
/-- Both words act (R45, R46), the C-word first, unless what it changes is for later bundles only; either way the A-word's
pops come after the C-word's (R28). -/
def commitWords (ci : Instr) (ai : Option Instr) (pops : List Nat) (s : State) : Out :=
  match ai with
  | none => exec ci s
  | some i => if actsLast ci then execBoth (i, pops) (ci, []) s else execBoth (ci, []) (i, pops) s
/-- A ready bundle issues (R103); both words read the queues as they stand now. -/
def State.issueWords (s : State) (c sl : Nat) (t : Thread) (b : Word) (ci : Instr) (ai : Option Instr) (pops : List Nat)
    (fa : Finding) : Out :=
  let s := { s with ctx := ⟨c, sl, .commit, [], t, (s.coreAt c).queues, ⟨t.pc, b, false, t.srep.isSome⟩, fa⟩ }
  match commitWords ci ai pops (s.advance (stallOf b)) with
  | .next s' => .next ({ s' with ctx := Ctx.idle }.countRep c sl t |>.finishDone c sl)
  | o => o
/-- The chosen slot's cycle: its bundle issues, or its trap is taken (R94). -/
def State.issueLook (s : State) (c sl : Nat) (t : Thread) (l : Look) : Out :=
  match l with
  | .miss => exec .codeMissFetch { s with subj := { core := c, slot := sl } }
  | .beyond => .next (s.trapBundle c sl t false (trapAt 0x17 3 (pcWord t.pc)))
  | .bad aWord i =>
    if t.srep.isSome then .next (s.trapBundle c sl t aWord i)
    else match exec .illegalEncodingIssue
        { s.modThread c sl fun t => { t with earliest := s.cycle + 1 } with
          ctx := ⟨c, sl, .alone, [], t, (s.coreAt c).queues, ⟨t.pc, s.nextBundle c t, aWord, t.srep.isSome⟩, Finding.none⟩
          subj := { core := c, slot := sl, n := i.cause, m := i.sub, b := aWord } } with
    | .next s' => .next { s' with ctx := Ctx.idle }
    | o => o
  | .words ci ai _ _ (.trap aWord i own) =>
    let s' := { s with ctx := ⟨c, sl, .trapping, [], t, (s.coreAt c).queues, ⟨t.pc, s.nextBundle c t, aWord, t.srep.isSome⟩, Finding.none⟩ }
    let s' := if own then trapWord (if aWord then ai else some ci) s' else s'
    .next ({ s' with ctx := Ctx.idle }.trapBundle c sl t aWord i)
  | .words ci ai fc fa _ => s.issueWords c sl t (s.nextBundle c t) ci ai fc.pops fa
/-- Slots whose light or travelling threads are displaced (R247). -/
def State.displace (s : State) (c : Nat) (slots : List Nat) : State :=
  slots.foldl (fun s sl => s.after 0 .thermalDisplacement { core := c, slot := sl }) s
/-- Is a message a replayed log entry (R348 step 5)? -/
def NetMsg.replay (m : NetMsg) : Bool := 0x20000 ≤ m.src && m.src < noNode
/-- Are log entries still to be replayed after a rollback? -/
def State.replaying (s : State) : Bool := s.net.any (·.replay)
/-- A core's cycle: its slots are tested, one of the ready ones issues (R94, R96–R98). Issue resumes after a rollback once
the log entries are replayed (R348 step 8). -/
def State.issueCore (s : State) (c : Nat) : Out :=
  if (s.coreAt c).paused || s.replaying then .next s
  else
    let x := s.testSlots c ((s.coreAt c).threads.map (·.1))
    let s := x.1
    let k := s.coreAt c
    let ready := x.2.map (·.1)
    let open_ := ready.filter fun sl => k.enabled s.cycle sl && !s.displaced c sl
    let pick := k.choose open_
    let s := (s.setCore c (k.chosen open_ pick)).displace c (ready.filter (s.displaced c))
    match pick with
    | none => .next s
    | some sl =>
      match s.threadAt c sl, (x.2.find? (·.1 == sl)).map (·.2) with
      | some t, some l => s.issueLook c sl t l
      | _, _ => .next s

end Sys2Proof.Machine
end

