-- ==== Sys2Proof/Machine/Clock.lean ====
section
/-! DEFINITION. The clock and the paths: what every cycle starts (placement, departures, watchdogs, timers, requests for
work, steals, task ends), which message in flight may arrive next, and its arrival. -/

namespace Sys2Proof.Machine

/-! What a cycle starts. -/

/-- A step about a slot. -/
def slotStep (i : Instr) (c sl : Nat) : Ev := ⟨i, { core := c, slot := sl }⟩
/-- Has a count of parked cycles passed a period of `n` units of 1,024 cycles (R371)? A period of 0 never passes. -/
def overdue (now since n : Nat) : Bool := n != 0 && since + n * 1024 < now
/-- The watchdog that fires for a slot, the lowest subcode first (R371); a slot that a command has stopped is not
counted. -/
def State.watchdog (s : State) (c sl : Nat) (t : Thread) : Option Ev :=
  let d := s.domAt t.pdid
  let b := vget 0 (s.coreAt c).bstates sl
  let kind := wbits b 60 4
  let late := overdue s.cycle t.parkSince d.chwdog
  if !t.parked || t.run != .running || b == 0 || s.saving == some (c, sl) then none
  else if 3 ≤ kind && kind ≤ 5 && ((s.coreAt c).ey (wbits b 0 16)).life == .opened && late then
    some (slotStep .channelWatchdog c sl)
  else if (t.depart.map (·.resv)).getD false && late then some (slotStep .reservationWatchdog c sl)
  else if overdue s.cycle t.parkSince d.thwdog then some (slotStep .slotWatchdog c sl)
  else none
/-- The steps a slot's thread starts in a cycle: leaving once everything it did has drained (R289), and its watchdog. -/
def State.slotSteps (s : State) (c sl : Nat) (t : Thread) : List Ev :=
  (if (t.depart.map fun d => !d.sent).getD false && s.mayLeave c sl t && !(s.coreAt c).paused then
    [slotStep .departure c sl] else []) ++
  (s.watchdog c sl t).toList
/-- Queues bound to a timer whose count runs out (R232). -/
def Core.timers (k : Core) (now : Nat) : List Nat :=
  (List.range 16).filter fun i =>
    let q := k.queue i
    q.valid && q.eng == 1 && now % wbits q.cfg 32 32 == 0
/-- The steps a core starts in a cycle (R232, R268, R315, R316, R339, R353). -/
def State.coreSteps (s : State) (c : Nat) (k : Core) : List Ev :=
  k.threads.flatMap (fun x => s.slotSteps c x.1 x.2) ++
  (if k.hasWork then k.freeSlots.map fun sl => slotStep .threadPlacement c sl else []) ++
  (if k.amen && !k.amq.isEmpty && (tget k.threads 15).isNone then [⟨.amsgHandlerStart, { core := c }⟩] else []) ++
  ((k.timers s.cycle).map fun i => ⟨.queueTimerTick, { core := c, n := i }⟩) ++
  (if k.cassignNext.isSome && k.vacant then [⟨.cassignWrite, { core := c, b := true }⟩] else []) ++
  (if k.undoBytes + 80 > 131072 then [⟨.undoOverflow, { core := c }⟩] else [])
/-- Does a core ask the dispatcher for an index (R312)? -/
def Core.asks (k : Core) : Bool := k.v && !k.out && !k.fifoAsked && k.fifo.length < 2
/-- A core's requests for work in a cycle. -/
def State.askWork (s : State) (c : Nat) : State :=
  let k := s.coreAt c
  let s :=
    if k.asks then (s.modCore c fun k => { k with fifoAsked := true }).send c launchNode .dispatchRequest { core := c } else s
  if k.wantsWork && !k.stealWait then (s.modCore c fun k => { k with stealWait := true }).askVictim c 0 else s
/-- The steps of the launch unit in a cycle: requests it can serve (R312), tasks that finish (R318) or wait too long
(R320). -/
def State.launchSteps (s : State) : List Ev :=
  ((s.requests.find? fun c => (s.bestTask c).isSome).toList.map fun c => ⟨.dispatchRequest, { core := c }⟩) ++
  (s.tasks.flatMap fun x =>
    if x.2.placed && x.2.live == 0 && x.2.next ≥ x.2.group then [⟨.taskFinish, { n := x.1 }⟩]
    else if s.discardDue x.1 x.2 then [⟨.taskDiscard, { n := x.1 }⟩] else [])
/-- Can held records of a domain be written now (R357)? -/
def State.canRelease (s : State) (pdid : Nat) : Bool :=
  match s.oldestHeld pdid with
  | none => false
  | some (_, b, k) => (s.tryPost pdid (granules k b)).isSome
/-- Domains whose held records can be written. -/
def State.trapSteps (s : State) : List Ev :=
  (s.cores.filter fun x => !(s.readyTraps x.1).isEmpty).map (fun x => ⟨.heldTrapRecordRelease, { core := x.1, b := true }⟩) ++
  if s.cores.all fun x => x.2.heldTraps.isEmpty then []
  else (s.domains.filter fun x => s.canRelease x.1).map fun x => ⟨.heldTrapRecordRelease, { n := x.1 }⟩
/-- A packet of a later interval than the device's has arrived: its units are told to cut (R334, R336). -/
def State.cutSteps (s : State) : List Ev :=
  if s.net.any fun m => m.dst < 8192 && serialLt s.cutNo m.rin then [⟨.cutMessage, { n := (s.cutNo + 1).toNat }⟩] else []
/-- A new cycle begins: what still waits at the banks of the old one has its turn (R121), then the new one's steps are put
before the cores, which then issue in turn. -/
def State.tick (s : State) : State :=
  let s := s.cores.foldl (fun (s : State) (x : Nat × Core) => (s.netRound x.1).copyRound x.1) s
  let s := State.markAsleep { s with cycle := s.cycle + 1 }
  let s := s.cores.foldl (fun (s : State) (x : Nat × Core) => (s.bankRound x.1).dequeTurn x.1) s
  let evs := s.cores.flatMap (fun x => s.coreSteps x.1 x.2) ++ s.launchSteps ++ s.trapSteps ++ s.cutSteps
  let s := s.cores.foldl (fun (s : State) (x : Nat × Core) => (s.combineSend x.1).askWork x.1) s
  let s := evs.foldl (fun (s : State) e => s.at s.cycle e) s
  { s with todo := (s.cores.filter fun x => !x.2.threads.isEmpty).map (·.1) }

/-! The order within a cycle: results due in it are written first (R102, R107, R121), with the placements of threads (R315)
and the watchdogs of slots parked as it began (R371); then the cores issue; then the other steps of the cycle happen. What
is pending until a cycle ends finishes in that cycle after the cores have issued, so that a bundle waiting for it issues in
the next (R153, R176, R184, R188). -/

/-- Is a step the completion of a result, a placement or a watchdog? -/
def completes (i : Instr) : Bool :=
  match i with
  | .threadPlacement => true
  | .fixedLatencyWrite => true
  | .divideComplete _ => true
  | .trackedRegisterWrite _ => true
  | .localLoadWriteback _ => true
  | .segldComplete _ _ _ _ _ _ => true
  | .elaceComplete _ _ _ _ _ => true
  | .vectorUnitFree => true
  | .mwaitDeadline => true
  | .slotWatchdog => true
  | .channelWatchdog => true
  | .reservationWatchdog => true
  | _ => false
/-- Is an entry of the agenda a completion due now? -/
def dueWrite (now : Nat) (x : Nat × Ev) : Bool := x.1 ≤ now && completes x.2.ins
/-- Is an entry of the agenda due? -/
def isDue (now : Nat) (x : Nat × Ev) : Bool := x.1 ≤ now
/-- The first entry of the agenda with a property, and the state without it. -/
def State.pull (s : State) (f : Nat × Ev → Bool) : Option (Ev × State) :=
  (s.agenda.find? f).map fun x => (x.2, { s with agenda := s.agenda.eraseP f, subj := x.2.subj })
/-- The step of the agenda that comes next: a completion, or, once every core has issued, the first that is due. -/
def State.nextDue (s : State) : Option (Ev × State) :=
  match s.pull (dueWrite s.cycle) with
  | some x => some x
  | none => if s.todo.isEmpty then s.pull (isDue s.cycle) else none

/-! The paths (R18, R19, R259, R336). -/

/-- The sources of a message among those that share a path (R18): a thread, a copy, an eyelet, or the path itself. What a
thread sends through an eyelet has both for its source. -/
def sourcesOf (e : Ev) : List (Nat × Nat) :=
  let thread (n : Nat) : List (Nat × Nat) := [(1, n)]
  let request (r : Req) : List (Nat × Nat) :=
    match r.kind with
    | .copyRead => [(2, r.copyId)]
    | .copyWrite => [(2, r.copyId)]
    | _ => thread r.who.tid
  let eye (l : EyLoc) : List (Nat × Nat) := [(3, l.ey)]
  let sent (l : EyLoc) (tid : Nat) : List (Nat × Nat) := if l.port then eye l else (1, tid) :: eye l
  match e.ins with
  | .globalRead r => request r
  | .globalWrite r => request r
  | .atomicAtHome r => request r
  | .flushReadAtHome r => request r
  | .acknowledgementArrival r _ => request r
  | .countedAckArrival r => request r
  | .lateReplyForward _ r _ => request r
  | .amsgArrival m => thread m.who.tid
  | .amsgReply m _ => thread m.who.tid
  | .remoteCommandArrival r => thread r.who.tid
  | .remoteCommandReply r _ => thread r.who.tid
  | .packetArrival _ p => thread p.tid
  | .arrivalReport p _ _ => thread p.tid
  | .reservationGrant p _ => thread p.tid
  | .commitRequest w _ => thread w.tid
  | .growRequest w _ _ _ _ => thread w.tid
  | .launchSubmit w _ _ _ _ => thread w.tid
  | .trackedRegisterWrite w => thread w.who.tid
  | .connectRequestArrival r => sent r.src r.holder.tid
  | .portEndpointConnect r => sent r.src r.holder.tid
  | .connectOutcome r _ => eye r.dst
  | .channelMessageArrival l _ _ m => sent l m.tid
  | .allowanceReturn l _ _ => eye l
  | .closeNoticeArrival _ n => sent n.src n.tid
  | .closeAcknowledge l _ _ => eye l
  | .moveNotice l _ _ => eye l
  | .markArrival l _ _ => eye l
  | .rehome _ l _ _ => eye l
  | _ => [(0, 0)]
/-- The home a message is for: an active message for an HBM address is for its port, though its core's queue takes it
(R259, R267). -/
def NetMsg.home (m : NetMsg) : Nat :=
  match m.ev.ins with
  | .amsgArrival a => if spaceOf a.addr == 1 || m.dst ≥ 4096 then m.dst else portNode (portOf (vaOf a.addr))
  | _ => m.dst
/-- Does a message come before another of the same source, on the same path or to the same home? The log entries of one home
are replayed in the order of their arrival numbers (R348). -/
def NetMsg.precedes (a b : NetMsg) : Bool :=
  a.src == b.src && (a.replay || (a.dst == b.dst || a.home == b.home) && (sourcesOf a.ev).any (sourcesOf b.ev).contains)
/-- Has an eyelet a read of its ring still to be performed? -/
def State.ringBusy (s : State) (l : EyLoc) : Bool :=
  !l.port && s.agenda.any fun (x : Nat × Ev) =>
    match x.2.ins with
    | .localAccessPerformed c a => c == l.core && (match a.op with
      | .ringRead ey _ _ _ => ey == l.ey
      | .loadPath op _ _ => (s.coreAt c).lops.any fun o => o.id == op && o.kind == .payloadIn && o.name == l.ey
      | _ => false)
    | _ => false
/-- Must a message wait for what its ring still has to give: the unit of allowance went back before the read (R201), and the
read takes the bytes of its own message (R210; DEDUCED, log 75)? -/
def State.ringHolds (s : State) (m : NetMsg) : Bool :=
  match m.ev.ins with
  | .channelMessageArrival _ d _ _ => s.ringBusy d
  | _ => false
/-- May a message arrive: its destination is a node of this device, nothing of its source is ahead of it (R19), its interval
is not newer than its destination's (R336), and its ring slot has been read? -/
def State.mayArrive (s : State) (ahead : List NetMsg) (m : NetMsg) : Bool :=
  m.dst < 8192 && serialLe m.rin (s.rinOf m.dst) && !s.ringHolds m && !ahead.any (·.precedes m)
/-- The places of the messages that may arrive, from place `i` on. -/
def State.arrivable (s : State) : Nat → List NetMsg → List NetMsg → List Nat
  | _, _, [] => []
  | i, ahead, m :: r =>
    if s.mayArrive ahead m then i :: s.arrivable (i + 1) (ahead ++ [m]) r else s.arrivable (i + 1) (ahead ++ [m]) r
/-- Is an arrival logged: it was sent in an interval before its destination's, and a seal record keeps its destination
(R336)? -/
def State.logged (s : State) (m : NetMsg) : Bool := m.dst < sealNode && serialLt m.rin (s.rinOf m.dst)
/-- A message arrives. -/
def State.deliverAt (s : State) (i : Nat) : Out :=
  match s.net[i]? with
  | none => .next s
  | some m =>
    let s := { s with net := s.net.eraseIdx i }
    let s := if s.logged m then s.logArrival m.dst m.ev else s
    exec m.ev.ins { s with subj := m.ev.subj }
/-- The places of the replayed messages among `l`. -/
def State.replays (s : State) (l : List Nat) : List Nat := l.filter fun i => (s.net[i]?).any (·.replay)
/-- The end of a cycle: one of the messages that may arrive does, or time goes on; the spec puts no time on a path, so
which is a free value (DESIGN CHOICE, log 3). After a rollback the log entries are replayed before anything else arrives
(R348 step 5). -/
def State.onward (s : State) : Out :=
  let l := s.arrivable 0 [] s.net
  match s.replays l with
  | i :: _ => s.deliverAt i
  | [] =>
    let d := s.draw (l.length + 1)
    match d.2 with
    | 0 => .next d.1.tick
    | n + 1 => d.1.deliverAt (l.getD n 0)

end Sys2Proof.Machine
end

