-- ==== Sys2Proof/Machine/Step.lean ====
section
/-! DEFINITION. One step of the device: a step that is due, the next core's issue, the arrival of a message, or the next
cycle; and the state in which a given word is the next to be fetched. -/

namespace Sys2Proof.Machine

/-- Is the device up: booted, and not halted by a failed rollback (R348, R390)? -/
def State.up (s : State) : Bool := s.bootstat == 1 && !s.halted

/-- One step. A device that is down takes no step but its reset and what it answers (R390). -/
def step (s : State) : Host.Outcome State Fault Refusal :=
  match s.nextDue with
  | some (e, s') => if s.up || s.answers e.ins then exec e.ins s' else .fault .deviceDown
  | none =>
    if !s.up then .fault .deviceDown
    else
      match s.todo with
      | c :: r => { s with todo := r }.issueCore c
      | [] => s.onward

/-- The bundle of a word given as the opcode table numbers it (DESIGN CHOICE, log 2): a C-word beside an A-word `nop` or its
literal, or an A-word beside a C-word `nop`. -/
def tableBundle (nbits w : Nat) : Word :=
  let v := w % 2 ^ nbits
  let lo : BitVec 32 := BitVec.ofNat 32 v
  let c := decodeC lo (BitVec.ofNat 32 (v / 2 ^ 32))
  let isC := c.toOption.isSome && decodeTableWord nbits w == c.toOption
  let hi : Nat := if lo.getLsbD 31 || v / 2 ^ 32 != 0 then v / 2 ^ 32 else 0x70000000
  if isC then wd (lo.toNat + hi % 2 ^ 32 * 2 ^ 32) else wd (0x07000000 + lo.toNat * 2 ^ 32)

/-- The thread that fetches it: an anchored thread of core 0, slot 0, at PC 0. -/
def fetchThread : Thread := { Thread.reset with task := 1 }

/-- The state with an instruction where the next step fetches it (DESIGN CHOICE, log 37): loaded by a launch into core 0, its
thread ready in slot 0, and nothing else due before it. -/
def State.withFetchWord (s : State) (nbits w : Nat) : State :=
  { s with
    bootstat := 1
    halted := false
    agenda := s.agenda.filter fun x => s.cycle < x.1
    todo := [0]
    saving := none
    istore := mwrite s.istore (istoreKey 0 0) (toLE 8 (tableBundle nbits w).toNat)
    cores := tset s.cores 0 { s.coreAt 0 with
      v := true
      threads := [(0, fetchThread)]
      codeDir := [⟨1, 0, 0, 8, 0, false⟩]
      thermslot := 0
      paused := false } }

end Sys2Proof.Machine
end

