-- ==== Sys2Proof/Safety.lean ====
section
/-! DEFINITION. What a safe run is, and the terms claims are stated in: the canonical form of every store, a word whose
checks have passed, what an instruction leaves alone, and the families of instructions of one shape. -/

namespace Sys2Proof.Machine

/-! Runs. -/

/-- The memories of the device (scratchpads and HBM with their tags, host memory, instruction stores) are in canonical form. -/
structure State.Canonical (s : State) : Prop where
  spad : Memory.wf s.spad = true
  spadTag : Memory.wf s.spadTag = true
  hbm : Memory.wf s.hbm = true
  hbmTag : Memory.wf s.hbmTag = true
  host : Memory.wf s.host = true
  istore : Memory.wf s.istore = true

/-- `n` steps, every one of them answering a next state. -/
def State.SafeFor : Nat → State → Prop
  | 0, _ => True
  | n + 1, s => ∃ t, step s = .next t ∧ t.SafeFor n

/-! A word of a bundle. -/

/-- A word of a bundle that issues: the checks of R45 have passed for both words, its thread is there, and its guard holds
in the registers as they were at issue (R23, R46). -/
structure State.Issues (s : State) (neg : Bool) (grd : BitVec 3) : Prop where
  mode : s.ctx.mode = .commit
  here : s.cur.isSome = true
  guard : s.ctx.pre.guard neg grd = true

/-- The queues that 5-bit source fields pop (R27, R80). -/
def popsOf (src : List (BitVec 5)) : List Nat := (src.filter (16 ≤ ·.toNat)).map fun r => r.toNat - 16

/-- The whole effect of a word that computes one scalar result: it is due after its latency, and the entries its sources
read are removed. -/
def State.gives (s : State) (aWord : Bool) (src : List (BitVec 5)) (d : BitVec 5) (lat : Nat) (v : Word)
    (flags : BitVec 5 := 0) : Out :=
  .next (((s.onWord aWord).result d lat v flags).popAll (popsOf src))

/-- The whole effect of a word that computes a predicate and its complement. -/
def State.givesPP (s : State) (src : List (BitVec 5)) (pt pf : BitVec 3) (c : Bool) (flags : BitVec 5 := 0) : Out :=
  .next ((((s.onWord true).resultP pt 1 c flags).resultP pf 1 (!c)).popAll (popsOf src))

/-- A word that gives the vector unit's destination group a result lane by lane (R102, R147, R150): it takes its operands,
writes exactly the lanes that `f` gives a value, and raises the flags of those lanes. -/
def State.lanesGive (s : State) (i : Instr) (u : VecUse) (b n : Nat) (f : Nat → Option (Nat × BitVec 5))
    (src : List (BitVec 5) := []) : Prop :=
  ∃ val mask flags,
    exec i s = .next (((u.take (s.onWord true)).vresult u val mask flags).popAll (popsOf src)) ∧
    (∀ k, k < n → match f k with
      | some y => lane val b k = y.1 % 2 ^ b ∧ lane mask b k = 2 ^ b - 1 ∧ flags ||| y.2 = flags
      | none => lane mask b k = 0) ∧
    ∀ j, flags.getLsbD j = true → ∃ k y, k < n ∧ f k = some y ∧ y.2.getLsbD j = true

/-- Does no register of a group stand for a stream (R152)? -/
def State.unbound (s : State) (r n : Nat) : Prop := ∀ i, i < n → s.boundReg (r + i) = none

/-! Families. -/

/-- The scalar and predicate instructions with a fixed latency. -/
def scalarFixed : Instr → Bool
  | .nopA _ | .add _ _ | .sub _ _ | .mul _ _ | .mulh _ _ | .mulhn _ _ | .and _ _ | .or _ _ | .xor _ _ | .andn _ _
  | .shl _ _ | .shr _ _ | .sra _ _ | .rot _ _ | .clz _ _ | .ctz _ _ | .popc _ _ | .min _ _ | .max _ _ | .minn _ _
  | .maxn _ _ | .mov _ _ | .sext8 _ _ | .sext16 _ _ | .sext32 _ _ | .zext8 _ _ | .zext16 _ _ | .zext32 _ _
  | .lea _ _ _ | .sel _ _ _ | .addi _ _ _ _ | .movImm _ _ _ | .movK _ _ _ _ | .bfx _ _ | .bfi _ _
  | .cmp _ _ _ _ _ _ | .cmpi _ _ _ _ _ _ | .pand _ _ | .por _ _ | .pxor _ _ | .pmov _ _ _ _
  | .fadd _ _ | .fsub _ _ | .fmul _ _ | .fma _ _ | .fmin _ _ | .fmax _ _ | .fsgn _ _ | .fsgnN _ _
  | .fcmp _ _ _ _ _ _ _ | .cvt _ _ => true
  | _ => false

/-- NEG and GUARD of a word (R22); the device's other steps have none. -/
def headOf : Instr → Option (Bool × BitVec 3)
  | .nopC h | .br h _ | .call h _ | .ret h | .jr h _ | .loop h _ _ | .yield h | .halt h | .ld h _ | .st h _
  | .ldv h _ | .stv h _ | .ldp h _ | .segld h _ | .segst h _ | .tagset h _ _ | .tagget h _ _ | .tlook h _ _
  | .tfill h _ _ _ | .hsift h _ _ | .waitd h _ | .tcfg h _ _ | .tld h _ _ | .tst h _ _ | .tsave h _ _
  | .trest h _ _ | .tcmd h _ _ _ | .elace h _ _ | .econn h _ _ | .elisten h _ | .eaccept h _ _ | .egrant h _ _
  | .eclose h _ | .estat h _ _ | .eslot h _ _ | .esend h _ | .erecv h _ | .esel h _ _ | .eoffer h _ _ | .ealt h _ _
  | .edeleg h _ _ | .ecatch h _ _ | .route h _ _ | .qcfg h _ _ | .spawn h _ _ _ | .wake h _ | .marm h _ _
  | .mwait h _ _ | .mdisarm h _ | .barinit h _ _ | .bararr h _ | .barwait h _ _ _ | .gld h _ | .gst h _ | .gstc h _
  | .gatom h _ | .gred h _ | .amsg h _ _ _ | .frd h _ _ | .copy h _ _ | .copyg h _ _ _ _ | .cpref h _ _
  | .fence h _ | .travel h _ | .tspawn h _ _ | .tseg h _ | .fork h _ _ | .join h _ | .launch h _ | .grow h _
  | .commit h | .done h | .sealCut h | .sealw h | .rin h _ | .xsync h | .crd h _ _ | .cwr h _ _ | .trap h _
  | .syscall h _ | .brk h _ | .iload h _ _ | .eret h => some (h.neg, h.grd)
  | .nopA h | .add h _ | .sub h _ | .mul h _ | .mulh h _ | .mulhn h _ | .div h _ | .divn h _ | .rem h _ | .remn h _
  | .and h _ | .or h _ | .xor h _ | .andn h _ | .shl h _ | .shr h _ | .sra h _ | .rot h _ | .clz h _ | .ctz h _
  | .popc h _ | .min h _ | .max h _ | .minn h _ | .maxn h _ | .mov h _ | .sext8 h _ | .sext16 h _ | .sext32 h _
  | .zext8 h _ | .zext16 h _ | .zext32 h _ | .lea h _ _ | .sel h _ _ | .addi h _ _ _ | .movImm h _ _
  | .movK h _ _ _ | .bfx h _ | .bfi h _ | .cmp h _ _ _ _ _ | .cmpi h _ _ _ _ _ | .pand h _ | .por h _ | .pxor h _
  | .pmov h _ _ _ | .fadd h _ | .fsub h _ | .fmul h _ | .fma h _ | .fmin h _ | .fmax h _ | .fsgn h _ | .fsgnN h _
  | .fcmp h _ _ _ _ _ _ | .cvt h _ | .vaddF h _ | .vaddI h _ | .vsubF h _ | .vsubI h _ | .vmulF h _ | .vmulI h _
  | .vfma h _ | .vfms h _ | .vminF h _ | .vminS h _ | .vminN h _ | .vmaxF h _ | .vmaxS h _ | .vmaxN h _
  | .vabsF h _ | .vnegF h _ | .vabsI h _ | .vnegI h _ | .vrcp h _ | .vrsq h _ | .vexp2 h _ | .vlog2 h _ | .vmov h _
  | .vand h _ | .vor h _ | .vxor h _ | .vshl h _ | .vshr h _ | .vsra h _ | .vcmpF h _ | .vcmpI h _ | .vsel h _
  | .vperm h _ | .vbcast h _ _ _ | .vext h _ _ _ _ | .vins h _ | .vcompress h _ | .vexpand h _ | .vred h _
  | .vcvt h _ | .vpackbx h _ | .vunpbx h _ | .mand h _ _ _ | .mor h _ _ _ | .mnot h _ _ | .mpop h _ _
  | .sbind h _ _ | .srep h _ | .tzero h _ | .tmma h _ | .tmmas h _ _ _ | .ttrans h _ _ | .tadd h _ _ _
  | .tcvt h _ _ _ _ | .tsel h _ _ _ => some (h.neg, h.grd)
  | _ => none

/-- Is it an A-word? -/
def isAWord : Instr → Bool
  | .nopA _ | .add _ _ | .sub _ _ | .mul _ _ | .mulh _ _ | .mulhn _ _ | .div _ _ | .divn _ _ | .rem _ _ | .remn _ _
  | .and _ _ | .or _ _ | .xor _ _ | .andn _ _ | .shl _ _ | .shr _ _ | .sra _ _ | .rot _ _ | .clz _ _ | .ctz _ _
  | .popc _ _ | .min _ _ | .max _ _ | .minn _ _ | .maxn _ _ | .mov _ _ | .sext8 _ _ | .sext16 _ _ | .sext32 _ _
  | .zext8 _ _ | .zext16 _ _ | .zext32 _ _ | .lea _ _ _ | .sel _ _ _ | .addi _ _ _ _ | .movImm _ _ _
  | .movK _ _ _ _ | .bfx _ _ | .bfi _ _ | .cmp _ _ _ _ _ _ | .cmpi _ _ _ _ _ _ | .pand _ _ | .por _ _ | .pxor _ _
  | .pmov _ _ _ _ | .fadd _ _ | .fsub _ _ | .fmul _ _ | .fma _ _ | .fmin _ _ | .fmax _ _ | .fsgn _ _ | .fsgnN _ _
  | .fcmp _ _ _ _ _ _ _ | .cvt _ _ | .vaddF _ _ | .vaddI _ _ | .vsubF _ _ | .vsubI _ _ | .vmulF _ _ | .vmulI _ _
  | .vfma _ _ | .vfms _ _ | .vminF _ _ | .vminS _ _ | .vminN _ _ | .vmaxF _ _ | .vmaxS _ _ | .vmaxN _ _
  | .vabsF _ _ | .vnegF _ _ | .vabsI _ _ | .vnegI _ _ | .vrcp _ _ | .vrsq _ _ | .vexp2 _ _ | .vlog2 _ _ | .vmov _ _
  | .vand _ _ | .vor _ _ | .vxor _ _ | .vshl _ _ | .vshr _ _ | .vsra _ _ | .vcmpF _ _ | .vcmpI _ _ | .vsel _ _
  | .vperm _ _ | .vbcast _ _ _ _ | .vext _ _ _ _ _ | .vins _ _ | .vcompress _ _ | .vexpand _ _ | .vred _ _
  | .vcvt _ _ | .vpackbx _ _ | .vunpbx _ _ | .mand _ _ _ _ | .mor _ _ _ _ | .mnot _ _ _ | .mpop _ _ _
  | .sbind _ _ _ | .srep _ _ | .tzero _ _ | .tmma _ _ | .tmmas _ _ _ _ | .ttrans _ _ _ | .tadd _ _ _ _
  | .tcvt _ _ _ _ _ | .tsel _ _ _ _ => true
  | _ => false

/-- The scratchpad, segment, tag and heap instructions of one shape: they queue an access or read a table. -/
def localWord : Instr → Bool
  | .ld _ _ | .st _ _ | .ldv _ _ | .stv _ _ | .ldp _ _ | .segld _ _ | .segst _ _ | .tagset _ _ _ | .tagget _ _ _
  | .tlook _ _ _ | .tfill _ _ _ _ | .hsift _ _ _ | .waitd _ _ => true
  | _ => false

/-- The vector and lane-mask instructions, but `sbind` and `srep`. -/
def vectorWord : Instr → Bool
  | .vaddF _ _ | .vaddI _ _ | .vsubF _ _ | .vsubI _ _ | .vmulF _ _ | .vmulI _ _ | .vfma _ _ | .vfms _ _ | .vminF _ _
  | .vminS _ _ | .vminN _ _ | .vmaxF _ _ | .vmaxS _ _ | .vmaxN _ _ | .vabsF _ _ | .vnegF _ _ | .vabsI _ _ | .vnegI _ _
  | .vrcp _ _ | .vrsq _ _ | .vexp2 _ _ | .vlog2 _ _ | .vmov _ _ | .vand _ _ | .vor _ _ | .vxor _ _ | .vshl _ _ | .vshr _ _
  | .vsra _ _ | .vcmpF _ _ | .vcmpI _ _ | .vsel _ _ | .vperm _ _ | .vbcast _ _ _ _ | .vext _ _ _ _ _ | .vins _ _
  | .vcompress _ _ | .vexpand _ _ | .vred _ _ | .vcvt _ _ | .vpackbx _ _ | .vunpbx _ _ | .mand _ _ _ _ | .mor _ _ _ _
  | .mnot _ _ _ | .mpop _ _ _ => true
  | _ => false

/-- The tile instructions: arithmetic, configuration, movement and remote commands. -/
def tileWord : Instr → Bool
  | .tzero _ _ | .tmma _ _ | .tmmas _ _ _ _ | .ttrans _ _ _ | .tadd _ _ _ _ | .tcvt _ _ _ _ _ | .tsel _ _ _ _
  | .tcfg _ _ _ | .tld _ _ _ | .tst _ _ _ | .tsave _ _ _ | .trest _ _ _ | .tcmd _ _ _ _ => true
  | _ => false

/-! What stays. -/

/-- No byte, tag or mark of any store differs. -/
structure State.SameMemory (s t : State) : Prop where
  spad : t.spad = s.spad
  spadTag : t.spadTag = s.spadTag
  hbm : t.hbm = s.hbm
  hbmTag : t.hbmTag = s.hbmTag
  host : t.host = s.host
  istore : t.istore = s.istore
  marks : t.marks = s.marks
  tiles : ∀ c, (t.coreAt c).tiles = (s.coreAt c).tiles

/-- No thread of any core differs: none of its registers, flags, special registers or exception registers. -/
def State.SameThreads (s t : State) : Prop := ∀ c sl, t.threadAt c sl = s.threadAt c sl

/-- No other core differs in anything. -/
def State.SameOthers (s t : State) (c : Nat) : Prop := ∀ k, k ≠ c → t.coreAt k = s.coreAt k

/-- What a word with fixed-latency results changes at issue: queue entries it pops or reserves, and the results due at its
core. Registers, flags, memory, every other core and everything else of the device stay. -/
structure State.OnlyResults (s t : State) : Prop where
  parts : t = { s with ctx := t.ctx, agenda := t.agenda, cores := t.cores }
  ctx : t.ctx = { s.ctx with org := t.ctx.org }
  others : s.SameOthers t s.ctx.core
  core : t.coreAt s.ctx.core = { s.coreAt s.ctx.core with
    due := (t.coreAt s.ctx.core).due
    queues := (t.coreAt s.ctx.core).queues }

end Sys2Proof.Machine
end

