-- ==== Sys2Proof/Certificates/Slice0/Obligations.lean ====
section
/-! DEFINITION. The statements for the provers, each from the numbered rules of spec/ named in its comment. -/

open Sys2Proof Sys2Proof.Machine

/-- R82, R85: the two-source integer instructions. Every result is taken modulo 2^64 and is due after the latency the table
gives; queue sources are popped; s[D] may be a queue code. R82, R84, R86: the one-source, immediate and bit-field
instructions, latency 1. L is 64 for LEN 0. -/
def Obligations.ScalarIntegerResults : Prop :=
  (∀ (s : State) (h : AHead) (o : AR) (k : BitVec 2) (q : BitVec 3), s.Issues h.neg h.grd →
     let a := s.sval o.a
     let b := s.sval o.b [o.a]
     let n := b.toNat % 64
     let out (lat : Nat) (v : Word) : Out := s.gives true [o.a, o.b] o.d lat v
     exec (.add h o) s = out 1 (wd (a.toNat + b.toNat)) ∧
     exec (.sub h o) s = out 1 (BitVec.ofInt 64 (a.toNat - b.toNat)) ∧
     exec (.mul h o) s = out 3 (wd (a.toNat * b.toNat)) ∧
     exec (.mulh h o) s = out 3 (BitVec.ofInt 64 (a.toInt * b.toInt / 2 ^ 64)) ∧
     exec (.mulhn h o) s = out 3 (wd (a.toNat * b.toNat / 2 ^ 64)) ∧
     exec (.and h o) s = out 1 (a &&& b) ∧
     exec (.or h o) s = out 1 (a ||| b) ∧
     exec (.xor h o) s = out 1 (a ^^^ b) ∧
     exec (.andn h o) s = out 1 (a &&& ~~~b) ∧
     exec (.shl h o) s = out 1 (wd (a.toNat * 2 ^ n)) ∧
     exec (.shr h o) s = out 1 (wd (a.toNat / 2 ^ n)) ∧
     exec (.sra h o) s = out 1 (BitVec.ofInt 64 (a.toInt / 2 ^ n)) ∧
     exec (.rot h o) s = out 1 (wd (a.toNat * 2 ^ n % 2 ^ 64 + a.toNat / 2 ^ (64 - n))) ∧
     exec (.min h o) s = out 1 (if a.toInt ≤ b.toInt then a else b) ∧
     exec (.max h o) s = out 1 (if a.toInt ≤ b.toInt then b else a) ∧
     exec (.minn h o) s = out 1 (if a.toNat ≤ b.toNat then a else b) ∧
     exec (.maxn h o) s = out 1 (if a.toNat ≤ b.toNat then b else a) ∧
     exec (.lea h o k) s =
       out 1 (wd (wbits a 57 7 * 2 ^ 57 + (a.toNat + b.toNat * 2 ^ k.toNat) % 2 ^ 57)) ∧
     exec (.sel h o q) s = out 1 (if s.ctx.pre.pred q.toNat then a else b)) ∧
  (∀ (s : State) (h : AHead) (o : AU) (f : AF) (d4 : BitVec 4) (k : BitVec 2) (i12 : BitVec 12) (i16 : BitVec 16)
     (i17 : BitVec 17), s.Issues h.neg h.grd →
     let a := s.sval o.a
     let out (v : Word) : Out := s.gives true [o.a] o.d 1 v
     let len := if f.len = 0 then 64 else f.len.toNat
     let x := s.sval f.a
     let old := s.ctx.pre.sreg f.d.toNat
     (∃ v, exec (.clz h o) s = out v ∧ (a = 0 → v = 64) ∧
       (a ≠ 0 → v.toNat < 64 ∧ a.getLsbD (63 - v.toNat) = true ∧ ∀ i, 63 - v.toNat < i → a.getLsbD i = false)) ∧
     (∃ v, exec (.ctz h o) s = out v ∧ (a = 0 → v = 64) ∧
       (a ≠ 0 → v.toNat < 64 ∧ a.getLsbD v.toNat = true ∧ ∀ i, i < v.toNat → a.getLsbD i = false)) ∧
     exec (.popc h o) s = out (wd ((List.range 64).countP fun i => a.getLsbD i)) ∧
     exec (.mov h o) s = out a ∧
     exec (.sext8 h o) s = out ((a.setWidth 8).signExtend 64) ∧
     exec (.sext16 h o) s = out ((a.setWidth 16).signExtend 64) ∧
     exec (.sext32 h o) s = out ((a.setWidth 32).signExtend 64) ∧
     exec (.zext8 h o) s = out ((a.setWidth 8).setWidth 64) ∧
     exec (.zext16 h o) s = out ((a.setWidth 16).setWidth 64) ∧
     exec (.zext32 h o) s = out ((a.setWidth 32).setWidth 64) ∧
     exec (.addi h o.d o.a i12) s = out (a + i12.signExtend 64) ∧
     exec (.movImm h o.d i17) s = s.gives true [] o.d 1 (i17.signExtend 64) ∧
     (∃ v, exec (.movK h d4 k i16) s = s.gives true [] (d4.setWidth 5) 1 v ∧
       ∀ i, v.getLsbD i = if 16 * k.toNat ≤ i ∧ i < 16 * k.toNat + 16 then i16.getLsbD (i - 16 * k.toNat)
         else (s.ctx.pre.sreg d4.toNat).getLsbD i) ∧
     exec (.bfx h f) s = s.gives true [f.a] f.d 1 (wd (x.toNat / 2 ^ f.pos.toNat % 2 ^ len)) ∧
     (∃ v, exec (.bfi h f) s = s.gives true [f.a] f.d 1 v ∧
       ∀ i, i < 64 → v.getLsbD i = if f.pos.toNat ≤ i ∧ i < f.pos.toNat + len then x.getLsbD (i - f.pos.toNat)
         else old.getLsbD i))

/-- R87, R88, R91: compares and predicate operations write their condition, and a compare its complement too, with latency 1. -/
def Obligations.CompareAndPredicateResults : Prop :=
  ∀ (s : State) (h : AHead) (o : AP) (pt pf : BitVec 3) (a b : BitVec 5) (cc : BitVec 4) (i7 : BitVec 7)
    (fc : BitVec 3) (ft : BitVec 2), s.Issues h.neg h.grd →
    let x := s.sval a
    let y := s.sval b [a]
    let rel (c : Nat) (x y : Word) : Bool :=
      match c with
      | 0 => x == y
      | 1 => x != y
      | 2 => decide (x.toInt < y.toInt)
      | 3 => decide (x.toInt ≤ y.toInt)
      | 4 => decide (y.toInt < x.toInt)
      | 5 => decide (y.toInt ≤ x.toInt)
      | 6 => decide (x.toNat < y.toNat)
      | 7 => decide (x.toNat ≤ y.toNat)
      | 8 => decide (y.toNat < x.toNat)
      | _ => decide (y.toNat ≤ x.toNat)
    let p (r : BitVec 3) : Bool := s.ctx.pre.pred r.toNat
    let one (d : BitVec 3) (v : Bool) : Out := .next ((s.onWord true).resultP d 1 v)
    (cc.toNat < 10 → exec (.cmp h pt pf a b cc) s = s.givesPP [a, b] pt pf (rel cc.toNat x y)) ∧
    (cc.toNat < 10 → exec (.cmpi h pt pf a cc i7) s = s.givesPP [a] pt pf (rel cc.toNat x (i7.signExtend 64))) ∧
    (∃ r : Bool × BitVec 5, r = fCompare fc.toNat (readFT ft x) (readFT ft y) ∧
      exec (.fcmp h pt pf a b fc ft) s = s.givesPP [a, b] pt pf r.1 r.2) ∧
    exec (.pand h o) s = one o.pd ((p o.pa ^^ o.na) && (p o.pb ^^ o.nb)) ∧
    exec (.por h o) s = one o.pd ((p o.pa ^^ o.na) || (p o.pb ^^ o.nb)) ∧
    exec (.pxor h o) s = one o.pd ((p o.pa ^^ o.na) ^^ (p o.pb ^^ o.nb)) ∧
    exec (.pmov h o.pd o.pa o.na) s = one o.pd (p o.pa ^^ o.na)

/-- R73, R89, R90: scalar floating point, latency 4 (`cvt` 3), with the flags of the operation. The value is the one rounding of
the exact result; `fsgn` copies bits. R57, R89: the NaN and invalid results of `fadd`, `fmul` and `fma` in the three formats:
the canonical NaN, and NV exactly when an operand is a signalling NaN or the operation is invalid. R66–R69: a finite exact
value is rounded once: the result is a neighbour of it in the format's grid of that place, the nearest in modes 0 and 4 (a tie
goes to the even one, or away from zero), the one towards zero, below or above in modes 1, 2 and 3; NX tells that it differs,
UF that it does and lies below the smallest normal number; beyond the largest finite value it is that value or the infinity,
as the mode says, with OF and NX. -/
def Obligations.ScalarFloatResults : Prop :=
  (∀ (s : State) (h : AHead) (o : AFP) (g : AFS) (c : ACV), s.Issues h.neg h.grd →
     let f := fmtOf o.ft.toNat
     let mode := effRM o.rm.toNat s.ctx.pre.rm
     let x := readFT o.ft (s.sval o.a)
     let y := readFT o.ft (s.sval o.b [o.a])
     let z := readFT o.ft (s.ctx.pre.sreg o.d.toNat)
     let out (r : Nat × BitVec 5) : Out := s.gives true [o.a, o.b] o.d 4 (wd r.1) r.2
     let fg := fmtOf g.ft.toNat
     let a := (s.sval g.a).toNat % 2 ^ fg.width
     let b := (s.sval g.b [g.a]).toNat % 2 ^ fg.width
     let top := 2 ^ (fg.width - 1)
     let outg (r : Nat × BitVec 5) : Out := s.gives true [g.a, g.b] g.d 4 (wd r.1) r.2
     let cv := convert (fmtOf c.dst.toNat) s.ctx.pre.topx (effRM c.rm.toNat s.ctx.pre.rm)
       (readFmt (fmtOf c.frm.toNat) s.ctx.pre.topx (s.sval c.a).toNat)
     exec (.fadd h o) s = out (fAdd f mode x y) ∧
     exec (.fsub h o) s = out (fAdd f mode x y.negate) ∧
     exec (.fmul h o) s = out (fMul f mode x y) ∧
     exec (.fma h o) s = out (fFma f mode x y z) ∧
     exec (.fmin h g) s = outg (fMinMax fg false a b (readFmt fg false a) (readFmt fg false b)) ∧
     exec (.fmax h g) s = outg (fMinMax fg true a b (readFmt fg false a) (readFmt fg false b)) ∧
     exec (.fsgn h g) s = outg (b / top * top + a % top, 0) ∧
     exec (.fsgnN h g) s = outg ((1 - b / top) * top + a % top, 0) ∧
     exec (.cvt h c) s = s.gives true [c.a] c.d 3 (writeScalar (fmtOf c.dst.toNat) cv.1) cv.2) ∧
  (∀ (ft : BitVec 2) (mode : Nat) (x y z : Machine.Num), ft ≠ 3 →
     let f := fmtOf ft.toNat
     let q : Nat := if ft = 0 then 0x7FC00000 else if ft = 1 then 0x7E00 else 0x7FC0
     let nv (b : Bool) : BitVec 5 := if b then 16 else 0
     (x.isNaN = true ∨ y.isNaN = true → fAdd f mode x y = (q, nv (x.isSig || y.isSig)) ∧
       fMul f mode x y = (q, nv (x.isSig || y.isSig))) ∧
     (∀ n, fAdd f mode (.inf n) (.inf (!n)) = (q, 16)) ∧
     (∀ n k e, fMul f mode (.inf n) (.fin k 0 e) = (q, 16) ∧ fMul f mode (.fin k 0 e) (.inf n) = (q, 16) ∧
       fFma f mode (.inf n) (.fin k 0 e) z = (q, 16) ∧ fFma f mode (.fin k 0 e) (.inf n) z = (q, 16)) ∧
     (z.isNaN = true → (x.isZero && y.isInf) = false → (x.isInf && y.isZero) = false →
       fFma f mode x y z = (q, nv (x.isSig || y.isSig || z.isSig)))) ∧
  (∀ (ft : BitVec 2) (mode : Nat) (n : Bool) (m : Nat) (e : Int), ft ≠ 3 → mode ≤ 4 → 0 < m →
     let f := fmtOf ft.toNat
     let r := convert f false mode (.fin n m e)
     let emin : Int := if ft = 1 then -14 else -126
     let sign := if n then 2 ^ (f.width - 1) else 0
     let inf := if ft = 0 then 0x7F800000 else if ft = 1 then 0x7C00 else 0x7F80
     r.2.toNat < 8 ∧
     (r.2.getLsbD 2 = true → r.2 = 5 ∧
       r.1 = sign + (if mode = 1 ∨ mode = 2 ∧ n = false ∨ mode = 3 ∧ n = true then inf - 1 else inf)) ∧
     (r.2.getLsbD 2 = false → ∃ k c, readFmt f false r.1 = .fin n k c ∧ ∀ t ≤ e, t ≤ c →
       let x := scaled n m e t
       let y := scaled n k c t
       let u := 2 ^ (c - t).toNat
       (r.2.getLsbD 0 = true ↔ x ≠ y) ∧
       (r.2.getLsbD 1 = true ↔ x ≠ y ∧ (Nat.log2 m : Int) + e < emin) ∧
       (mode = 0 → 2 * (y - x).natAbs ≤ u ∧ (2 * (y - x).natAbs = u → k % 2 = 0)) ∧
       (mode = 1 → y.natAbs ≤ x.natAbs ∧ (y - x).natAbs < u) ∧
       (mode = 2 → y ≤ x ∧ x < y + u) ∧
       (mode = 3 → x ≤ y ∧ y < x + u) ∧
       (mode = 4 → 2 * (y - x).natAbs ≤ u ∧ (2 * (y - x).natAbs = u → x.natAbs ≤ y.natAbs))))

/-- R83: a division sets its destination empty, holds the slot's divider, and its result is written 2 + ⌈n/2⌉ cycles later, 2
where b = 0: n is the bit length of the dividend, of its magnitude in the signed forms. The frame of a division: beside
queues and the result to come, only the destination's full/empty bit changes in the issuing thread, and the divider of its
slot is taken (R79, R83). -/
def Obligations.DivisionStartsAndFrame : Prop :=
  (∀ (s : State) (h : AHead) (o : AR), s.Issues h.neg h.grd →
     let s1 := s.onWord true
     let a := s.sval o.a
     let b := s.sval o.b [o.a]
     let na := a.toInt.natAbs
     let lat (n : Nat) : Nat := if b = 0 then 2 else 2 + ((if n = 0 then 0 else Nat.log2 n + 1) + 1) / 2
     let out (n : Nat) (v : Word) : Out :=
       .next ((((s1.track o.d).1.modCore s.ctx.core fun k => { k with divBusy := setBit k.divBusy s.ctx.slot true }).after (lat n)
         (.divideComplete ⟨s1.me, (s1.track o.d).2, v.toNat, none⟩)).popAll (popsOf [o.a, o.b]))
     exec (.div h o) s = out na (if b = 0 then allOnes else BitVec.ofInt 64 (a.toInt.tdiv b.toInt)) ∧
     exec (.rem h o) s = out na (if b = 0 then a else BitVec.ofInt 64 (a.toInt - a.toInt.tdiv b.toInt * b.toInt)) ∧
     exec (.divn h o) s = out a.toNat (if b = 0 then allOnes else wd (a.toNat / b.toNat)) ∧
     exec (.remn h o) s = out a.toNat (if b = 0 then a else wd (a.toNat % b.toNat))) ∧
  (∀ (h : AHead) (o : AR) (s t : State), s.ctx.mode = .commit →
     (exec (.div h o) s = .next t ∨ exec (.divn h o) s = .next t ∨ exec (.rem h o) s = .next t ∨ exec (.remn h o) s = .next t) →
     t = { s with ctx := t.ctx, agenda := t.agenda, cores := t.cores } ∧ s.SameOthers t s.ctx.core ∧
     t.coreAt s.ctx.core = { s.coreAt s.ctx.core with
       threads := (t.coreAt s.ctx.core).threads
       queues := (t.coreAt s.ctx.core).queues
       divBusy := (t.coreAt s.ctx.core).divBusy } ∧
     (∀ sl, sl ≠ s.ctx.slot → t.threadAt s.ctx.core sl = s.threadAt s.ctx.core sl ∧
       (sl < 16 → s.ctx.slot < 16 → (t.coreAt s.ctx.core).divBusy.getLsbD sl = (s.coreAt s.ctx.core).divBusy.getLsbD sl)) ∧
     ∀ th, s.cur = some th → ∃ e, t.threadAt s.ctx.core s.ctx.slot = some { th with sEmpty := e } ∧
       ∀ r, r ≠ o.d.toNat → e.getLsbD r = th.sEmpty.getLsbD r)

/-- The frame of the words of the scalar family with a fixed latency, guard true or false: at issue nothing changes but the queue
entries they pop or reserve and the result that is due (R3, R102). -/
def Obligations.ScalarFrame : Prop :=
  ∀ (i : Instr) (s t : State), scalarFixed i = true → s.ctx.mode = .commit → exec i s = .next t → s.OnlyResults t

/-- R102, R70: the results due are written: the register holds the last value due to it, its flags are raised, nothing else of
the thread changes for it, and none of them is pending any more. R29, R78, R147: p7 reads 1 and vm7 reads all ones; a write
to either changes nothing; a write to any other scalar register, predicate, vector register or lane mask leaves every other
register as it was; the flags a discarded result raises are raised all the same. -/
def Obligations.DueResultsAndHardwired : Prop :=
  (∀ (s : State) (pre post : List DueWrite) (w : DueWrite) (r : Nat) (th : Thread),
     let k := s.coreAt s.subj.core
     k.due.filter (·.due ≤ s.cycle) = pre ++ w :: post → (∀ x ∈ post, x.slot = w.slot → x.dst ≠ w.dst) →
     w.dst = .sreg r → r < 16 → w.mask = 2 ^ 64 - 1 → s.threadAt s.subj.core w.slot = some th → th.tid = w.tid →
     ∃ t u, exec .fixedLatencyWrite s = .next t ∧ t.threadAt s.subj.core w.slot = some u ∧ u.sreg r = wd w.val ∧
       u.fflags &&& w.flags = w.flags ∧ u.pc = th.pc ∧ u.sEmpty = th.sEmpty ∧ u.sg = th.sg ∧ s.SameMemory t ∧
       (t.coreAt s.subj.core).due = k.due.filter fun x => !(x.due ≤ s.cycle)) ∧
  (∀ (t : Thread) (val mask : Nat),
     t.pred 7 = true ∧ t.mreg 7 = allOnes ∧ t.writeReg (.preg 7) val mask = t ∧ t.writeReg (.mreg 7) val mask = t ∧
     (∀ d r, (t.writeReg d val mask).pred 7 = true ∧ (d ≠ .sreg r → (t.writeReg d val mask).sreg r = t.sreg r)) ∧
     (∀ r, r < 7 → t.writeReg (.preg r) val mask = { t with p := setBit t.p r (val % 2 == 1) }) ∧
     ∀ (s : State) (w : DueWrite), w.dst = .preg 7 ∨ w.dst = .mreg 7 → (s.coreAt s.subj.core).due = [w] → w.due ≤ s.cycle →
       s.threadAt s.subj.core w.slot = some t → t.tid = w.tid → ∃ u, exec .fixedLatencyWrite s = .next u ∧
         u.threadAt s.subj.core w.slot = some { t with fflags := t.fflags ||| w.flags })

/-- R109–R116: the control-flow words of an anchored thread. A transfer writes PC; `call` leaves the next bundle's address in
s15; `loop` counts its register down and transfers while it is not zero; `nop` has no effect. R98, R115: `yield` marks its
slot and leaves no greedy slot under greedy-then-oldest, and is a `nop` under round-robin; either way no thread of the device
changes. R26, R109, R297: where a transfer traps: a target that is not a multiple of 8 (Misaligned), and, of a thread that
does not travel, one outside segment 0. The trap is reported with the target and nothing else of the word happens. R297: a
travelling thread goes on at the target where its core has the target's segment, and otherwise leaves for the replica of that
segment that its thread id selects. The model's choice (log 16): ADDR of the Misaligned trap of a transfer is its target. -/
def Obligations.ControlTransfers : Prop :=
  (∀ (s : State) (h : CHead) (ah : AHead) (d : Disp) (a : BitVec 5) (cnt : BitVec 4) (ld : BitVec 14),
     s.Issues h.neg h.grd → s.Issues ah.neg ah.grd → s.ctx.pre.kind ≠ 2 →
     let s0 := s.onWord false
     let pc := s.ctx.org.pc
     let target : Word32 := match d with
       | .short x => pc + 8 * x.signExtend 32
       | .long x => pc + 8 * x
     let go (s : State) (t : Word32) : State := s.modCur fun x => { x with pc := t }
     let left := s.ctx.pre.sreg cnt.toNat - 1
     exec (.nopC h) s = .next s0 ∧
     exec (.nopA ah) s = .next (s.onWord true) ∧
     exec (.br h d) s = .next (go s0 target) ∧
     exec (.call h d) s = .next (go (s0.result 15 1 ((pc + 8).setWidth 64)) target) ∧
     exec (.ret h) s = .next (go s0 ((s.ctx.pre.sreg 15).setWidth 32)) ∧
     exec (.jr h a) s = .next ((go s0 ((s.sval a).setWidth 32)).popAll (popsOf [a])) ∧
     exec (.loop h cnt ld) s = .next
       (if left = 0 then s0.result (cnt.setWidth 5) 1 left
        else go (s0.result (cnt.setWidth 5) 1 left) (pc + 8 * ld.signExtend 32))) ∧
  (∀ (s : State) (h : CHead), s.Issues h.neg h.grd →
     ∃ t, exec (.yield h) s = .next t ∧ s.SameThreads t ∧ s.SameMemory t ∧ s.SameOthers t s.ctx.core ∧
       (s.curCore.issuepol.getLsbD 0 = true → t = s.onWord false) ∧
       (s.curCore.issuepol.getLsbD 0 = false →
         (t.coreAt s.ctx.core).greedy = none ∧
         ∀ i, i < 16 → (t.coreAt s.ctx.core).yielded.getLsbD i = (i == s.ctx.slot || s.curCore.yielded.getLsbD i))) ∧
  (∀ (s : State) (t : Word32),
     (t.toNat % 8 ≠ 0 → s.jumpTrap t = some ⟨8, 0, t.setWidth 64, 0⟩) ∧
     (t.toNat % 8 = 0 → s.view.kind ≠ 2 → t.toNat / 65536 ≠ 0 → s.jumpTrap t = some ⟨0x17, 1, t.setWidth 64, 0⟩) ∧
     (t.toNat % 8 = 0 → s.view.kind ≠ 2 → t.toNat / 65536 = 0 → s.jumpTrap t = none)) ∧
  (∀ (s : State) (h : CHead) (d : Disp), s.Issues h.neg h.grd → s.ctx.pre.kind = 2 →
     let s0 := s.onWord false
     let target := s0.dispTarget d
     let seg := target.toNat / 65536 % 65536
     let here := s.curCore.codeDir.any fun e => e.task == s.ctx.pre.task && e.seg == seg && !e.free
     ∃ t, exec (.br h d) s = .next t ∧ (∀ th, s.cur = some th → ∃ u, t.cur = some u ∧ u.pc = target ∧ u.s = th.s ∧
       (here = true → u.depart = th.depart) ∧
       (here = false → u.parked = true ∧ ∃ dp, u.depart = some dp ∧ dp.sent = false ∧
         dp.dest = s.replica s.ctx.core s.ctx.pre seg (s.ctx.pre.tid % 2 ^ 32 % s.nrep s.ctx.core s.ctx.pre seg))))

/-- R23: a word whose guard is false has no effect, whichever of the bundle's instructions it is: with the bundle issuing it
changes nothing, and to the bundle's checks it shows its guard predicate alone, neither a park nor a queue nor a trap, but the
trap of a `tcvt` whose formats are no accepted pair, which decoding already finds (R43, R193). Its
guard is true exactly if the predicate differs from NEG, and p7 reads true. R104–R106: with ISSUECHK 0 a bundle that reads a
register before a result due to it is written traps as UndersizedStall: subcode 1, the due cycle in ADDR, and the register's
number, the guard mark and its class in DETAIL; with ISSUECHK 1 it waits. -/
def Obligations.GuardsAndEarlyReads : Prop :=
  (∀ (i : Instr) (h : Bool × BitVec 3) (s : State), headOf i = some h → s.cur.isSome = true →
     (s.ctx.mode = .commit → s.ctx.pre.guard h.1 h.2 = false → exec i s = .next (s.onWord (isAWord i))) ∧
     (s.ctx.mode = .probe → s.view.guard h.1 h.2 = false →
       let pair : Bool := match i with
         | .tcvt _ _ ta f _ => tcvtPair (tcFmt (s.view.tile ta.toNat).cfg) f.toNat
         | _ => true
       ∃ t, exec i s = .next t ∧ t = { s with ctx := t.ctx } ∧ t.ctx.found =
         ⟨⟨[(.preg h.2.toNat, true)], [], [], [], [], []⟩, true, if pair then none else some ⟨1, 6, 0, 0⟩, none, none, none⟩) ∧
     (s.ctx.pre.guard h.1 h.2 = true ↔ s.ctx.pre.pred h.2.toNat ≠ h.1) ∧ s.ctx.pre.pred 7 = true) ∧
  (∀ (s : State) (w : DueWrite) (f : Finding) (r : Nat),
     s.curCore.due = [w] → w.slot = s.ctx.slot → w.dst = .sreg r → s.cycle < w.due → s.cur.isSome = true →
     (∀ th, s.cur = some th → th.sEmpty = 0 ∧ th.vEmpty = 0 ∧ th.tid = w.tid) →
     f.acc = ⟨[(.sreg r, false)], [], [], [], [], []⟩ → f.kindTrap = none → f.park2 = none →
     (s.curCore.issuechk = 0 → s.verdict [(true, f)] = .trap true ⟨4, 1, wd w.due, wd (256 * r)⟩ false) ∧
     (s.curCore.issuechk = 1 → s.verdict [(true, f)] = .wait))

/-- R45: what the stages decide when nothing stands against the bundle, and what they decide first when something does. R96–R98:
the slot chosen is one of the ready ones, one is chosen whenever one is ready, and under round-robin it is the first after
the slot that issued last. The model's choice (logs 52, 70): an empty source register parks before the word's own stage-2
park, and what BSTATE holds for it. -/
def Obligations.BundleStages : Prop :=
  (∀ (s : State) (fc fa : Finding) (th : Thread), s.cur = some th →
     let fs := [(false, fc), (true, fa)]
     let k := s.curCore
     let regs := (fc.acc.reads ++ fa.acc.reads).map (·.1)
     let outs := fc.acc.writes ++ fa.acc.writes
     let quiet := ∀ q, (fc.acc.pops ++ fa.acc.pops).count q ≤ (k.queue q).held ∧
       (k.queue q).entries.length + (fc.acc.pushes ++ fa.acc.pushes).count q ≤ 8 + (fc.acc.pops ++ fa.acc.pops).count q
     (∀ t, fc.kindTrap = some t → s.verdict fs = .trap false t false) ∧
     (∀ t, fc.kindTrap = none → fa.kindTrap = some t → s.verdict fs = .trap true t false) ∧
     (fc.kindTrap = none → fa.kindTrap = none → quiet →
       ((∃ r, r ∈ regs ++ outs.map (·.1) ∧ th.isEmpty r = true) → s.verdict fs = .park Park.regEmpty false) ∧
       ((∀ r, r ∈ regs ++ outs.map (·.1) → th.isEmpty r = false) → fc.park2 = none → fa.park2 = none →
         (∀ w ∈ k.due, w.slot ≠ s.ctx.slot ∨ w.tid ≠ th.tid) →
         twice (fs.flatMap fun f => overlapWrites f.2.acc) = false →
         (∀ t, fc.trap3 = some t → s.verdict fs = .trap false t true) ∧
         (fc.trap3 = none → ∀ t, fa.trap3 = some t → s.verdict fs = .trap true t true) ∧
         (fc.trap3 = none → fa.trap3 = none →
           (∀ p, fc.park4 = some p → s.verdict fs = .park p true) ∧
           (fc.park4 = none → fa.park4 = none → s.verdict fs = .go))))) ∧
  (∀ (k : Core) (ready : List Nat),
     (∀ x, k.choose ready = some x → x ∈ ready) ∧
     (ready ≠ [] → (∀ x ∈ ready, x < 16) → (k.choose ready).isSome = true) ∧
     (k.issuepol.getLsbD 0 = true → ∀ x, k.choose ready = some x → x < 16 →
       ∀ y ∈ ready, y < 16 → (x + 31 - k.last % 16) % 16 ≤ (y + 31 - k.last % 16) % 16))

/-- R126: the address of an access: the segment's upper seven bits, and base plus offset modulo 2^57; the offset is the signed
index times its scale plus the displacement of a LONE form, exactly. R127 steps 3–7: an access within its segment passes if the
segment is valid and grants the right, the access lies within LIMIT, its address is aligned and names a home; otherwise the
first failing step names the trap: step 7 is SegmentBound, subcode 2, for an address that fails R15, and TagMismatch for a
tagged address of SPACE 3 or 4. That R15 is asked of the first and of the last byte of the access, which must lie in one
unit's space, is the model's choice (DEDUCED, log 66). -/
def Obligations.SegmentAddressAndChecks : Prop :=
  (∀ (s : State) (g : Seg) (off : Int) (sg : BitVec 3) (ix : Bool) (idx : BitVec 4) (l : Lit) (k : Nat),
     (g.addr off).toNat / 2 ^ 57 = g.base.toNat / 2 ^ 57 ∧
     (((g.addr off).toNat % 2 ^ 57 : Nat) : Int) = ((g.base.toNat % 2 ^ 57 : Nat) + off) % (2 ^ 57 : Int) ∧
     (s.refCM sg ix idx l k).sg = sg.toNat ∧
     (s.refCM sg ix idx l k).off = (if ix = true then (s.view.sreg idx.toNat).toInt * k else 0) + (match l with
       | some d => d.toInt
       | none => 0)) ∧
  (∀ (s : State) (g : Seg) (off : Int) (size align : Nat) (r w : Bool),
     let a := g.addr off
     let v := g.attr.getLsbD 47
     let rights := (r = true → g.attr.getLsbD 43 = true) ∧ (w = true → g.attr.getLsbD 44 = true)
     let inside := 0 ≤ off ∧ off + size ≤ (g.attr.toNat % 2 ^ 43 : Nat)
     let chk := s.segCheck g off size r w align
     (v = false → chk = .error ⟨6, 1, g.base, 0⟩) ∧
     (v = true → ¬rights → chk = .error ⟨6, 3, g.base, 0⟩) ∧
     (v = true → rights → ¬inside → chk = .error ⟨5, 1, a, 0⟩) ∧
     (v = true → rights → inside → a.toNat % align ≠ 0 → chk = .error ⟨8, 0, a, 0⟩) ∧
     (v = true → rights → inside → a.toNat % align = 0 → s.r15Span s.ctx.core a size = none → chk = .ok a) ∧
     (∀ x, chk = .ok x → x = a ∧ v = true ∧ rights ∧ inside ∧ a.toNat % align = 0) ∧
     (v = true → rights → inside → a.toNat % align = 0 →
       let noDev (d : Nat) : Prop := d ≠ 0x3FFF ∧ ∀ p, tget (s.coreAt s.ctx.core).devPlace d = some p → p.valid = false
       let noCore (l : Nat) : Prop := ∀ p, tget (s.coreAt s.ctx.core).place l = some p → p.valid = false
       let space (x : Word) : Nat := x.toNat / 2 ^ 57 % 8
       let bad (x : Word) : Prop :=
         5 ≤ space x ∨ (space x = 0 ∧ x.toNat / 2 ^ 43 % 2 ^ 14 ≠ 0) ∨
         (space x = 1 ∧ (x.toNat / 2 ^ 20 % 2 ^ 11 ≠ 0 ∨ 786432 ≤ x.toNat % 2 ^ 20 ∨ noDev (x.toNat / 2 ^ 43 % 2 ^ 14) ∨
           noCore (x.toNat / 2 ^ 31 % 2 ^ 12))) ∨
         (space x = 2 ∧ noDev (x.toNat / 2 ^ 43 % 2 ^ 14)) ∨ (space x = 3 ∧ x.toNat / 2 ^ 48 % 2 ^ 9 ≠ 0) ∨
         (space x = 4 ∧ x.toNat / 2 ^ 32 % 2 ^ 25 ≠ 0)
       let tagged : Prop := (space a = 3 ∨ space a = 4) ∧ a.toNat / 2 ^ 60 ≠ 0
       let z := wd (a.toNat / 2 ^ 57 * 2 ^ 57 + (a.toNat % 2 ^ 57 + (size - 1)) % 2 ^ 57)
       let apart : Prop := (space a = 1 ∧ z.toNat / 2 ^ 31 % 2 ^ 26 ≠ a.toNat / 2 ^ 31 % 2 ^ 26) ∨
         (space a = 2 ∧ z.toNat / 2 ^ 43 % 2 ^ 14 ≠ a.toNat / 2 ^ 43 % 2 ^ 14)
       (bad a → chk = .error ⟨5, 2, a, 0⟩) ∧
       (¬bad a → tagged → chk = .error ⟨7, 1, a, wd (16 * (a.toNat / 2 ^ 60))⟩) ∧
       (¬bad a → ¬tagged → 1 < size → apart ∨ bad z → chk = .error ⟨5, 2, a, 0⟩) ∧
       (¬bad a → ¬tagged → size ≤ 1 ∨ (¬apart ∧ ¬bad z) → chk = .ok a)))

/-- R119–R122, R129–R132, R136, R143: a scratchpad access that passes its checks sets its destination empty, counts on its
dependence counter and goes on the local access queue, with the offset of its address, what it does there, and the data it
stores as they were at issue. R127 step 8, R290: of a light thread at the port core that is its operand's home, the access is
a request to that port instead, with the same counter and destination. R130: a vector load empties its registers and queues
one access a granule, in ascending order and together, the last of which is to fill the whole group; a vector store queues the
registers' values. -/
def Obligations.ScratchpadWords : Prop :=
  (∀ (s : State) (h : CHead) (m : CM) (p : CP) (k : CSeg) (r : MemR) (a5 c5 : BitVec 5) (a : Word),
     s.Issues h.neg h.grd →
     let s0 := s.onWord false
     let n := tySize m.ty
     let cm := s.refCM m.sg m.ix m.idx m.lit n
     let cs := s.refCM k.sg k.ix k.idx k.lit 16
     let off := a.toNat % 2 ^ 20
     let seg (r : MemRef) : Seg := s.ctx.pre.seg r.sg
     let here := s.isLocal a
     let x := s.ctx.pre.seg k.k.toNat
     let tag : BitVec 4 := BitVec.ofNat 4 ((s.sval a5).toNat / 2 ^ 60)
     let room := (s.ctx.pre.seg r.sg.toNat).limit - (s.refR r).off.toNat
     let loading := s0.modCur fun t => { t with sgBusy := setBit t.sgBusy k.k.toNat true }
     let sifting := s0.modCore s.ctx.core fun x => { x with heapUntil := s.cycle + 2 }
     let ask (kind : ReqKind) (r : MemRef) (n : Nat) : Req := s0.newReq kind a n (seg r)
     (s.check cm n true false n = .ok a → exec (.ld h m) s = .next
       ((if here then
           (s0.track m.reg).1.localAccess off false (.read n (tySigned m.ty) (s0.track m.reg).2 (some m.dc.toNat))
         else (s0.track m.reg).1.sendReq
           { ask .read cm n with dc := some m.dc.toNat, signed := tySigned m.ty, dst := (s0.track m.reg).2 }).incD m.dc.toNat)) ∧
     (s.check cm n false true n = .ok a → exec (.st h m) s = .next
       (((if here then s0.localAccess off (seg cm).noundo
           (.write (cellsAt off (toLE n (s.sval m.reg).toNat)) true (some m.dc.toNat))
         else s0.sendReq { ask .write cm n with dc := some m.dc.toNat, data := toLE n (s.sval m.reg).toNat }).incD
           m.dc.toNat).popAll (popsOf [m.reg]))) ∧
     exec (.ldp h p) s = .next
       ((s0.track p.reg).1.localAccess (s.ctx.pre.pwbase.toNat % 2 ^ 20 + p.off.toNat) false
         (.read (tySize p.ty) (tySigned p.ty) (s0.track p.reg).2 none)) ∧
     (s.check cs 16 true false 16 = .ok a → exec (.segld h k) s = .next
       ((if here then loading.localAccess off false (.segld k.k.toNat (some k.dc.toNat))
         else loading.sendReq { ask .segRead cs 16 with dc := some k.dc.toNat, op := k.k.toNat }).incD k.dc.toNat)) ∧
     (s.check cs 16 false true 16 = .ok a → exec (.segst h k) s = .next
       ((if here then s0.localAccess off (seg cs).noundo (.segst x.base x.attr (some k.dc.toNat))
         else s0.sendReq { ask .write cs 16 with dc := some k.dc.toNat, data := toLE 8 x.base.toNat ++ toLE 8 x.attr.toNat }).incD
           k.dc.toNat)) ∧
     (s.check (s.refR r [a5]) 64 false true 64 = .ok a → exec (.tagset h a5 r) s = .next
       ((if here then s0.localAccess off (seg (s.refR r [a5])).noundo (.tagset tag)
         else s0.sendReq { ask .tagWrite (s.refR r [a5]) 64 with tagx := true, data := [tag.setWidth 8] }).popAll
           (popsOf [a5, r.idx]))) ∧
     (s.check (s.refR r) 64 true false 64 = .ok a → exec (.tagget h a5 r) s = .next
       ((if here then (s0.track a5).1.localAccess off false (.tagget a (s0.track a5).2)
         else (s0.track a5).1.sendReq { ask .tagRead (s.refR r) 64 with tagx := true, dst := (s0.track a5).2 }).popAll
           (popsOf [r.idx]))) ∧
     (s.check (s.refR r) 64 true true 64 = .ok a → exec (.hsift h r c5) s = .next
       ((if here then sifting.localAccess off (seg (s.refR r)).noundo
           (.hsift a (off + (seg (s.refR r)).limit - (s.refR r).off.toNat) (s.sval c5 [r.idx]) (seg (s.refR r)).tagx)
         else sifting.sendReq { ask .heap (s.refR r) 64 with gran := room, data := toLE 8 (s.sval c5 [r.idx]).toNat }).popAll
           (popsOf [r.idx, c5])))) ∧
  (∀ (s : State) (h : CHead) (m : CV) (a : Word), s.Issues h.neg h.grd → s.isLocal a = true →
     let s0 := s.onWord false
     let n := 2 ^ m.g.toNat
     let ref := s.refCM m.sg m.ix m.idx m.lit (64 * n)
     let off := a.toNat % 2 ^ 20
     let acc (i : Nat) (nu : Bool) (o : LocalOp) : LocalAcc := ⟨s.me, s0.ctx.org, off + 64 * i, nu, o⟩
     (s.check ref (64 * n) true false 64 = .ok a → exec (.ldv h m) s = .next
       ((((List.range n).foldl (fun (s : State) i => s.modCur (·.mark (.vreg (m.vr.toNat + i)) true)) s0).queueLocal s.ctx.core
         ((List.range n).map fun i =>
           acc i false (.readV (m.vr.toNat + i) (if i + 1 = n then some (m.vr.toNat, n) else none)
             (if i + 1 = n then some m.dc.toNat else none)))).incD m.dc.toNat)) ∧
     (s.check ref (64 * n) false true 64 = .ok a → exec (.stv h m) s = .next
       ((s0.queueLocal s.ctx.core ((List.range n).map fun i =>
         acc i (s.ctx.pre.seg m.sg.toNat).noundo
           (.write (cellsAt (off + 64 * i) (toLE 64 (s.ctx.pre.vreg (m.vr.toNat + i)).toNat)) (i + 1 = n)
             (some m.dc.toNat)))).incD m.dc.toNat)))

/-- R120, R121: the local access queue. An access is performed two cycles after issue or after those queued in the cycles
before it, in the cycle of those queued in its own (R153), by the step that carries it; nothing of memory and of any other slot changes when it is queued. The frame of the scratchpad words:
at issue memory, every other core and slot, and of the issuing thread everything but full/empty bits, dependence counters,
the count of its local accesses and the marks of loading segments stay; of a light thread at the port core that is its operand's
home (R290), also its counts of requests and the one request sent. -/
def Obligations.LocalQueueAndFrame : Prop :=
  (∀ (s : State) (off : Nat) (nu : Bool) (op : LocalOp),
     let t := s.localAccess off nu op
     let free := if s.curCore.localAt = s.cycle then s.curCore.localFree - 1 else s.curCore.localFree
     let p := if s.cycle + 2 < free then free else s.cycle + 2
     (p, ⟨.localAccessPerformed s.ctx.core ⟨s.me, s.ctx.org, off, nu, op⟩, {}⟩) ∈ t.agenda ∧
     (t.coreAt s.ctx.core).localFree = p + 1 ∧ (t.coreAt s.ctx.core).localAt = s.cycle ∧ s.SameMemory t ∧ s.SameOthers t s.ctx.core ∧
     (∀ sl, sl ≠ s.ctx.slot → t.threadAt s.ctx.core sl = s.threadAt s.ctx.core sl) ∧
     ∀ th, s.cur = some th → th.tid = s.view.tid → t.cur = some { th with localOut := th.localOut + 1 }) ∧
  (∀ (i : Instr) (s t : State), localWord i = true → s.ctx.mode = .commit → exec i s = .next t →
     s.SameMemory t ∧ s.SameOthers t s.ctx.core ∧
     (∀ sl, sl ≠ s.ctx.slot → t.threadAt s.ctx.core sl = s.threadAt s.ctx.core sl) ∧
     (∀ th, s.cur = some th → ∃ e v d b n q o a,
       t.cur = some { th with sEmpty := e, vEmpty := v, d := d, sgBusy := b, localOut := n, seq := q, outst := o, aout := a } ∧
       (t.net = s.net → (t.coreAt s.ctx.core).unacked = (s.coreAt s.ctx.core).unacked → q = th.seq ∧ o = th.outst)) ∧
     (∃ l, t.net = s.net ++ l ∧ l.length ≤ 1) ∧
     t = { s with ctx := t.ctx, agenda := t.agenda, cores := t.cores, net := t.net } ∧
     t.coreAt s.ctx.core = { s.coreAt s.ctx.core with
       threads := (t.coreAt s.ctx.core).threads
       queues := (t.coreAt s.ctx.core).queues
       unacked := (t.coreAt s.ctx.core).unacked
       localFree := (t.coreAt s.ctx.core).localFree
       localAt := (t.coreAt s.ctx.core).localAt
       heapUntil := (t.coreAt s.ctx.core).heapUntil
       tagTable := (t.coreAt s.ctx.core).tagTable })

/-- R137–R139: the tag table. `tlook` finds the value stored under the key of its address, and all ones where the entry is
invalid or holds another key; `tfill` stores a value, or removes the entry when the value is all ones, and gives back the
address the entry held. Both results are written two cycles later. R134: `waitd` parks while its counter is not zero and has
no effect of its own. A counter above 3 does not decode (ReservedField, 2), nor does a literal. R142, R143: the heap keeps
the offered candidate and its entries: below CAP the candidate is added and LAST is all ones; at CAP the better of candidate
and worst entry stays and LAST is the other. R143: the heap unit is free again once its operation's last cycle has come. -/
def Obligations.TablesWaitAndHeap : Prop :=
  (∀ (s : State) (h : CHead) (a b c : BitVec 5) (v : Word), s.Issues h.neg h.grd →
     let s0 := s.onWord false
     let x := s.sval b
     let y := s.sval c [b]
     let idx := (x.toNat / 64 % 256) ^^^ (x.toNat / 16384 % 256)
     let key : BitVec 54 := BitVec.ofNat 54 (x.toNat / 64)
     let set (t : Table (BitVec 54 × BitVec 32)) : State := s0.modCore s.ctx.core fun k => { k with tagTable := t }
     let found : Word := match tget s.curCore.tagTable idx with
       | some e => if e.1 = key then e.2.setWidth 64 else allOnes
       | none => allOnes
     let old : Word := match tget s.curCore.tagTable idx with
       | some e => wd (e.1.toNat * 64)
       | none => allOnes
     exec (.tlook h a b) s = .next ((s0.resultTracked a 2 found).popAll (popsOf [b])) ∧
     (v = y → y.toNat % 2 ^ 32 = 0xFFFFFFFF → exec (.tfill h a b c) s =
       .next (((set (tdel s.curCore.tagTable idx)).resultTracked a 2 old).popAll (popsOf [b, c]))) ∧
     (v = y → y.toNat % 2 ^ 32 ≠ 0xFFFFFFFF → exec (.tfill h a b c) s =
       .next (((set (tset s.curCore.tagTable idx (key, v.setWidth 32))).resultTracked a 2 old).popAll (popsOf [b, c])))) ∧
  (∀ (s : State) (h : CHead) (n : BitVec 2),
     (s.Issues h.neg h.grd → exec (.waitd h n) s = .next (s.onWord false)) ∧
     (s.ctx.mode = .probe → s.cur.isSome = true → s.view.guard h.neg h.grd = true →
       ∃ t, exec (.waitd h n) s = .next t ∧ t.ctx.found.trap3 = none ∧
         (s.view.dcount n.toNat = 0 → t.ctx.found.park4 = none) ∧
         (s.view.dcount n.toNat ≠ 0 → t.ctx.found.park4.isSome = true)) ∧
     ∀ (w l : BitVec 32), w.toNat / 2 ^ 18 % 64 = 0x0F → w.toNat % 8 = 5 →
       (w.getLsbD 31 = false → w.toNat / 8 % 2 ^ 10 = 0 → 3 < w.toNat / 2 ^ 13 % 32 → decodeC w l = .error ⟨2, 2⟩) ∧
       (w.getLsbD 31 = true → ∃ e, decodeC w l = .error e) ∧
       (∀ i, decodeC w l = .ok i → i = .waitd ⟨BitVec.ofNat 3 (w.toNat / 2 ^ 28), w.getLsbD 27, BitVec.ofNat 3 (w.toNat / 2 ^ 24)⟩
         (BitVec.ofNat 2 (w.toNat / 2 ^ 13)))) ∧
  (∀ (cap c : Nat) (e : List Nat),
     (e.length < cap → (heapOffer cap e c).1.Perm (c :: e) ∧ (heapOffer cap e c).2.1 = 2 ^ 64 - 1) ∧
     (0 < cap → e.length = cap →
       ((heapOffer cap e c).2.1 :: (heapOffer cap e c).1).Perm (c :: e) ∧ (heapOffer cap e c).1.length = cap ∧
       (better c (e.getD 0 0) = true → (heapOffer cap e c).2.1 = e.getD 0 0) ∧
       (better c (e.getD 0 0) = false → (heapOffer cap e c).2.1 = c))) ∧
  (∀ (s : State), ∃ t, exec .hsiftComplete s = .next t ∧ s.SameMemory t ∧ s.SameThreads t ∧ s.SameOthers t s.subj.core ∧
     (t.coreAt s.subj.core).heapUntil =
       (if (s.coreAt s.subj.core).heapUntil ≤ s.cycle then 0 else (s.coreAt s.subj.core).heapUntil))

/-- R123, R141, R236, R341: a write of bytes within a granule. They read as written and every other byte of every scratchpad as
before, and no tag changes; every armed monitor of the core on the granule becomes pending and no other; the granule's old
bytes are recorded at its first write in the interval and not again. R141: a write to a marked granule, of bytes or of its tag,
clears the mark and releases every waiter there that nothing has released before with reason 1; one to an unmarked granule
releases none. R120–R123, R129–R132, R237: what an access does when its
bank performs it. A read's value is due three cycles later; a store's bytes are written and counted off; a tag is written or
read; a monitor is armed. R121: an access whose bank has served another in the cycle, or whose granule the undo logger must
record first, comes again in the next cycle, and all behind it a cycle later (the logger's turns within a cycle are the model's
reading, log 73). -/
def Obligations.ScratchpadStores : Prop :=
  (∀ (s : State) (c off : Nat) (bs : List Byte) (nu : Bool), s.Canonical → off % 64 + bs.length ≤ 64 →
     let g := off / 64
     let t := s.spadWrite c off bs nu
     let rin := (s.coreAt c).rinCur
     t.Canonical ∧ t.spadRead c off bs.length = bs ∧
     (∀ k, k < spadKey c off ∨ spadKey c off + bs.length ≤ k → mget t.spad k = mget s.spad k) ∧
     t.spadTag = s.spadTag ∧ t.hbm = s.hbm ∧ t.hbmTag = s.hbmTag ∧ t.host = s.host ∧ t.istore = s.istore ∧
     (∀ sl th, s.threadAt c sl = some th → ∃ u, t.threadAt c sl = some u ∧ u.s = th.s ∧ u.pc = th.pc ∧
       ∀ n, n < 4 → vget ⟨false, 0, false⟩ u.mon n =
         let m := vget ⟨false, 0, false⟩ th.mon n
         if m.armed = true ∧ m.line = g then { m with pend := true } else m) ∧
     (s.hasUndo rin c g false = true → t.undo = s.undo) ∧
     (s.hasUndo rin c g false = false → ∃ u, t.undo = s.undo ++ [u] ∧ u.rin = rin ∧ u.home = c ∧ u.gran = g ∧
       u.old = (if nu = true ∧ (s.markAt c g).mark = false then none else some (s.spadRead c (64 * g) 64)) ∧
       u.tag = s.spadTagAt c g)) ∧
  (∀ (s t : State) (c g : Nat) (bs : List Byte) (tag : BitVec 4) (nu : Bool) (off : Nat), off / 64 = g →
     t = s.spadWrite c off bs nu ∨ t = s.spadTagWrite c g tag nu →
     ((s.markAt c g).mark = true → (t.markAt c g).mark = false ∧ (t.markAt c g).cause = 1) ∧
     ((s.markAt c g).mark = false → t.markAt c g = s.markAt c g) ∧
     ∀ sl th, s.threadAt c sl = some th → ∃ u, t.threadAt c sl = some u ∧
       (∀ x, th.barX = some x → (s.markAt c g).mark = true → x.far = false → x.addr.toNat / 64 % 2 ^ 14 = g → x.freed = none →
         u.barX = some { x with freed := some 1 }) ∧
       (∀ x, th.barX = some x → (s.markAt c g).mark = false ∨ x.addr.toNat / 64 % 2 ^ 14 ≠ g ∨ x.freed.isSome = true →
         u.barX = some x)) ∧
  (∀ (s0 : State) (c : Nat) (a : LocalAcc),
     s0.localHeld c a = false → (s0.coreAt c).bankTaken s0.cycle [a.off / 64] = false →
     ((s0.accWrites c a).filter fun g => s0.needsRecord c g a.noundo) = [] →
     let run := exec (.localAccessPerformed c a) s0
     let s := s0.takeBanks c [a.off / 64]
     let done (t : State) : State := t.localIn c a
     let late (e : Instr) : Out := .next (done (s.after 3 e))
     (∀ n sg d dc, a.op = .read n sg d dc → run = late (.localLoadWriteback
       ⟨a.who, d, (extend sg (leNat (s.spadRead c a.off n)) (8 * n)).toNat, dc⟩)) ∧
     (∀ r l dc, a.op = .readV r l dc →
       run = late (.localLoadWriteback ⟨a.who, (match l with | some g => .vgroup g.1 g.2 | none => .vpart r),
         leNat (s.spadRead c a.off 64), dc⟩)) ∧
     (∀ bs l dc, a.op = .write (cellsAt a.off bs) l dc → bs ≠ [] → run = .next (done
       (if l then (s.spadWrite c a.off bs a.noundo).decD a.who dc else s.spadWrite c a.off bs a.noundo))) ∧
     (∀ k dc, a.op = .segld k dc → run = late (.segldComplete a.who a.org k (wd (leNat (s.spadRead c a.off 8)))
       (wd (leNat (s.spadRead c (a.off + 8) 8))) dc)) ∧
     (∀ b x dc, a.op = .segst b x dc →
       run = .next (done ((s.spadWrite c a.off (toLE 8 b.toNat ++ toLE 8 x.toNat) a.noundo).decD a.who dc))) ∧
     (∀ g, a.op = .tagset g → run = .next (done (s.spadTagWrite c (a.off / 64) g a.noundo))) ∧
     (∀ x d, a.op = .tagget x d → run = late (.localLoadWriteback
       ⟨a.who, d, x.toNat % 2 ^ 60 + (s.spadTagAt c (a.off / 64)).toNat * 2 ^ 60, none⟩)) ∧
     (∀ n, a.op = .arm n →
       run = .next (done (s.modWho a.who fun t => { t with mon := vset t.mon n ⟨true, a.off / 64, false⟩ })))) ∧
  (∀ (s : State) (c : Nat) (a : LocalAcc),
     (s.coreAt c).bankTaken s.cycle (s.accGrans c a) = true ∨
       (s.localHeld c a = false ∧ ∃ g ∈ s.accWrites c a, s.needsRecord c g a.noundo = true) →
     ∃ t, exec (.localAccessPerformed c a) s = .next t ∧ (s.cycle + 1, ⟨.localAccessPerformed c a, {}⟩) ∈ t.agenda ∧
       t.spad = s.spad ∧ t.spadTag = s.spadTag ∧ (t.coreAt c).localFree = (s.coreAt c).localFree + 1)

/-- R79, R83, R107, R121, R133: a tracked result is written to its register, which becomes full, and its dependence counter
falls; a division also frees its slot's divider. Nothing else of the thread and nothing of memory changes. R47, R124, R131: a
`segld` completes. A descriptor with reserved bits set, or valid and covered by none of the domain's eight, is refused: its
thread traps as SegmentRights, subcode 2, and the register keeps its value; another is written. R131: a domain descriptor
covers another exactly if it is valid, in the same space, its range takes the other's in, it grants every right the other
has, and NOUNDO agrees. -/
def Obligations.TrackedResultsAndSegments : Prop :=
  (∀ (s : State) (w : Wb) (th : Thread) (r : Nat), s.threadAt w.who.core w.who.slot = some th → th.tid = w.who.tid → r < 16 →
     w.dst = .sreg r →
     let full : Thread := { th with s := vset th.s r (wd w.val), sEmpty := setBit th.sEmpty r false }
     let counted : Thread := match w.dc with
       | some n => { full with d := vset th.d n (vget 0 th.d n - 1) }
       | none => full
     let only (i : Instr) (u : Thread) : Prop := ∃ t, exec i s = .next t ∧ s.SameMemory t ∧ s.SameOthers t w.who.core ∧
       t.threadAt w.who.core w.who.slot = some u ∧
       ∀ sl, sl ≠ w.who.slot → t.threadAt w.who.core sl = s.threadAt w.who.core sl
     only (.localLoadWriteback w) counted ∧ only (.trackedRegisterWrite w) counted ∧ only (.divideComplete w) full ∧
     ∃ t, exec (.divideComplete w) s = .next t ∧
       (t.coreAt w.who.core).divBusy = setBit (s.coreAt w.who.core).divBusy w.who.slot false) ∧
  (∀ (s : State) (who : SlotRef) (org : Origin) (k : Nat) (base attr : Word) (dc : Option Nat) (th : Thread) (set : List Seg),
     s.threadAt who.core who.slot = some th → th.tid = who.tid → k < 8 → (s.domAt th.pdid).v = true →
     tget (s.coreAt who.core).segCache th.pdid = some set →
     let d : Seg := ⟨base, attr⟩
     let ok := attr.toNat / 2 ^ 48 = 0 ∧ (attr.getLsbD 47 = true → ∃ e ∈ set, covers e d = true)
     ∃ t u, exec (.segldComplete who org k base attr dc) s = .next t ∧ t.threadAt who.core who.slot = some u ∧
       u.sgBusy = setBit th.sgBusy k false ∧ s.SameMemory t ∧
       (ok → u.sg = vset th.sg k d ∧ t.agenda = s.agenda) ∧
       (¬ok → u.sg = th.sg ∧ (s.cycle, ⟨.trapReportAfterIssue who org ⟨6, 2, 0, 0⟩, {}⟩) ∈ t.agenda)) ∧
  (∀ (e d : Seg), covers e d = true ↔
     (e.attr.getLsbD 47 = true ∧ e.base.toNat / 2 ^ 57 % 8 = d.base.toNat / 2 ^ 57 % 8 ∧
       e.base.toNat % 2 ^ 57 ≤ d.base.toNat % 2 ^ 57 ∧
       d.base.toNat % 2 ^ 57 + d.attr.toNat % 2 ^ 43 ≤ e.base.toNat % 2 ^ 57 + e.attr.toNat % 2 ^ 43 ∧
       (d.attr.getLsbD 43 = true → e.attr.getLsbD 43 = true) ∧ (d.attr.getLsbD 44 = true → e.attr.getLsbD 44 = true) ∧
       (d.attr.getLsbD 46 = true → e.attr.getLsbD 46 = true) ∧ d.attr.getLsbD 45 = e.attr.getLsbD 45))

/-- R146–R148, R156, R158: element-wise integer instructions: every active lane of the group, at the lane's width modulo 2^width,
no flag, latency 2. -/
def Obligations.VectorIntegerLanes : Prop :=
  ∀ (s : State) (h : AHead) (o : VR) (q : VU), s.Issues h.neg h.grd →
    let b := intWidth o.w
    let u := vrUse o true false 2
    let x (k : Nat) : Nat := lane (s.vsrc u.srcs 0) b k
    let y (k : Nat) : Nat := lane (s.vsrc u.srcs 1) b k
    let on (v : BitVec 3) (b k : Nat) : Bool := (s.ctx.pre.mreg v.toNat).getLsbD (k % (if b = 64 then 16 else 512 / b))
    let two (i : Instr) (f : Nat → Nat → Nat) : Prop := s.lanesGive i u b (2 ^ o.g.toNat * laneCount b) fun k =>
      if on o.vm b k then some (f (x k) (y k), 0) else none
    let c := intWidth q.w
    let w := vuUse q true 2
    let one (i : Instr) (f : Nat → Nat) : Prop := s.lanesGive i w c (2 ^ q.g.toNat * laneCount c) fun k =>
      if on q.vm c k then some (f (lane (s.vsrc w.srcs 0) c k), 0) else none
    two (.vaddI h o) (fun x y => x + y) ∧ two (.vsubI h o) (fun x y => x + (2 ^ b - y)) ∧
    two (.vmulI h o) (fun x y => x * y) ∧
    two (.vminS h o) (fun x y => if sintOf x b ≤ sintOf y b then x else y) ∧
    two (.vmaxS h o) (fun x y => if sintOf x b ≤ sintOf y b then y else x) ∧
    two (.vminN h o) (fun x y => if x ≤ y then x else y) ∧ two (.vmaxN h o) (fun x y => if x ≤ y then y else x) ∧
    two (.vand h o) (fun x y => x &&& y) ∧ two (.vor h o) (fun x y => x ||| y) ∧ two (.vxor h o) (fun x y => x ^^^ y) ∧
    two (.vshl h o) (fun x y => x * 2 ^ (y % b)) ∧ two (.vshr h o) (fun x y => x / 2 ^ (y % b)) ∧
    two (.vsra h o) (fun x y => (sintOf x b / ((2 ^ (y % b) : Nat) : Int) % ((2 ^ b : Nat) : Int)).toNat) ∧
    one (.vabsI h q) (fun x => (sintOf x c).natAbs) ∧ one (.vnegI h q) (fun x => 2 ^ c - x) ∧ one (.vmov h q) (fun x => x)

/-- R90, R156, R157, R166, R167: element-wise float instructions: every active lane is the scalar operation of its lanes in
STATUS.RM, latency 4; minimum, maximum and sign operations on the bits, latency 2; the four approximations, latency 6. R167:
the special operands of the approximations, on values: NaN, ±0, ±∞ and negative numbers, with their flags, in the three float
formats (a lane x read as a number). -/
def Obligations.VectorFloatLanes : Prop :=
  (∀ (s : State) (h : AHead) (o : VR) (q : VU), s.Issues h.neg h.grd →
     let t := s.ctx.pre
     let f := fmtOf o.w.toNat
     let b := f.width
     let mode := if t.rm ≤ 4 then t.rm else 0
     let on (v : BitVec 3) (b k : Nat) : Bool := (t.mreg v.toNat).getLsbD (k % laneCount b)
     let two (i : Instr) (acc : Bool) (lat : Nat) (g : Nat → Nat → Nat → Nat × BitVec 5) : Prop :=
       let u := vrUse o false acc lat
       s.lanesGive i u b (2 ^ o.g.toNat * laneCount b) fun k => if on o.vm b k then
         some (g (lane (s.vsrc u.srcs 0) b k) (lane (s.vsrc u.srcs 1) b k) (lane (s.vdst u) b k)) else none
     let num (x : Nat) : Machine.Num := readFmt f false x
     let c := (fmtOf q.w.toNat).width
     let one (i : Instr) (lat : Nat) (g : Nat → Nat × BitVec 5) : Prop :=
       let u := vuUse q false lat
       s.lanesGive i u c (2 ^ q.g.toNat * laneCount c) fun k =>
         if on q.vm c k then some (g (lane (s.vsrc u.srcs 0) c k)) else none
     two (.vaddF h o) false 4 (fun x y _ => fAdd f mode (num x) (num y)) ∧
     two (.vsubF h o) false 4 (fun x y _ => fAdd f mode (num x) (num y).negate) ∧
     two (.vmulF h o) false 4 (fun x y _ => fMul f mode (num x) (num y)) ∧
     two (.vfma h o) true 4 (fun x y z => fFma f mode (num x) (num y) (num z)) ∧
     two (.vfms h o) true 4 (fun x y z => fFma f mode (num x) (num y) (num z).negate) ∧
     two (.vminF h o) false 2 (fun x y _ => fMinMax f false x y (num x) (num y)) ∧
     two (.vmaxF h o) false 2 (fun x y _ => fMinMax f true x y (num x) (num y)) ∧
     one (.vabsF h q) 2 (fun x => (x % 2 ^ (c - 1), 0)) ∧
     one (.vnegF h q) 2 (fun x => ((x + 2 ^ (c - 1)) % 2 ^ c, 0)) ∧
     one (.vrcp h q) 6 (rcpLane (fmtOf q.w.toNat)) ∧ one (.vrsq h q) 6 (rsqLane (fmtOf q.w.toNat)) ∧
     one (.vexp2 h q) 6 (exp2Lane (fmtOf q.w.toNat)) ∧ one (.vlog2 h q) 6 (log2Lane (fmtOf q.w.toNat))) ∧
  (∀ (ft x : Nat), ft < 3 →
     let f := fmtOf ft
     let v := readFmt f false x
     let nan : Nat := if ft = 0 then 0x7FC00000 else if ft = 1 then 0x7E00 else 0x7FC0
     let inf : Nat := if ft = 0 then 0x7F800000 else if ft = 1 then 0x7C00 else 0x7F80
     let top : Nat := if ft = 0 then 0x80000000 else 0x8000
     let sgn (n : Bool) (c : Nat) : Nat := if n then top + c else c
     (∀ g, v = .nan g → ∀ fn ∈ [rcpLane, rsqLane, exp2Lane, log2Lane], fn f x = (nan, if g then 16 else 0)) ∧
     (∀ n, v = .inf n → rcpLane f x = (sgn n 0, 0) ∧ rsqLane f x = (if n then (nan, 16) else (0, 0)) ∧
       exp2Lane f x = (if n then 0 else inf, 0) ∧ log2Lane f x = (if n then (nan, 16) else (inf, 0))) ∧
     (∀ n e, v = .fin n 0 e → rcpLane f x = (sgn n inf, 8) ∧ rsqLane f x = (sgn n inf, 8) ∧ log2Lane f x = (top + inf, 8)) ∧
     (∀ m e, v = .fin true m e → m ≠ 0 → rsqLane f x = (nan, 16) ∧ log2Lane f x = (nan, 16)))

/-- R159, R161: compares write a lane mask: bit k is the relation in active lane k, and 0 elsewhere; mask logic acts on all 64
bits; `mpop` counts. All have latency 2. R160, R162–R164: selection, permutation, compression and expansion, broadcast,
extraction and insertion of lanes. -/
def Obligations.MaskAndLaneResults : Prop :=
  (∀ (s : State) (h : AHead) (o : VC) (md ma mb : BitVec 3) (sd : BitVec 5), s.Issues h.neg h.grd →
     let t := s.ctx.pre
     let m := t.mreg o.vm.toNat
     let s0 := s.onWord true
     let due (s : State) (r : BitVec 3) (v : Word) (fl : BitVec 5) : State := s.addDue (.mreg r.toNat) 2 v.toNat (2 ^ 64 - 1) fl
     let cmp (i : Instr) (b n : Nat) (rel : Nat → Nat → Bool × BitVec 5) : Prop :=
       let u : VecUse := { srcs := [(o.va.toNat, n), (o.vb.toNat, n)], masks := [o.vm.toNat] }
       let r (k : Nat) := rel (lane (s.vsrc u.srcs 0) b k) (lane (s.vsrc u.srcs 1) b k)
       ∃ (v : Word) (fl : BitVec 5), exec i s = .next (due (u.take s0) o.md v fl) ∧
         (∀ k, k < 64 → v.getLsbD k = (decide (k < laneCount b) && m.getLsbD k && (r k).1)) ∧
         ∀ j, fl.getLsbD j = true ↔ ∃ k, k < laneCount b ∧ m.getLsbD k = true ∧ (r k).2.getLsbD j = true
     cmp (.vcmpF h o) (fltWidth o.w) 1 (fltCC o.cc.toNat (fmtOf o.w.toNat)) ∧
     cmp (.vcmpI h o) (intWidth o.w) (if o.w = 3 then 2 else 1) (intCC o.cc.toNat (intWidth o.w)) ∧
     exec (.mand h md ma mb) s = .next (due s0 md (t.mreg ma.toNat &&& t.mreg mb.toNat) 0) ∧
     exec (.mor h md ma mb) s = .next (due s0 md (t.mreg ma.toNat ||| t.mreg mb.toNat) 0) ∧
     exec (.mnot h md ma) s = .next (due s0 md (~~~(t.mreg ma.toNat)) 0) ∧
     exec (.mpop h sd ma) s = .next (s0.result sd 2 (wd ((List.range 64).countP fun i => (t.mreg ma.toNat).getLsbD i)))) ∧
  (∀ (s : State) (h : AHead) (o : VR) (p : VP) (c : VCE) (x : VX) (v sr : BitVec 5) (w : BitVec 2) (ln : BitVec 6),
     s.Issues h.neg h.grd →
     let t := s.ctx.pre
     let len (b : Nat) : Nat := if b = 64 then 16 else 512 / b
     let on (m : BitVec 3) (b k : Nat) : Bool := (t.mreg m.toNat).getLsbD (k % len b)
     let pair (w : BitVec 2) : Nat := if w = 3 then 2 else 1
     (let b := intWidth o.w
      let u := vrUse o true false 2
      s.lanesGive (.vsel h o) u b (2 ^ o.g.toNat * len b) fun k =>
        some (lane (s.vsrc u.srcs (if on o.vm b k then 0 else 1)) b k, 0)) ∧
     (let b := intWidth p.w
      let u : VecUse := { srcs := [(p.va.toNat, pair p.w), (p.vb.toNat, pair p.w)], dst := some (p.vd.toNat, pair p.w)
                          masks := [p.vm.toNat] }
      s.lanesGive (.vperm h p) u b (len b) fun k => if on p.vm b k then
        some (lane (s.vsrc u.srcs 0) b (lane (s.vsrc u.srcs 1) b k % len b), 0) else none) ∧
     (let b := intWidth c.w
      let u := vceUse c
      let below (k : Nat) : Nat := (List.range k).countP fun j => on c.vm b j
      s.lanesGive (.vexpand h c) u b (len b) (fun k => if on c.vm b k then
        some (lane (s.vsrc u.srcs 0) b (below k), 0) else none) ∧
      ∃ f : Nat → Nat, s.lanesGive (.vcompress h c) u b (len b) (fun j => some (f j, 0)) ∧
        (∀ k, k < len b → on c.vm b k = true → f (below k) = lane (s.vsrc u.srcs 0) b k) ∧
        ∀ j, below (len b) ≤ j → f j = 0) ∧
     (let b := intWidth w
      s.lanesGive (.vbcast h v sr w) { srcs := [], dst := some (v.toNat, pair w) } b (len b)
        (fun _ => some ((s.sval sr).toNat, 0)) [sr] ∧
      exec (.vext h sr v ln w) s = .next ((({ srcs := [(v.toNat, pair w)] } : VecUse).take (s.onWord true)).result sr 2
        (wd (lane (s.vsrc [(v.toNat, pair w)] 0) b ln.toNat)))) ∧
     (let b := intWidth x.w
      s.lanesGive (.vins h x) { srcs := [], accum := true, dst := some (x.v.toNat, pair x.w) } b (len b)
        (fun k => if k = x.lane.toNat then some ((s.sval x.s).toNat, 0) else none) [x.s]))

/-- R165: reductions: one result in lane 0 with zeros above it, latency 6. The integer operations on the active lanes: the sum
modulo 2^width; and, or and exclusive or bit by bit; the least and the greatest. The float operations halve the lanes level by
level, lane i with lane i + half: a sum rounded at each step, an inactive lane entering as −0; the least or greatest of R90, an
inactive lane left out, and an infinity where all are; the flags are those of the steps. R74–R77: conversions of vectors and of block
formats, element by element, latency 3; beyond its four blocks `vpackbx` writes zeros. -/
def Obligations.ReductionAndConversionResults : Prop :=
  (∀ (s : State) (h : AHead) (o : VRD), s.Issues h.neg h.grd → 3 ≤ o.op.toNat → o.op.toNat ≤ 10 →
     let b := intWidth o.w
     let n := if o.w = 3 then 2 else 1
     let u : VecUse :=
       { srcs := [(o.va.toNat, 2 ^ o.g.toNat * n)], dst := some (o.vd.toNat, n), lat := 6, masks := [o.vm.toNat]
         units := 2 ^ o.g.toNat }
     let len := if b = 64 then 16 else 512 / b
     let on (k : Nat) : Bool := (s.ctx.pre.mreg o.vm.toNat).getLsbD (k % len)
     let xs := ((List.range (2 ^ o.g.toNat * len)).filter on).map fun k => lane (s.vsrc u.srcs 0) b k
     ∃ v, exec (.vred h o) s = .next ((u.take (s.onWord true)).vresult u v (2 ^ (512 * n) - 1) 0) ∧ v < 2 ^ b ∧
       (o.op.toNat = 3 → v = xs.sum % 2 ^ b) ∧
       (o.op.toNat = 4 → (xs = [] ∧ v = 2 ^ (b - 1) - 1) ∨ v ∈ xs ∧ ∀ x ∈ xs, sintOf v b ≤ sintOf x b) ∧
       (o.op.toNat = 5 → (xs = [] ∧ v = 2 ^ (b - 1)) ∨ v ∈ xs ∧ ∀ x ∈ xs, sintOf x b ≤ sintOf v b) ∧
       (o.op.toNat = 6 → (xs = [] ∧ v = 2 ^ b - 1) ∨ v ∈ xs ∧ ∀ x ∈ xs, v ≤ x) ∧
       (o.op.toNat = 7 → (xs = [] ∧ v = 0) ∨ v ∈ xs ∧ ∀ x ∈ xs, x ≤ v) ∧
       (o.op.toNat = 8 → ∀ j, j < b → v.testBit j = xs.all fun x => x.testBit j) ∧
       (o.op.toNat = 9 → ∀ j, j < b → v.testBit j = xs.any fun x => x.testBit j) ∧
       (o.op.toNat = 10 → ∀ j, j < b → v.testBit j = decide (xs.countP (fun x => x.testBit j) % 2 = 1))) ∧
  (∀ (s : State) (h : AHead) (o : VRD), s.Issues h.neg h.grd → o.op.toNat ≤ 2 → o.w ≠ 3 →
     let f := fmtOf o.w.toNat
     let b := if o.w = 0 then 32 else 16
     let u : VecUse :=
       { srcs := [(o.va.toNat, 2 ^ o.g.toNat)], dst := some (o.vd.toNat, 1), lat := 6, masks := [o.vm.toNat]
         units := 2 ^ o.g.toNat }
     let len := 512 / b
     let levels := o.g.toNat + (if o.w = 0 then 4 else 5)
     let absent : Option Nat := if o.op = 0 then some (2 ^ (b - 1)) else none
     let num (x : Nat) : Machine.Num := readFmt f false x
     let mode := if s.ctx.pre.rm ≤ 4 then s.ctx.pre.rm else 0
     let both (p q : Nat) : Nat × BitVec 5 :=
       if o.op = 0 then fAdd f mode (num p) (num q) else fMinMax f (o.op == 2) p q (num p) (num q)
     let op (x y : Option Nat) : Option Nat × BitVec 5 :=
       match x, y with
       | none, _ => (y, 0)
       | _, none => (x, 0)
       | some p, some q => (some (both p q).1, (both p q).2)
     let inf : Nat := if o.w = 0 then 0x7F800000 else if o.w = 1 then 0x7C00 else 0x7F80
     ∃ x : Nat → Nat → Option Nat × BitVec 5,
       (∀ k, k < 2 ^ levels → x 0 k =
         (if (s.ctx.pre.mreg o.vm.toNat).getLsbD (k % len) then some (lane (s.vsrc u.srcs 0) b k) else absent, 0)) ∧
       (∀ j i, j < levels → i < 2 ^ (levels - 1 - j) →
         let y := x j i
         let z := x j (i + 2 ^ (levels - 1 - j))
         x (j + 1) i = ((op y.1 z.1).1, y.2 ||| z.2 ||| (op y.1 z.1).2)) ∧
       exec (.vred h o) s = .next ((u.take (s.onWord true)).vresult u
         ((x levels 0).1.getD (if o.op = 1 then inf else 2 ^ (b - 1) + inf)) (2 ^ 512 - 1) (x levels 0).2)) ∧
  (∀ (s : State) (h : AHead) (o : ACV) (p : VBX), s.Issues h.neg h.grd → o.frm.toNat < 13 → o.dst.toNat < 13 →
     let t := s.ctx.pre
     let mode (rm : BitVec 3) : Nat := effRM rm.toNat t.rm
     (let ff := fmtOf o.frm.toNat
      let fd := fmtOf o.dst.toNat
      let u := vcvtUse o
      s.lanesGive (.vcvt h o) u fd.width (cvtCount ff.width fd.width) fun k =>
        some (convert fd t.topx (mode o.rm) (readFmt ff t.topx (lane (s.vsrc u.srcs 0) ff.width k)))) ∧
     (let f := fmtOf p.ft.toNat
      let n := if p.ft = 0 then 4 else 2
      let w := bxWidth p.bx.toNat
      let size := 8 * (2 + 2 * w)
      let up : VecUse := { srcs := [(p.va.toNat, 1)], dst := some (p.vd.toNat, n), lat := 3, units := n }
      let down : VecUse := { srcs := [(p.va.toNat, n)], dst := some (p.vd.toNat, 1), lat := 3, units := n }
      s.lanesGive (.vunpbx h p) up f.width 64 (fun k =>
        let blk := lane (s.vsrc up.srcs 0) size (k / 16)
        some (convert f false (mode p.rm) (blockElem w t.topx (blk % 256) (blk / 256 % 256) (blk / 65536) (k % 16)))) ∧
      ∃ v fl, exec (.vpackbx h p) s = .next ((down.take (s.onWord true)).vresult down v (2 ^ 512 - 1) fl) ∧
        v < 2 ^ (4 * size) ∧ ∀ j, j < 4 →
          let xs := (List.range 16).map fun i => readFmt f false (lane (s.vsrc down.srcs 0) f.width (16 * j + i))
          let r := packBlock xs w (mode p.rm) t.topx
          lane v size j = (r.1 + 256 * r.2.1 + 65536 * r.2.2.1) % 2 ^ size ∧ fl ||| r.2.2.2 = fl))

/-- R102, R147, R153: a vector result is due to every register of its group under its mask, or, where the group is a register
bound to a write stream, is pushed: the stream moves on by one granule and the push is queued when the result is due. The
frame of the vector words: at issue memory and every other core and slot stay, and of the issuing thread only the positions
of streams and the count of its local accesses can change (R102, R153). -/
def Obligations.VectorResultAndFrame : Prop :=
  (∀ (s : State) (u : VecUse) (r n val mask : Nat) (fl : BitVec 5), u.dst = some (r, n) →
     (s.unbound r n → s.boundReg r = none →
       let t := s.vresult u val mask fl
       t.threadAt = s.threadAt ∧ t.spad = s.spad ∧
       (t.coreAt s.ctx.core).due = (s.coreAt s.ctx.core).due ++ (List.range n).map fun i =>
         ⟨s.ctx.slot, s.view.tid, .vreg (r + i), val / 2 ^ (512 * i) % 2 ^ 512, mask / 2 ^ (512 * i) % 2 ^ 512,
           s.cycle + u.lat, if i = 0 then fl else 0⟩) ∧
     (∀ x y th, n = 1 → 28 ≤ r → r < 32 → s.boundReg r = some x → s.cur = some th → s.ctx.mode = .commit →
       vget none th.streams (r - 28) = some y →
       ∃ t', (s.vresult u val mask fl).cur = some t' ∧
         vget none t'.streams (r - 28) = some { y with pos := y.pos + 1, pushes := y.pushes + 1 } ∧
         (s.cycle + u.lat, ⟨.streamPushQueued s.me s.ctx.org r ⟨x.off x.pos, x.noundo, if x.tagx then none else some x.tag⟩
           (BitVec.ofNat 512 val) (byteMask mask), {}⟩) ∈
           (s.vresult u val mask fl).agenda)) ∧
  (∀ (i : Instr) (s t : State), vectorWord i = true → s.ctx.mode = .commit → exec i s = .next t →
     s.SameMemory t ∧ s.SameOthers t s.ctx.core ∧
     (∀ sl, sl ≠ s.ctx.slot → t.threadAt s.ctx.core sl = s.threadAt s.ctx.core sl) ∧
     (∀ th, s.cur = some th → ∃ x n, t.cur = some { th with streams := x, localOut := n }) ∧
     t = { s with ctx := t.ctx, agenda := t.agenda, cores := t.cores } ∧
     t.coreAt s.ctx.core = { s.coreAt s.ctx.core with
       threads := (t.coreAt s.ctx.core).threads
       queues := (t.coreAt s.ctx.core).queues
       due := (t.coreAt s.ctx.core).due
       localFree := (t.coreAt s.ctx.core).localFree
       localAt := (t.coreAt s.ctx.core).localAt
       vecUntil := (t.coreAt s.ctx.core).vecUntil })

/-- R152, R155: `sbind` of 0 unbinds; of a descriptor it binds the register at position 0 with what the segment's flags are now,
and queues the reads of the first four granules of a read stream; `srep` sets the count of repetitions, or, given 0, the rest
of the lowest-numbered bound read stream. R150, R153: the steps of the vector unit and of streams: the unit is free at the
end of its occupation; a granule that was read may be popped; a push enters the local queue, and frees its place. -/
def Obligations.VectorStreams : Prop :=
  (∀ (s : State) (h : AHead) (v x : BitVec 5), s.Issues h.neg h.grd → 28 ≤ v.toNat →
     let d := s.sval x
     let g := s.ctx.pre.seg (d.toNat / 2 ^ 60 % 8)
     let a := g.addr (d.toNat % 2 ^ 32 : Nat)
     let y : Stream := ⟨d, a, tagOf a, g.tagx, g.noundo, 0, [], 0, s.cycle⟩
     let set (o : Option Stream) : State := (s.onWord true).modCur fun t => { t with streams := vset t.streams (v.toNat - 28) o }
     let n := d.toNat % 2 ^ 14
     (d = 0 → exec (.sbind h v x) s = .next ((set none).popAll (popsOf [x]))) ∧
     (d ≠ 0 → d.getLsbD 63 = true → exec (.sbind h v x) s = .next ((set (some y)).popAll (popsOf [x]))) ∧
     (d ≠ 0 → d.getLsbD 63 = false → exec (.sbind h v x) s = .next (((set (some y)).queueLocal s.ctx.core
       ((List.range (if streamLen d < 4 then streamLen d else 4)).map fun i =>
         ⟨s.me, (set (some y)).ctx.org, y.off i, false, .streamRead (v.toNat + 32 * s.cycle) i⟩)).popAll (popsOf [x]))) ∧
     exec (.srep h x) s = .next (((s.onWord true).modCur fun t =>
       { t with srep := some (if n = 0 then t.restOfStream else n) }).popAll (popsOf [x]))) ∧
  (∀ (s : State) (who : SlotRef) (org : Origin) (r idx off : Nat) (val : VReg) (mask : Word) (th : Thread) (x : Stream),
     s.threadAt who.core who.slot = some th → th.tid = who.tid → 28 ≤ r → r < 32 →
     vget none th.streams (r - 28) = some x →
     (∃ t, exec .vectorUnitFree s = .next t ∧ s.SameMemory t ∧ s.SameThreads t ∧
       (t.coreAt s.subj.core).vecUntil =
         (if (s.coreAt s.subj.core).vecUntil ≤ s.cycle then 0 else (s.coreAt s.subj.core).vecUntil)) ∧
     (∃ t u, exec (.streamReadAvailable who (r + 32 * x.gen) idx) s = .next t ∧ s.SameMemory t ∧
       t.threadAt who.core who.slot = some u ∧ u = { th with streams := u.streams } ∧
       vget none u.streams (r - 28) =
         some { x with avail := x.avail.map fun a => if a.1 = idx then (a.1, a.2.1, true) else a }) ∧
     (∀ nu tg, let k := s.coreAt who.core
       let free := if k.localAt = s.cycle then k.localFree - 1 else k.localFree
       ∃ t u, exec (.streamPushQueued who org r ⟨off, nu, tg⟩ val mask) s = .next t ∧ s.SameMemory t ∧
       t.threadAt who.core who.slot = some u ∧ vget none u.streams (r - 28) = some { x with pushes := x.pushes - 1 } ∧
       u.localOut = th.localOut + 1 ∧
       ((if s.cycle + 2 < free then free else s.cycle + 2),
         ⟨.localAccessPerformed who.core ⟨who, org, off, nu, .streamWrite r val mask tg⟩, {}⟩) ∈ t.agenda))

/-- R171, R172, R174, R182, R185–R188: a tile word that passes its checks enters its queue as one operation with the bits of its
A-word, the physical tiles its names stand for and their configurations, all as they are at issue; `tcfg` writes a
configuration. R183, R184, R191: a tile movement that passes its checks becomes one pending operation of the load path, and
the granules it touches are queued one access each in ascending order, a cycle each, the last one marked. The frame of the tile words and
movements: at issue memory and tiles, every other core and slot stay, and of the issuing thread only a tile configuration, a
full/empty bit and the count of local accesses can change (R174, R182). -/
def Obligations.TileWords : Prop :=
  (∀ (s : State) (h : AHead) (ch : CHead) (o : TMM) (td ta tb tm : BitVec 3) (n : BitVec 4) (fmt : BitVec 4) (rm : BitVec 3)
     (k : BitVec 6) (b : BitVec 5), s.Issues h.neg h.grd → s.Issues ch.neg ch.grd →
     let s0 := s.onWord true
     let t := s.ctx.pre
     let enters (i : Instr) (fn : Nat) (d : BitVec 3) (srcs : List (BitVec 3)) : Prop :=
       ∃ w m, (encode i).map (·.word) = some w ∧
         exec i s = .next ((s0.opId s.ctx.core).1.enterOp s.ctx.core m) ∧
         m = t.newOp s.curCore.nextOp s.ctx.slot t.tid s0.ctx.org w none ∧ m.word = w ∧ m.fn = fn ∧
         m.dst = t.tile d.toNat ∧ m.srcs = srcs.map (fun x => t.tile x.toNat) ∧ m.done = 0
     enters (.tzero h td) 0 td [] ∧ enters (.tmma h o) 1 o.td [o.ta, o.tb] ∧
     enters (.tmmas h o tm n) 2 o.td [o.ta, o.tb, tm] ∧ enters (.ttrans h td ta) 3 td [ta] ∧
     enters (.tadd h td ta tb) 4 td [ta, tb] ∧ enters (.tcvt h td ta fmt rm) 5 td [ta] ∧ enters (.tsel h td ta k) 6 td [ta] ∧
     exec (.tcfg ch td b) s = .next (((s.onWord false).modCur fun x =>
       { x with tcfg := vset x.tcfg td.toNat (s.sval b) }).popAll (popsOf [b]))) ∧
  (∀ (s : State) (h : CHead) (t : BitVec 3) (m : MemR) (a : Word), s.Issues h.neg h.grd → s.isLocal a = true →
     let s0 := s.onWord false
     let c := vget 0 s.ctx.pre.tcfg t.toNat
     let off := a.toNat % 2 ^ 20
     let size := (tcRows c - 1) * tcPitch c + tcRow c
     let moves (i : Instr) (kind : LoadKind) (gs : List Nat) : Prop :=
       let r := s0.opId s.ctx.core
       let o : LOp := ⟨r.2, kind, s.me, s0.ctx.org, t.toNat, s.ctx.pre.tile t.toNat, off, []⟩
       exec i s = .next (((r.1.modCore s.ctx.core fun k => { k with lops := k.lops ++ [o] }).queueRun s.ctx.core
         (gs.zipIdx.map fun g => ⟨s.me, s0.ctx.org, 64 * g.1, (s.ctx.pre.seg m.sg.toNat).noundo,
           .loadPath r.2 0 (g.2 + 1 = gs.length)⟩)).popAll (popsOf [m.idx]))
     (s.check (s.refR m) size true false 16 = .ok a → moves (.tld h t m) .tld (tileGranules c off)) ∧
     (s.check (s.refR m) size false true 16 = .ok a → moves (.tst h t m) .tst (tileGranules c off)) ∧
     (s.check (s.refR m) 6720 false true 64 = .ok a → moves (.tsave h t m) .tsave (granulesOf off 6720)) ∧
     (s.check (s.refR m) 6720 true false 64 = .ok a → moves (.trest h t m) .trest (granulesOf off 6720))) ∧
  (∀ (i : Instr) (s t : State), tileWord i = true → s.ctx.mode = .commit → exec i s = .next t →
     s.SameMemory t ∧ s.SameOthers t s.ctx.core ∧
     (∀ sl th, s.threadAt s.ctx.core sl = some th → ∃ c e n q o a,
       t.threadAt s.ctx.core sl =
         some { th with tcfg := c, sEmpty := e, localOut := n, seq := q, outst := o, aout := a } ∧
       (sl ≠ s.ctx.slot → c = th.tcfg ∧ e = th.sEmpty ∧ q = th.seq ∧ o = th.outst ∧ a = th.aout) ∧
       ((t.coreAt s.ctx.core).unacked = (s.coreAt s.ctx.core).unacked → q = th.seq ∧ o = th.outst ∧ a = th.aout)) ∧
     t = { s with ctx := t.ctx, agenda := t.agenda, net := t.net, cores := t.cores } ∧
     t.coreAt s.ctx.core = { s.coreAt s.ctx.core with
       threads := (t.coreAt s.ctx.core).threads
       queues := (t.coreAt s.ctx.core).queues
       unacked := (t.coreAt s.ctx.core).unacked
       localFree := (t.coreAt s.ctx.core).localFree
       localAt := (t.coreAt s.ctx.core).localAt
       mops := (t.coreAt s.ctx.core).mops
       selops := (t.coreAt s.ctx.core).selops
       lops := (t.coreAt s.ctx.core).lops
       nextOp := (t.coreAt s.ctx.core).nextOp
       caps := (t.coreAt s.ctx.core).caps })

/-- R175, R180: the product of two tiles: element (i, j) of the result is the accumulation, in FP32, of the groups of sixteen
products in ascending order, onto D's element where ACC is set and else onto +0. R181: of `tmmas` a group's products are those
of the first N slots with the elements of B that TM's nibbles name. With SCL the sum starts at +0, is multiplied by the two
scales, added to D's element where ACC is set, and rounded once. R186–R188: the other tile operations:
`tzero` clears data and scales; `ttrans` puts element (r, e) at (e, r); `tadd` adds, modulo 2^32 in INT32; `tcvt` converts
each element, and to a block format each block, its scale bytes to the scale plane; `tsel` writes the row numbers, from IBASE, of the greatest elements of each column, at most k of them. R70,
R175–R178, R184, R188, R190: the units' steps. A step of the matrix unit counts one step of the operation at the head; a
finished operation's bytes are written to its tile, its flags enter its thread's FFLAGS or go back to the sender of the
command, and it is pending no more. That an operation's results are those of its operands as they stand when it finishes is the
model's choice (DEDUCED, log 64). -/
def Obligations.MatrixUnit : Prop :=
  (∀ (m : MOp) (mem : Memory) (i j : Nat), m.fn = 1 ∨ m.fn = 2 → m.base = 0 →
     m.steps = (tcRows (m.src 0).cfg + 7) / 8 * ((tcRows (m.src 1).cfg + 7) / 8) * m.blockSteps → 0 < tcK (m.src 1).cfg →
     i < tcRows (m.src 0).cfg → j < tcRows (m.src 1).cfg →
     let groups := (tcK (m.src 1).cfg + 15) / 16
     let a := m.src 0
     let old := tbits mem m.dst i j 32
     let num (x : Nat) : Machine.Num := readFmt (fmtOf 0) false x
     let dense (g : Nat) := (List.range (if 16 ≤ tcK a.cfg - 16 * g then 16 else tcK a.cfg - 16 * g)).map
       fun k => (tval mem m.topx a i (16 * g + k), tval mem m.topx (m.src 1) j (16 * g + k))
     let place (g q : Nat) : Nat :=
       leNat (tread mem (m.src 2).phys (i * tcRb (m.src 2).cfg + 4 * g) 4) / 16 ^ q % 16
     let slot (g q : Nat) : Machine.Num :=
       if tcFmt a.cfg < 13 then
         readFmt (fmtOf (tcFmt a.cfg)) m.topx (leNat (tread mem a.phys (i * tcRb a.cfg + 8 * g + q) 1))
       else
         let w := tcW a.cfg
         let sc := tscale mem a i g
         let x := leNat (tread mem a.phys (i * tcRb a.cfg + g * tcSlotBytes a.cfg) w) / 2 ^ (w * q) % 2 ^ w
         if sc.1 = 255 ∧ (m.topx = true ∨ sc.2 = 255) then .nan false
         else .fin (x / 2 ^ (w - 1) == 1) (x % 2 ^ (w - 1)) ((sc.1 : Int) - 127 - (sc.2 / 4 ^ (q / 2) % 4 : Nat) - (w - 1))
     let sparse (g : Nat) := (List.range (m.opt.toNat % 16)).map
       fun q => (slot g q, tval mem m.topx (m.src 1) j (16 * g + place g q))
     let sum := (List.range groups).foldl (fun acc g => (accAdd acc (groupSum (if m.fn = 1 then dense g else sparse g))).1)
       (if m.acc = true ∧ m.scl = false then old else 0)
     let sa := leNat ((m.scales.1.drop (4 * i)).take 4)
     let sb := leNat ((m.scales.2.drop (4 * j)).take 4)
     (i * tcRb m.dst.cfg + 4 * j, toLE 4 (if m.scl = true then
         (scaleOut (num sum) (num sa) (num sb) (if m.acc = true then num old else .fin false 0 0)).1 else sum)) ∈
       (m.result mem).1) ∧
  (∀ (n1 n2 n3 n4 : Bool) (m1 m2 m3 m4 : Nat) (e1 e2 e3 e4 : Int), ∃ y,
     addNum 0 (.fin ((n1 != n2) != n3) (m1 * m2 * m3) (e1 + e2 + e3)) (.fin n4 m4 e4) = some y ∧
     scaleOut (.fin n1 m1 e1) (.fin n2 m2 e2) (.fin n3 m3 e3) (.fin n4 m4 e4) = convert (fmtOf 0) false 0 y) ∧
  (∀ (m : MOp) (mem : Memory) (r e : Nat),
     let a := m.src 0
     let b := m.src 1
     let d := m.dst.cfg
     let w := (fmtOf (tcFmt a.cfg)).width
     let f := fmtOf (tcFmt d)
     (m.fn = 0 → m.result mem = ([(0, List.replicate 6144 0)], 0)) ∧
     (r < tcRows a.cfg → e < tcK a.cfg →
       (m.fn = 3 → (e * tcRb d + r * (w / 8), toLE (w / 8) (tbits mem a r e w)) ∈ (m.result mem).1) ∧
       (m.fn = 4 → tcFmt a.cfg = 7 →
         (r * tcRb d + e * 4, toLE 4 ((tbits mem a r e 32 + tbits mem b r e 32) % 2 ^ 32)) ∈ (m.result mem).1) ∧
       (m.fn = 4 → tcFmt a.cfg ≤ 2 → (r * tcRb d + e * (w / 8), toLE (w / 8) (fAdd (fmtOf (tcFmt a.cfg)) 0
         (readFmt (fmtOf (tcFmt a.cfg)) false (tbits mem a r e w))
         (readFmt (fmtOf (tcFmt a.cfg)) false (tbits mem b r e w))).1) ∈ (m.result mem).1)) ∧
     (r < tcRows d → e < tcK d → m.fn = 5 → tcFmt d < 13 →
       (r * tcRb d + e * (f.width / 8), toLE (f.width / 8) (convert f m.topx m.rm (tval mem m.topx a r e)).1) ∈
         (m.result mem).1) ∧
     (m.fn = 5 → 13 ≤ tcFmt d → r < tcRows d → e < tcBlocks d →
       let b := packBlock ((List.range 16).map fun i => tval mem m.topx a r (16 * e + i)) (tcW d) m.rm m.topx
       (r * tcRb d + e * (2 * tcW d), toLE (2 * tcW d) b.2.2.1) ∈ (m.result mem).1 ∧
       (4096 + 2 * (r * tcBlocks d + e), toLE 1 b.1 ++ toLE 1 b.2.1) ∈ (m.result mem).1) ∧
     (m.fn = 6 → e < tcK a.cfg → ∃ rows : List Nat, rows.Perm (List.range (tcRows a.cfg)) ∧
       (∀ p q, p < q → q < rows.length →
         ranksAbove (tval mem m.topx a (rows.getD q 0) e) (tval mem m.topx a (rows.getD p 0) e) = false) ∧
       ∀ q, q < tselK m.opt → q < rows.length →
         (q * tcRb d + 4 * e, toLE 4 (tcIbase a.cfg * 65536 + rows.getD q 0)) ∈ (m.result mem).1)) ∧
  (∀ (s : State) (m : MOp) (o : LOp),
     let c := s.subj.core
     let k := s.coreAt c
     let who : SlotRef := ⟨c, m.slot, m.tid⟩
     let gone (tiles : Memory) : State := s.modCore c fun k =>
       { k with tiles := tiles, matAt := s.cycle + 1, mops := k.mops.filter (·.id != m.id) }
     let out := twrite k.tiles m.dst.phys (m.result k.tiles).1
     (k.paused = false → k.issuepol.getLsbD 1 = false → ∀ r, k.mops = m :: r → m.started = true →
       m.failed = false → m.done < m.steps → (∀ x ∈ r, x.id ≠ m.id) →
       ∃ t, exec .matrixStep s = .next t ∧ s.SameMemory t ∧ s.SameThreads t ∧
         (t.coreAt c).mops = { m with done := m.done + 1, lastAt := s.cycle } :: r) ∧
     (k.mops.find? (·.id == s.subj.n) = some m → m.failed = false →
       (m.remote = none →
         exec .matrixOpFinish s = .next (((gone out).raise who (m.flags ||| (m.result k.tiles).2)).tilesFreed c)) ∧
       ∀ q, m.remote = some q → exec .matrixOpFinish s =
         .next (((gone out).send c q.who.core (.remoteCommandReply q (.done (m.flags ||| (m.result k.tiles).2)))).tilesFreed c)) ∧
     (k.mops.find? (·.id == s.subj.n) = some m → m.failed = true → m.remote = none →
       exec .matrixOpFinish s = .next (((gone k.tiles).raise who 0).tilesFreed c)) ∧
     (k.selops.find? (·.id == s.subj.n) = some m → m.remote = none → exec .tselFinish s = .next
       ((s.modCore c fun k =>
         { k with tiles := out, selAt := s.cycle + 1, selops := k.selops.filter (·.id != m.id) }).tilesFreed c)) ∧
     (k.mops = [m] → m.id = s.subj.n → m.scaleLeft = 1 → m.done < m.steps → ∃ t, exec .scaleReadComplete s = .next t ∧
       (t.coreAt c).mops = [{ m with scaleLeft := 0, scaleAt := s.cycle }] ∧ s.SameMemory t ∧ s.SameThreads t) ∧
     (k.lops.find? (·.id == s.subj.n) = some o → o.kind ≠ .trest → exec .loadPathFinish s = .next
       ((s.modCore c fun k => { k with lops := k.lops.filter (·.id != o.id) }).tilesFreed c)))

/-- R189, R190: remote commands. With address 0 `tcmd` installs or clears an entry; else it sends the command to the core the
address names. The target refuses in the order of R190, subcodes 1, 2, 3, 4, 5 and 7, or queues the command's operation as one of
the granting slot; the sender's register takes the flags, or all ones beside a trap CapabilityRefused with the refusing
subcode. That an entry whose thread has been restored on another core is refused as one with no granting thread (5) is R369's. -/
def Obligations.RemoteTileCommands : Prop :=
  ∀ (s : State) (h : CHead) (a b c : BitVec 5) (r : RCmd) (f : BitVec 5) (n : Nat), s.Issues h.neg h.grd →
    let s0 := s.onWord false
    let x := s.sval a
    let d := s.sval b [a]
    let z := s.sval c [a, b]
    let e : Cap := ⟨d.getLsbD 63, none, s.ctx.slot, d.toNat / 2 ^ 48 % 256, BitVec.ofNat 8 (d.toNat / 2 ^ 40),
      BitVec.ofNat 16 d.toNat, z.setWidth 32, false⟩
    let k := s.coreAt r.target
    let cap := vget noCap k.caps r.idx
    let live := cap.v = true ∨ cap.left = true
    let fn := r.word.toNat / 2 ^ 9 % 16
    let names := (wordNames r.word).1 :: (wordNames r.word).2
    let open_ := live ∧ cap.key = r.key ∧ cap.frompd = r.pdid
    let named := cap.fmask.getLsbD fn = true ∧ ∀ x ∈ names, cap.tmask.getLsbD x = true
    let refused (n : Nat) : Prop := exec (.remoteCommandArrival r) s = .next (s.answerRemote r.target r (.refused n))
    (x = 0 → exec (.tcmd h a b c) s = .next ((s0.modCore s.ctx.core fun k =>
      { k with caps := vset k.caps (d.toNat / 2 ^ 56 % 16) e }).popAll (popsOf [a, b, c]))) ∧
    (x ≠ 0 → exec (.tcmd h a b c) s = .next (((s0.track a).1.send s.ctx.core
      (homeNode s.ctx.core (s.homeOf s.ctx.core x)) (.remoteCommandArrival ⟨s.me, s0.ctx.org, (s0.track a).2,
        homeCore (s.homeOf s.ctx.core x), x, d.setWidth 32, z.toNat / 2 ^ 32 % 16, z.setWidth 32, s.ctx.pre.pdid,
        s.ctx.pre.topx⟩)).popAll (popsOf [a, b, c]))) ∧
    (cap.away = none →
      (¬live → refused 1) ∧
      (live → cap.key ≠ r.key → refused 2) ∧
      (live → cap.key = r.key → cap.frompd ≠ r.pdid → refused 3) ∧
      (open_ → ¬named → refused 4) ∧
      (open_ → named → cap.left = true ∨ tget k.threads cap.slot = none → refused 5) ∧
      (open_ → named → cap.left = false → ∀ th, tget k.threads cap.slot = some th →
        (th.tileTrap fn (r.word.setWidth 9) (wordNames r.word)).isSome = true → refused 7) ∧
      (open_ → named → cap.left = false → ∀ th, tget k.threads cap.slot = some th →
        th.tileTrap fn (r.word.setWidth 9) (wordNames r.word) = none → exec (.remoteCommandArrival r) s = .next
        (((s.opId r.target).1.modCore r.target fun k => { k with rcmdWait := k.rcmdWait ++
          [th.newOp (s.coreAt r.target).nextOp cap.slot th.tid r.org r.word (some r)] }).drainRemote r.target 16))) ∧
    exec (.remoteCommandReply r (.done f)) s = .next (s.writeFull r.who r.dst f.toNat) ∧
    exec (.remoteCommandReply r (.refused n)) s =
      .next ((s.writeFull r.who r.dst (2 ^ 64 - 1)).after 0 (.trapReportAfterIssue r.who r.org ⟨0x12, n, r.addr, 0⟩))

/-- R209: the checks of a channel operation, in their order: ownership, a lace, loading or connecting, a closed channel, the
lifecycle, the kind of the state, the type or label, the payload. R200, R201: a channel message enters the ring of the
connection it was sent on, or is dropped; a unit of allowance goes to the peer it names; a tile payload that is read enters
its tile. Two things here are the model's choice: that an operation of another slot on an eyelet that connects or loads traps
ProtocolFault 10 before it could park (DEDUCED, log 18), and that the records of subcodes 5 and 10 and of ChannelClosed carry
the DETAIL layout of R209 (DEDUCED, log 21). -/
def Obligations.ChannelChecksAndArrivals : Prop :=
  (∀ (s : State) (o : ChanOp) (pick : List Nat → Option Nat) (bad : Word → Bool),
     let y := s.curCore.ey o.ey
     let f (sub : Nat) : TrapInfo := ⟨0x0B, sub, 0, wd (o.maj * 2 ^ 24 + o.fn * 2 ^ 21 + y.state * 2 ^ 16 + o.ey)⟩
     let chk := s.chanCheck o pick bad
     (y.lace.isSome = true → y.owner ≠ s.ctx.slot → chk = .trap (f 10)) ∧
     (y.lace = none → y.loading = false → chk = .trap (f 5)) ∧
     (y.lace = none → y.loading = true → chk = .wait) ∧
     (∀ l, y.lace = some l → y.owner = s.ctx.slot →
       (y.loading = true ∨ y.life = .connecting → chk = .wait) ∧
       (y.loading = false →
         let takes := o.kind = 1 ∨ o.kind = 3 ∨ o.kind = 5
         (y.life = .closed → ¬(takes ∧ y.ring ≠ []) →
           chk = .closed ⟨0x0D, y.reason, 0, s.eyDetail o.maj o.fn o.ey ||| y.pdetail⟩) ∧
         (y.life ∈ [Life.unbound, .listen, .closing, .faulted] → chk = .trap (f 5)) ∧
         (y.life = .opened ∨ (y.life = .closed ∧ takes ∧ y.ring ≠ []) →
           (stKind l.image y.state ≠ o.kind → chk = .soft (f 2)) ∧
           (stKind l.image y.state = o.kind →
             (pick (laceTrs l.image y.state) = none → chk = .soft (f 3)) ∧
             ∀ w, pick (laceTrs l.image y.state) = some w →
               chk = if bad (laceShape l.image (trShape w)) then .soft (f 4) else .ok w))))) ∧
  (∀ (s : State) (src dst : EyLoc) (id : Nat) (m : ChMsg), dst.port = false → dst.ey < 16 →
     let y := s.eyAt dst.core dst.ey
     let c := s.subj.core
     ((y.life = .opened ∨ y.life = .closing) → (∃ p ∈ y.members, p.own = id) → y.deleg = none → ∃ t,
       exec (.channelMessageArrival src dst id m) s = .next t ∧
       (t.eyAt dst.core dst.ey).ring = y.ring ++ [m] ∧ (t.eyAt dst.core dst.ey).state = y.state ∧
       ∀ l, y.lace = some l → m.payload.length ≤ 64 → l.ringAt % 64 = 0 → l.slotLen % 64 = 0 → s.Canonical → m.kind = .data →
         t.spadRead dst.core (l.ringAt + (y.head + y.ring.length) % Nat.max 1 l.ring * l.slotLen) m.payload.length =
           m.payload) ∧
     ((∀ p ∈ y.members, p.own ≠ id) → m.kind ≠ .record → exec (.channelMessageArrival src dst id m) s = .next s) ∧
     (∃ t, exec (.allowanceReturn src dst id) s = .next t ∧ t.eyAt dst.core dst.ey =
       { y with members := y.members.map fun x => if x.loc = src ∧ x.own = id then { x with allow := x.allow + 1 } else x }) ∧
     (∀ o, (s.coreAt c).lops.find? (·.id == s.subj.n) = some o → exec .tilePayloadComplete s =
       .next ((s.modCore c fun k => { k with
         lops := k.lops.filter (·.id != o.id)
         tiles := if o.kind = .payloadIn then putPayload k.tiles o.tile o.buf else k.tiles }).tilesFreed c)))

/-- R201, R209–R212: sends, receives, selections and offers that pass their checks; with ST = 1 a closed channel only clears PS.
A send takes a unit of allowance of its peer, a receive takes the message at the head of its ring and gives the unit back at
once, and STATE moves to NEXT; a bound stream register takes a received vector as a push (R153, R154), behind one of the A-word
beside it (that a bundle's pushes go in the order of its pops is the model's choice, DESIGN CHOICE, log 84). -/
def Obligations.ChannelWords : Prop :=
  ∀ (s : State) (h : CHead) (m : CE) (e : BitVec 4) (n : BitVec 2) (a b : BitVec 5) (w w' : Nat) (x : ChMsg) (r : List ChMsg)
    (tr : TrapInfo), s.Issues h.neg h.grd →
    let s0 := s.onWord false
    let c := s.ctx.core
    let y := s.curCore.ey m.ey.toNat
    let ps (v : Bool) (s : State) : State := if m.st then s.resultP m.ps 1 v else s
    let sends := s0.chanCheck ⟨m.ey.toNat, 0x12, 0, 0⟩ (pickType m.lit) (payloadBad m s0.view)
    let receives := s0.chanCheck ⟨m.ey.toNat, 0x13, 0, 1⟩ (pickType m.lit) (payloadBad m s0.view)
    let sp := (payloadAcc m false s0).pops
    (sends = .ok w → exec (.esend h m) s =
      .next ((ps true ((s0.payloadOut m).sendStep m.ey.toNat w (s0.payload m))).popAll sp)) ∧
    (m.st = true → sends = .closed tr → exec (.esend h m) s = .next (ps false s0)) ∧
    (∀ p, (s0.eyAt c m.ey.toNat).members = [p] → p.transit = false →
      stKind (((s0.eyAt c m.ey.toNat).lace.map (·.image)).getD []) (trNext w) ≠ 7 → ∀ bs,
      let t := s0.sendStep m.ey.toNat w bs
      t.net = s.net ++ [⟨c, s.locNode p.loc, s.rinOf c, ⟨.channelMessageArrival (s.ownLoc c m.ey.toNat) p.loc p.connid
        ⟨.data, trType w, s.ctx.pre.topx, bs, s.ctx.pre.tid⟩, {}⟩⟩] ∧
      t.eyAt c m.ey.toNat = { y with sent := true, state := trNext w, members := [{ p with allow := p.allow - 1 }] }) ∧
    (let s1 := (s0.modEy c m.ey.toNat fun y => { y with
       ring := y.ring.drop 1, head := (y.head + 1) % Nat.max 1 ((y.lace.map (·.ring)).getD 1) }).returnAllow c m.ey.toNat
     (receives = .ok w → m.pk ≠ 2 → (m.pk = 1 → s.boundReg m.reg.toNat = none) → exec (.erecv h m) s = .next (ps true
       (let d := if m.pk = 0 then s1.track m.reg else (s1.modCur (·.mark (.vreg m.reg.toNat) true), .vreg m.reg.toNat)
        let s2 := (d.1.localAccess y.headAt false (.ringRead m.ey.toNat d.2 (m.pk == 1) none)).chanNext c m.ey.toNat w
        if m.ord then s2.holdFull d.2 none (s0.eyPark 5 m.ey.toNat) else s2))) ∧
     (∀ x, receives = .ok w → m.pk = 1 → s.boundReg m.reg.toNat = some x → exec (.erecv h m) s = .next (ps true
       (let d := s1.modCur fun t => match vget none t.streams (m.reg.toNat - 28) with
          | some z => { t with
              streams := vset t.streams (m.reg.toNat - 28) (some { z with pos := z.pos + 1, pushes := z.pushes + 1 }) }
          | none => t
        let ahead := s.ctx.found.acc.streamPushes.count m.reg.toNat
        let q : Push := ⟨m.reg.toNat, x.off (x.pos + ahead), x.noundo, if x.tagx then none else some x.tag⟩
        let s2 := (d.localAccess y.headAt false (.ringRead m.ey.toNat .none true (some q))).chanNext c m.ey.toNat w
        if m.ord then (s2.modCur fun t => { t with hold := some (.push m.reg.toNat) }).parkCur (s0.eyPark 5 m.ey.toNat)
        else s2)))) ∧
    (receives = .ok w → m.pk = 2 → exec (.erecv h m) s = .next (ps true (s0.recvStep m w))) ∧
    (m.st = true → receives = .closed tr → exec (.erecv h m) s = .next (ps false s0)) ∧
    (s0.chanCheck ⟨e.toNat, 0x14, 0, 2⟩ (fun ts => ts.find? fun w => trLabel w == n.toNat) (fun _ => false) = .ok w →
      exec (.esel h e n) s =
        .next ((s0.chanSend c e.toNat ⟨.label, n.toNat, s.ctx.pre.topx, [], s.ctx.pre.tid⟩).chanNext c e.toNat w)) ∧
    (s0.chanCheck ⟨e.toNat, 0x14, 1, 3⟩ List.head? (fun _ => false) = .ok w → (s.curCore.ey e.toNat).ring = x :: r →
      (laceTrs ((((s.curCore.ey e.toNat).lace).map (·.image)).getD []) (s.curCore.ey e.toNat).state).find?
        (fun k => trLabel k == x.type) = some w' →
      exec (.eoffer h e b) s = .next (((((s0.modEy c e.toNat Eyelet.popRing).returnAllow c e.toNat).chanNext c e.toNat
        w').resultTracked b 2 (wd x.type)))) ∧
    (∀ i, s0.altFirst (s.sval b) = some i →
      exec (.ealt h a b) s =
        .next (((s0.modCur fun t => { t with altlast := i }).resultTracked a 2 (wd i)).popAll (popsOf [b])) ∧
      i < 16 ∧ (s.sval b).getLsbD i = true ∧ s0.altReady i = true ∧
      ∀ j, j < 16 → (s.sval b).getLsbD j = true → s0.altReady j = true →
        (i + 15 - s.ctx.pre.altlast % 16) % 16 ≤ (j + 15 - s.ctx.pre.altlast % 16) % 16)

/-- R204–R208, R213: loading, listening, connecting and accepting, step by step, with the status word `estat` reads. The
model's choice in this: that `eaccept` raises CONNID as `econn` does (DEDUCED, log 19); the traps, after issue, of a lace whose
ring lies in no writable part of its segment (DEDUCED, log 20); and DETAIL 0 in the records of `econn` outcomes (DEDUCED,
log 21). -/
def Obligations.ChannelConnections : Prop :=
  ∀ (s : State) (h : CHead) (e : BitVec 4) (m : MemR) (a b : BitVec 5) (x z base attr : Word) (r : ConnReq) (l : Lace)
    (who : SlotRef) (org : Origin), s.Issues h.neg h.grd →
    let s0 := s.onWord false
    let c := s.ctx.core
    let y := s.curCore.ey e.toNat
    let g := s.ctx.pre.seg m.sg.toNat
    exec (.elisten h e) s = .next (s0.modEy c e.toNat fun y => { y with life := .listen }) ∧
    (s.check (s.refR m) 640 true false 64 = .ok x → s.isLocal x = true → exec (.elace h e m) s =
      .next ((((s0.modEy c e.toNat fun y => { y with loading := true, pend := [] }).localAccess (x.toNat % 2 ^ 20) false
        (.lace e.toNat)).after 40 (.elaceComplete s.me s0.ctx.org e.toNat x ⟨g.base, g.attr⟩)).popAll (popsOf [m.idx]))) ∧
    (let k := who.core
     let y := s.eyAt k e.toNat
     let loaded : Instr := .elaceComplete who org e.toNat z ⟨base, attr⟩
     let off := z.toNat % 2 ^ 20
     let found := laceOf y.pend off (off + attr.toNat % 2 ^ 43 - (z - base).toNat % 2 ^ 57)
     let quiet := s.modEy k e.toNat fun y => { y with loading := false, pend := [] }
     let fails (t : TrapInfo) : Out := .next (quiet.after 0 (.trapReportAfterIssue who org t))
     (y.pend = [] → exec loaded s = .next (s.after 1 loaded)) ∧
     (y.pend ≠ [] → found = none → exec loaded s = fails ⟨0x0B, 8, 0, 0⟩) ∧
     (y.pend ≠ [] → found = some l → 0 < l.ring * l.slotLen → attr.getLsbD 44 = false → exec loaded s = fails ⟨6, 3, base, 0⟩) ∧
     (y.pend ≠ [] → found = some l → quiet.ringTrap k ⟨base, attr⟩ z l = none → (s.who who).isSome = true → y.held = none →
       exec loaded s = .next (quiet.modEy k e.toNat fun x =>
         { x with lace := some l, owner := who.slot, state := laceInit y.pend, grant := none, life := .unbound }))) ∧
    (y.held = none → y.members.length < 8 → ∃ q,
      exec (.econn h e b) s = .next (((s0.modEy c e.toNat fun y =>
        { y with life := .connecting, connid := (y.connid + 1) % 65536, topx := s.ctx.pre.topx, target := some q.dst }).send c
          (match s.homeOf c (s.sval b) with
            | .transit => heldNode c
            | _ => s.locNode q.dst)
          (if q.dst.port then .portEndpointConnect q else .connectRequestArrival q)).popAll (popsOf [b])) ∧
      q.src = s.ownLoc c e.toNat ∧ q.dst = econnLoc s (s.sval b) ∧ q.holder = s.me ∧ q.connid = (y.connid + 1) % 65536 ∧
      q.pdid = s.ctx.pre.pdid ∧ q.topx = s.ctx.pre.topx ∧ q.grant = y.grant ∧
      ∀ l, y.lace = some l → q.own = l.own ∧ q.dual = l.dual ∧ q.ring = l.ring) ∧
    (let z := s.eyAt r.dst.core r.dst.ey
     let free := z.lace.isSome = true ∧ (z.life = .unbound ∨ z.life = .listen) ∧ z.held = none
     (¬free → exec (.connectRequestArrival r) s =
       .next (s.send r.dst.core (s.locNode r.src) (.connectOutcome r .refused))) ∧
     (free → (s.domAt (s.coreAt r.dst.core).pdid).chwdog = 0 → exec (.connectRequestArrival r) s =
       .next (s.modEy r.dst.core r.dst.ey fun y => { y with held := some { r with heldAt := s.cycle } }))) ∧
    ((s.eyAt s.subj.core s.subj.n).held = some r → exec .heldRequestTimeout s = .next
      (if r.heldAt = s.subj.m then (s.modEy s.subj.core s.subj.n fun y => { y with held := none }).send s.subj.core
          (s.locNode r.src) (.connectOutcome r .refused)
       else s)) ∧
    (y.held = some r → grantOk r y s.ctx.pre.pdid = true → y.lace = some l → exec (.eaccept h e b) s = .next
      (((s0.modEy c e.toNat fun y => { y with
          life := .opened, held := none, connid := (y.connid + 1) % 65536, state := laceInit l.image
          members := [⟨r.src, r.connid, (y.connid + 1) % 65536, r.pdid, r.ring, false, []⟩], topx := r.topx }).send c (s.locNode r.src)
        (.connectOutcome r (.accepted l.ring ((y.connid + 1) % 65536) s.ctx.pre.pdid))).resultTracked b 2
        (wd (r.src.dev * 2 ^ 48 + r.pdid * 2 ^ 40 + r.src.core * 2 ^ 16 + (if r.src.port then 16 else 0) + r.src.ey)))) ∧
    (let z := s.eyAt r.src.core r.src.ey
     z.life = .connecting → z.connid = r.connid → z.members = [] → (s.who r.holder).isSome = true →
       let to_ (f : Life) : State := s.modEy r.src.core r.src.ey fun y => { y with life := f, target := none }
       let fails (f : Life) (sub : Nat) : Out := .next ((to_ f).after 0 (.trapReportAfterIssue r.holder r.org ⟨0x0B, sub, 0, 0⟩))
       exec (.connectOutcome r .notDual) s = fails .faulted 1 ∧ exec (.connectOutcome r .grantMissing) s = fails .unbound 7 ∧
       exec (.connectOutcome r .refused) s = fails .unbound 6 ∧
       ∀ ring id pd, z.lace = some l → exec (.connectOutcome r (.accepted ring id pd)) s =
         .next (s.modEy r.src.core r.src.ey fun y => { y with
           life := .opened, members := [⟨r.dst, id, r.connid, pd, ring, false, []⟩], target := none, state := laceInit l.image })) ∧
    (let v := s.sval b [a]
     exec (.egrant h a b) s = .next ((s0.modEy c ((s.sval a).toNat % 16) fun y =>
       { y with grant := if v.getLsbD 8 then some (v.toNat % 256) else none }).popAll (popsOf [a, b]))) ∧
    (∃ v, exec (.estat h a e) s = .next (s0.result a 1 v) ∧
      (y.reason < 16 → y.state < 32 → y.pstate < 32 → y.owner < 16 → y.allow < 256 → y.ring.length < 256 → y.connid < 65536 →
       ∀ l, y.lace = some l → l.ring < 256 →
        wbits v 60 4 = y.life.code ∧ wbits v 59 1 = 1 ∧ wbits v 55 4 = (if y.life = .closed then y.reason else 0) ∧
        wbits v 50 5 = y.state ∧ wbits v 49 1 = y.psu.toNat ∧ wbits v 44 5 = y.pstate ∧ wbits v 40 4 = y.owner ∧
        wbits v 32 8 = y.allow ∧ wbits v 24 8 = y.ring.length ∧ wbits v 16 8 = l.ring ∧ wbits v 0 16 = y.connid))

/-- R214–R217: an orderly close, its notice and its acknowledgement, and the close by the channel watchdog. R219–R221, R395: a
delegation step by step: the notice to the peer, MARK for the connection the notice named, the record over the carrier, and
the new holder's word to the peer. That a notice is acknowledged by an eyelet that has no such connection is the model's
choice (DEDUCED, log 22), and so is what becomes of a notice, a message or a carrier's close that meets a delegation (DEDUCED,
log 24). -/
def Obligations.ChannelEnds : Prop :=
  (∀ (s : State) (h : CHead) (e : BitVec 4) (dst : EyLoc) (n : CloseN) (m : Member) (src : EyLoc) (th : Thread),
     s.Issues h.neg h.grd →
     let s0 := s.onWord false
     let c := s.ctx.core
     let y := s.curCore.ey e.toNat
     let z := s.eyAt dst.core dst.ey
     let own := s.ownLoc c e.toNat
     (y.life = .opened → y.members = [m] → m.transit = false → exec (.eclose h e) s = .next
       ((((((s0.send c (s.locNode m.loc) (.closeNoticeArrival m.loc
           ⟨own, m.connid, m.own, if stKind ((y.lace.map (·.image)).getD []) y.state = 6 then 0 else 1, y.state, false, 0,
             s.holderTid c e.toNat⟩)).freeLinks c
         e.toNat).modEy c e.toNat fun y => { y with life := .closing, slots := 0 }).modCur fun t =>
           { t with hold := some (.closing e.toNat) }).parkCur
         { kind := 5, obj := e.toNat, pdev := m.loc.dev, pcore := m.loc.core, pslot := m.loc.ey }))) ∧
     (y.life = .unbound → exec (.eclose h e) s = .next (s0.unlaceEy c e.toNat)) ∧
     (y.life = .faulted ∨ y.life = .closed ∨ y.life = .listen → exec (.eclose h e) s = .next (s0.unbindEy c e.toNat)) ∧
     (let acked := s.send (s.locNode dst) (s.locNode n.src) (.closeAcknowledge dst n.src n.mine)
      (dst.port = false → (∀ x ∈ z.members, x.loc = n.src → x.own ≠ n.connid) →
        exec (.closeNoticeArrival dst n) s = .next acked) ∧
      (dst.port = false → z.members = [m] → m.loc = n.src → m.own = n.connid →
       (z.life = .opened → exec (.closeNoticeArrival dst n) s = .next ((acked.freeLinks dst.core dst.ey).modEy dst.core dst.ey
         fun y => { y with
           life := .closed, reason := n.reason, psu := n.psu, pstate := if n.psu then 0 else n.state, pdetail := n.detail
           slots := 0 })) ∧
       (z.life = .closing → z.deleg = none →
         exec (.closeNoticeArrival dst n) s = .next ((acked.unbindEy dst.core dst.ey).releaseHold dst.core dst.ey)))) ∧
     (dst.port = false → z.members = [m] → m.loc = src → z.life = .closing → z.deleg = none →
       exec (.closeAcknowledge src dst m.own) s = .next ((s.unbindEy dst.core dst.ey).releaseHold dst.core dst.ey)) ∧
     (s.threadAt s.subj.core s.subj.slot = some th →
       let k := s.subj.core
       let e := wbits (vget 0 (s.coreAt k).bstates s.subj.slot) 0 16
       let late := th.parked = true ∧ th.run = .running ∧ (s.eyAt k e).life = .opened
       (late → exec .channelWatchdog s = .next (((s.notify k e 4).unbindEy k e).takeTrap ⟨k, s.subj.slot, th.tid⟩ false
         ⟨th.pc, s.bundleAt k th, false, th.srep.isSome⟩ ⟨0x16, 1, 0, 0⟩)) ∧
       (¬late → exec .channelWatchdog s = .next s))) ∧
  (∀ (s : State) (h : CHead) (e : BitVec 4) (b : BitVec 5) (w : Nat) (m p : Member) (x : ChMsg) (r : List ChMsg)
     (src dst old new : EyLoc), s.Issues h.neg h.grd → dst.port = false → dst.ey < 16 →
     let s0 := s.onWord false
     let c := s.ctx.core
     let k := (s.sval b).toNat % 16
     let y := s.curCore.ey e.toNat
     let z := s.eyAt dst.core dst.ey
     (s0.chanCheck ⟨k, 0x14, 3, 4⟩ List.head? (fun _ => false) = .ok w → k ≠ e.toNat → y.members = [m] → m.transit = false →
       exec (.edeleg h e b) s = .next
         (((((((s0.modEy c k fun y => { y with members := y.members.map fun p => { p with allow := p.allow - 1 } }).send c
           (s.locNode m.loc) (.moveNotice (s.ownLoc c e.toNat) m.loc m.connid)).freeLinks c e.toNat).modEy c e.toNat fun y =>
             { y with life := .closing, deleg := some (s.ctx.slot, k), slots := 0 }).modCur fun t =>
           { t with hold := some (.deleg e.toNat k) }).parkCur
           { kind := 5, obj := e.toNat, pdev := m.loc.dev, pcore := m.loc.core, pslot := m.loc.ey }).popAll (popsOf [b]))) ∧
     (z.members = [m] → m.loc = src → exec (.moveNotice src dst m.own) s = .next ((s.modEy dst.core dst.ey fun y =>
       { y with members := [{ m with transit := true }] }).send dst.core (s.locNode src) (.markArrival dst src m.own))) ∧
     (∀ sl j id, z.deleg = some (sl, j) → j < 16 →
       ((∃ q ∈ z.members, q.loc = src ∧ q.connid = id) → exec (.markArrival src dst id) s = .next (s.leave dst.core dst.ey j)) ∧
       ((∀ q ∈ z.members, q.loc = src → q.connid ≠ id) → exec (.markArrival src dst id) s = .next s)) ∧
     (∀ j, j < 16 → j ≠ dst.ey → z.ring = [] →
       let car := s.eyAt dst.core j
       let img := (car.lace.map (·.image)).getD []
       let tr := laceTr img car.state 0
       car.life = .opened → car.members = [p] → p.transit = false → stKind img (trNext tr) ≠ 7 →
         let t := s.leave dst.core dst.ey j
         t.net = s.net ++ [⟨dst.core, s.locNode p.loc, s.rinOf dst.core,
           ⟨.channelMessageArrival (s.ownLoc dst.core j) p.loc p.connid ⟨.record, trType tr, z.topx, z.record, s.holderTid dst.core j⟩,
             {}⟩⟩] ∧
         (t.eyAt dst.core dst.ey).life = .unbound ∧ t.eyAt dst.core j = { car with state := trNext tr }) ∧
     (s0.chanCheck ⟨k, 0x14, 4, 5⟩ List.head? (fun _ => false) = .ok w → (s.curCore.ey k).ring = x :: r →
       exec (.ecatch h e b) s = .next (((((s0.modEy c k Eyelet.popRing).returnAllow c k).chanNext c k w).install c e.toNat
         x.payload).popAll (popsOf [b]))) ∧
     (z.members = [m] → m.loc = old → m.heldOut = [] → (s.coreAt dst.core).leaving = [] → exec (.rehome old new dst m.own) s =
       .next (s.modEy dst.core dst.ey fun y => { y with members := [{ m with loc := new, transit := false, heldOut := [] }] })))

/-- R225–R227: `route` installs an entry, sends to the eyelet of a real expert, or gives the NULL code's result; `eslot` releases
an eyelet's link slots; on the path to its peer, slot k needs entry (k + h) mod 16 of the h-th link; where another channel
holds one, nothing is reserved and the result is bit 63 with the bits of the slots that are taken; else every entry needed is
the channel's and no other changes. That the result comes two cycles after issue, and that another nonzero mask adds to what the
channel holds, is the model's choice (DESIGN CHOICE, log 86), and so is the path, columns before rows (DEDUCED, log 9). -/
def Obligations.RoutesAndLinkSlots : Prop :=
  ∀ (s : State) (h : CHead) (a b : BitVec 5) (w : Nat), s.Issues h.neg h.grd →
    let s0 := s.onWord false
    let c := s.ctx.core
    let x := s.sval a
    let y := s.sval b [a]
    let i := x.toNat % 32
    let ent := vget (0, 0) s.ctx.pre.rt i
    let nl := wbits s.ctx.pre.nullmap (2 * i) 2
    let e := x.toNat % 16
    (x.getLsbD 63 = true → exec (.route h a b) s = .next ((s0.modCur fun t => { t with
      rt := vset t.rt i (BitVec.ofNat 4 y.toNat, BitVec.ofNat 32 (y.toNat / 2 ^ 32)) }).popAll (popsOf [a, b]))) ∧
    (x.getLsbD 63 = false → nl ≠ 0 → exec (.route h a b) s = .next
      ((s0.result a 1 (if nl = 1 then 0 else if nl = 2 then y else ent.2.setWidth 64)).popAll (popsOf [a, b]))) ∧
    (x.getLsbD 63 = false → nl = 0 →
      s0.chanCheck ⟨ent.1.toNat, 0x14, 5, 0⟩ List.head? (fun e => shapeClass e != 1) = .ok w →
      exec (.route h a b) s = .next ((s0.sendStep ent.1.toNat w (toLE 8 y.toNat)).popAll (popsOf [a, b]))) ∧
    (y = 0 → exec (.eslot h a b) s = .next ((((s0.freeLinks c e).modEy c e fun z => { z with slots := 0 }).resultTracked a 2
      0).popAll (popsOf [a, b]))) ∧
    (∀ m, y ≠ 0 → (s0.eyAt c e).members.head? = some m → m.loc.dev ≠ s.devIdx →
      exec (.eslot h a b) s = .next ((s0.resultTracked a 2 (wd (2 ^ 62))).popAll (popsOf [a, b]))) ∧
    (∀ m, y ≠ 0 → (s0.eyAt c e).members.head? = some m → m.loc.dev = s.devIdx →
      let needs (k key : Nat) : Prop :=
        k < 16 ∧ y.getLsbD k = true ∧ ∃ n l, (linkPath c m.loc.core)[n]? = some l ∧ key = 16 * l + (k + n) % 16
      let taken (k : Nat) : Prop := ∃ key o, needs k key ∧ tget s.linkSlots key = some o ∧ o ≠ linkOwner c e
      ((∃ k, taken k) → ∃ v : Word, exec (.eslot h a b) s = .next ((s0.resultTracked a 2 v).popAll (popsOf [a, b])) ∧
        v.getLsbD 63 = true ∧ ∀ k, k < 63 → (v.getLsbD k = true ↔ taken k)) ∧
      ((∀ k, ¬taken k) → ∃ ls, exec (.eslot h a b) s = .next ((({ s0 with linkSlots := ls }.modEy c e fun z =>
          { z with slots := y.setWidth 16 }).resultTracked a 2 0).popAll (popsOf [a, b])) ∧
        (∀ k key, needs k key → tget ls key = some (linkOwner c e)) ∧
        ∀ key, (∀ k, ¬needs k key) → tget ls key = tget s.linkSlots key))

/-- R117, R232–R238: `qcfg` discards a queue's filled entries and configures it, a timer's tick is pushed while there is room; `spawn` places a thread
of the same task in a free slot or answers all ones; `wake` and `halt` stop and start a slot; `marm`, `mdisarm` and `mwait`
arm monitors and wait for them, the register that the first issue of an `mwait` emptied taking its result where it has
parked before, and a deadline lets a parked `mwait` issue again. -/
def Obligations.QueuesMonitorsThreads : Prop :=
  ∀ (s : State) (h : CHead) (q : BitVec 4) (n : BitVec 2) (a b c : BitVec 5) (m : MemR) (x : Word) (sl : Nat) (set : List Seg),
    s.Issues h.neg h.grd →
    let s0 := s.onWord false
    let t := s.ctx.pre
    let co := s.ctx.core
    let k := s.curCore
    let tid := s.devIdx * 2 ^ 32 + co * 2 ^ 20 + k.created % 2 ^ 20
    let child : Thread := { Thread.reset with
      tid := tid, task := t.task, pdid := t.pdid, pc := (s.sval b).setWidth 32, s := Thread.reset.s.set 0 (s.sval c [b])
      sg := Vector.ofFn fun i => set.getD i Seg.reset
      status := t.status, pwbase := t.pwbase, pwsize := t.pwsize, segmap := t.segmap, stamp := s.cycle + 1
      earliest := s.cycle + 2 }
    let timer := (s.coreAt s.subj.core).queue s.subj.n
    let d := s0.track a
    exec (.qcfg h q b) s = .next
      ((s0.modQueue co q.toNat fun x => { x with cfg := s.sval b, entries := x.entries.filter (·.2.isNone) }).popAll
        (popsOf [b])) ∧
    (timer.cfg.getLsbD 8 = true → timer.eng = 1 → s.cycle % (timer.cfg.toNat / 2 ^ 32) = 0 →
      exec .queueTimerTick s = .next (s.modQueue s.subj.core s.subj.n fun q => if q.entries.length < 8 then
        { q with next := q.next + 1, entries := q.entries ++ [(q.next, some (wd s.cycle))] } else q)) ∧
    (k.freeSlot = none → exec (.spawn h a b c) s = .next ((s0.resultTracked a 2 allOnes).popAll (popsOf [b, c]))) ∧
    (k.freeSlot = some sl → (s.domAt t.pdid).v = true → tget k.segCache t.pdid = some set → exec (.spawn h a b c) s = .next
      ((((((s0.modCore co fun k => { k with created := k.created + 1 }).setThread co sl child).modTask t.task fun k =>
        { k with live := k.live + 1 }).resultTracked a 2 (wd sl)).popAll (popsOf [b, c])))) ∧
    exec (.wake h a) s = .next ((s0.modThread co ((s.sval a).toNat % 16) fun u =>
      if u.run = .halted then { u with run := .running, earliest := Nat.max u.earliest (s.cycle + 1) } else u).popAll
        (popsOf [a])) ∧
    exec (.halt h) s = .next ((s0.modCur fun u => { u with run := .halted }).leaveComb co s.ctx.slot) ∧
    (s.check (s.refR m) 1 true false 1 = .ok x → s.isLocal x = true → exec (.marm h n m) s =
      .next ((s0.localAccess (x.toNat % 2 ^ 20) false (.arm n.toNat)).popAll (popsOf [m.idx]))) ∧
    exec (.mdisarm h n) s = .next (s0.modCur fun u => { u with
      mon := vset u.mon n.toNat { vget ⟨false, 0, false⟩ u.mon n.toNat with armed := false, pend := false } }) ∧
    (t.mwait = none → exec (.mwait h a b) s = .next (((d.1.modCur fun u => { u with
        mwait := none, mon := if t.pends = 0 then u.mon else u.mon.map fun x => { x with pend := false } }).after 2
      (.trackedRegisterWrite ⟨s.me, d.2, if t.pends = 0 then 2 ^ 63 else t.pends, none⟩)).popAll (popsOf [b]))) ∧
    (∀ dl dst, t.mwait = some (dl, dst) → exec (.mwait h a b) s = .next (((s0.modCur fun u => { u with
        mwait := none, mon := if t.pends = 0 then u.mon else u.mon.map fun x => { x with pend := false } }).after 2
      (.trackedRegisterWrite ⟨s.me, dst, if t.pends = 0 then 2 ^ 63 else t.pends, none⟩)).popAll (popsOf [b]))) ∧
    (∀ i, t.pends.testBit i = true ↔ i < 4 ∧ (vget ⟨false, 0, false⟩ t.mon i).pend = true) ∧
    exec .mwaitDeadline s = .next (s.modThread s.subj.core s.subj.slot fun u =>
      match u.mwait with
      | some (some dl, _) => if dl ≤ s.cycle then { u with parked := false } else u
      | _ => u)

/-- R239–R243, R263: a barrier object counts down and starts its next round with GEN one more; `barinit` marks it and sets its
count; `bararr` and `barwait` act on it, near at the scratchpad and far through the combiner; `barwait` gives the outcome of
the round its record names. A combined arrival and a combiner's read have their turn at the object's bank (R121), and its tag
is checked where the segment asks it (R128). The model's choice in this: a far `barwait` without a record starts from the
combiner's first answer (DEDUCED, log 82); one arrival serves a combiner entry whose arrivers differ in TAGX, and is checked
(DESIGN CHOICE, log 85). -/
def Obligations.Barriers : Prop :=
  ∀ (s : State) (h : CHead) (m : MemR) (a c : BitVec 5) (pd : BitVec 3) (x : Word) (k g n : Nat) (acc : LocalAcc)
    (cm : CombMsg) (rep : CombRep), s.Issues h.neg h.grd →
    let s0 := s.onWord false
    let co := s.ctx.core
    let off := x.toNat % 2 ^ 20
    let near := s.homeOf co x = .core co
    let cnt := leNat (s.spadRead k (64 * g) 8)
    let gen := leNat (s.spadRead k (64 * g + 16) 4)
    let t := s.countDown k g n
    (s.check (s.refR m) 64 false true 64 = .ok x → s.isLocal x = true → exec (.barinit h m c) s = .next
      ((s0.localAccess off false (.barinit x (s.sval c [m.idx]))).popAll (popsOf [m.idx, c]))) ∧
    (s.check (s.refR m) 64 false true 64 = .ok x → near ∨ s.elsewhere x = true → exec (.bararr h m) s = .next
      ((if near then s0.localAccess off false (.bararr x) else s0.combine x (!(s.ctx.pre.seg m.sg.toNat).tagx)).popAll
        (popsOf [m.idx]))) ∧
    (∀ mk gn wait, s.check (s.refR m) 64 true false 64 = .ok x → near → mk = s.markAt co (off / 64) →
      gn = leNat (s.spadRead co (off / 64 * 64 + 16) 4) →
      wait = s.ctx.pre.barX.filter (fun y => y.addr == x && !y.far) →
      let eg := match wait.bind (·.start), s.ctx.pre.barRec with
        | some e, _ => e
        | none, some r => if r.addr = x then (r.epoch, r.gen) else (mk.epoch, gn)
        | none, none => (mk.epoch, gn)
      let s1 := s0.modCur fun u => { u with barX := none }
      let d := s1.track a
      let res (ok : Bool) (v : Nat) : State :=
        (d.1.resultP pd 1 ok).after 2 (.trackedRegisterWrite ⟨s.me, d.2, v, none⟩)
      let held (s : State) : State := s.holdFull d.2 none Park.regEmpty
      (∀ r, wait.bind (·.freed) = some r → exec (.barwait h a m pd) s =
        .next ((if r = 0 then held (res true 0) else res false r).popAll (popsOf [m.idx]))) ∧
      (wait.bind (·.freed) = none →
      (mk.mark = true → mk.epoch = eg.1 → gn ≠ eg.2 →
        exec (.barwait h a m pd) s = .next ((held (res true 0)).popAll (popsOf [m.idx]))) ∧
      (mk.mark = false → exec (.barwait h a m pd) s = .next ((res false mk.cause).popAll (popsOf [m.idx]))) ∧
      (mk.mark = true → mk.epoch ≠ eg.1 → exec (.barwait h a m pd) s = .next ((res false 2).popAll (popsOf [m.idx]))))) ∧
    (s.Canonical → gen + 1 < 2 ^ 32 →
      t.Canonical ∧ t.marks = s.marks ∧ t.spadTag = s.spadTag ∧
      (cnt ≤ n → t.spadRead k (64 * g) 8 = s.spadRead k (64 * g + 8) 8 ∧ leNat (t.spadRead k (64 * g + 16) 4) = gen + 1) ∧
      (n < cnt → leNat (t.spadRead k (64 * g) 8) = cnt - n ∧ leNat (t.spadRead k (64 * g + 16) 4) = gen) ∧
      ∀ j, j < spadKey k (64 * g) ∨ spadKey k (64 * g) + 20 ≤ j → mget t.spad j = mget s.spad j) ∧
    (∀ sl th y, s.threadAt k sl = some th → cnt ≤ n → th.barX = some y → y.far = false → wbits y.addr 6 14 = g →
      y.freed = none → ∃ u, t.threadAt k sl = some u ∧ u.barX = some { y with freed := some 0 }) ∧
    (s.localHeld k acc = false → (s.coreAt k).bankTaken s.cycle [acc.off / 64] = false →
      s.needsRecord k (acc.off / 64) acc.noundo = false →
    (acc.op = .barinit x (wd n) → s.Canonical → acc.off % 64 = 0 → ∃ t, exec (.localAccessPerformed k acc) s = .next t ∧
      let mk := s.markAt k (acc.off / 64)
      t.markAt k (acc.off / 64) = ⟨true, (mk.epoch + 1) % 65536, if mk.mark then 2 else mk.cause⟩ ∧
      t.spadRead k acc.off 64 = toLE 8 n ++ toLE 8 n ++ List.replicate 48 0 ∧
      ∀ th, s.threadAt acc.who.core acc.who.slot = some th → th.tid = acc.who.tid → ∃ u,
        t.threadAt acc.who.core acc.who.slot = some u ∧ u.barRec = some ⟨x, (mk.epoch + 1) % 65536, 0⟩) ∧
    (acc.op = .bararr x → ∃ t, exec (.localAccessPerformed k acc) s = .next t ∧
      ∀ th, s.threadAt acc.who.core acc.who.slot = some th → th.tid = acc.who.tid → ∃ u,
        t.threadAt acc.who.core acc.who.slot = some u ∧
        u.barRec = some ⟨x, (s.markAt k (acc.off / 64)).epoch, leNat (s.spadRead k (64 * (acc.off / 64) + 16) 4)⟩)) ∧
    (let hm := cm.home
     let i := cm.addr.toNat % 2 ^ 20 / 64
     let tag := s.spadTagAt hm i
     let mk := s.markAt hm i
     let after := if mk.mark = true then s.countDown hm i cm.count else s
     let tells (t : State) (r : CombRep) : Prop := t.net = s.net ++ [⟨hm, cm.core, s.rinOf hm, ⟨.combinerReply cm r, {}⟩⟩]
     (s.coreAt hm).netJobs = [] →
       ((s.coreAt hm).bankTaken s.cycle [i] = true → exec (.combinedArrival cm) s =
         .next (s.modCore hm fun k => { k with netJobs := [.combined cm] })) ∧
       ((s.coreAt hm).bankTaken s.cycle [i] = false →
         (cm.check = true → tag ≠ tagOf cm.addr → ∃ t, exec (.combinedArrival cm) s = .next t ∧ s.SameMemory t ∧
           tells t (.tagMismatch (wd ((tagOf cm.addr).toNat * 16 + tag.toNat)))) ∧
         (cm.check = false ∨ tag = tagOf cm.addr →
           mk.mark = true → s.undoBlocks hm [i] = false ∧ s.needsRecord hm i false = false → ∃ t,
           exec (.combinedArrival cm) s = .next t ∧ t.spad = after.spad ∧ t.marks = s.marks ∧
           t.threadAt hm = after.threadAt hm ∧ tells t (.found mk.epoch (leNat (s.spadRead hm (64 * i + 16) 4)))) ∧
         (cm.check = false ∨ tag = tagOf cm.addr → mk.mark = false → ∃ t,
           exec (.combinedArrival cm) s = .next t ∧ s.SameMemory t ∧
           tells t (.found mk.epoch (leNat (s.spadRead hm (64 * i + 16) 4)))))) ∧
    (∀ e ep gn o, (s.coreAt cm.core).combs.find? (·.id == cm.entry) = some e → e.orgs = [o] → rep = .found ep gn →
      exec (.combinerReply cm rep) s = .next
        ((s.modCore cm.core fun k => { k with combs := k.combs.filter (·.id != cm.entry) }).modWho ⟨cm.core, o.1, o.2.1⟩
          fun t => { t with barRec := some ⟨cm.addr, ep, gn⟩ })) ∧
    (∀ th y, s.threadAt s.subj.core s.subj.slot = some th → th.barX = some y → y.addr = s.subj.w → y.far = true →
      s.subj.b = true → y.check = false ∨ s.spadTagAt s.subj.n (y.addr.toNat % 2 ^ 20 / 64) = tagOf y.addr →
      let i := y.addr.toNat % 2 ^ 20 / 64
      let now := (s.markAt s.subj.n i, leNat (s.spadRead s.subj.n (64 * i + 16) 4))
      (s.coreAt s.subj.n).netJobs = [] → (s.coreAt s.subj.n).bankTaken s.cycle [i] = false →
      ∃ t, exec .combinerReread s = .next t ∧ s.SameMemory t ∧ t.net = s.net ∧
        t.threadAt s.subj.core s.subj.slot = some { th with
          barX := some { y with seen := some now, start := y.start <|> some (barStart th y.addr now) } })

/-- R245–R247, R371: the supervision of slots. The slot watchdog traps with BSTATE, of a slot that is still parked and whose
packet has not been admitted elsewhere; a thermal update disables the highest enabled slot, or enables the lowest disabled one,
and COUNT counts them; a displaced thread departs for the first core of the thermal ranking that is another core of its
domain; a scan of the snag detector that finds no cycle starts the next after 16,384 cycles; a cycle of two scans none of
whose members has issued since is reported at its first member, as a Snag trap with the number of its slots, whose
continuation records hold the words of its first 32 members, eight to a record, with zeros after them. The model's choice in
this: what the ranking holds, cores of any die (DESIGN CHOICE, log 6); and that a member has issued between two scans is read
from the cycle it parked in (DEDUCED, log 60). -/
def Obligations.SlotSupervision : Prop :=
  ∀ (s : State) (th : Thread),
    let c := s.subj.core
    let k := s.coreAt c
    let off (w : Word) (i : Nat) : Bool := w.getLsbD i
    let top (P : Nat → Bool) (i : Nat) : Prop := i < 16 ∧ P i = true ∧ ∀ j, i < j → j < 16 → P j = false
    let can (i : Nat) : Bool := !off k.thermslot i && !(i == 15 && k.amen)
    (s.threadAt c s.subj.slot = some th →
      let waits := th.parked = true ∧ th.run = .running ∧ s.gone th = false
      let back := match th.depart with
        | some d => if d.sent then s.withdrawPacket th.tid d.dest else s
        | none => s
      let s1 := back.modThread c s.subj.slot fun t => { t with depart := none }
      (waits → exec .slotWatchdog s = .next (s1.takeTrap ⟨c, s.subj.slot, th.tid⟩ false
        ⟨th.pc, s.bundleAt c th, false, th.srep.isSome⟩ ⟨0x16, 3, vget 0 (s.coreAt c).bstates s.subj.slot, 0⟩)) ∧
      (¬waits → exec .slotWatchdog s = .next s)) ∧
    (∃ w : Word, exec .thermslotUpdate s = .next (s.modCore c fun k => { k with thermslot := w }) ∧
      wbits w 21 43 = 0 ∧ wbits w 16 5 = ((List.range 16).countP fun i => off w i) ∧
      (s.subj.b = true → (List.range 16).countP (fun i => off k.thermslot i) < 15 → ∀ i, top can i →
        ∀ j, j < 16 → off w j = (off k.thermslot j || j == i)) ∧
      (s.subj.b = false → ∀ i, i < 16 → off k.thermslot i = true → (∀ j, j < i → off k.thermslot j = false) →
        ∀ j, j < 16 → off w j = (off k.thermslot j && j != i))) ∧
    (∀ d, s.threadAt c s.subj.slot = some th →
      ((Config.thermalRank (s.cycle * 8 + c / 288)).take 16).find? (fun k => k != c && (s.coreAt k).v &&
        (s.coreAt k).pdid == th.pdid) = some d →
      exec .thermalDisplacement s = .next ((s.modThread c s.subj.slot fun t =>
        { t with depart := some ⟨d, 3, th.pc.setWidth 64, false, false, s.cycle, 0, true⟩ }).park c s.subj.slot
          { kind := 10 })) ∧
    ((∀ die, die < 8 → s.cyclesOf die = []) → exec .snagScan s = .next
      ({ s with snagPrev := [] }.after 16384 .snagScan)) ∧
    (∀ cyc x, (List.range 8).flatMap s.cyclesOf = [cyc] → cyc ∈ s.snagPrev →
      (∀ n ∈ cyc, n < 2 ^ 20 ∧ ∃ t, s.threadAt (n / 16) (n % 16) = some t ∧ t.parkSince + 16384 ≤ s.cycle) →
      s.threadAt (cyc.headD 0 / 16) (cyc.headD 0 % 16) = some x → s.saving ≠ some (cyc.headD 0 / 16, cyc.headD 0 % 16) →
      ∃ recs : List (List Byte),
      let v := cyc.headD 0
      let listed := if cyc.length ≤ 32 then cyc.length else 32
      let word (n : Nat) : Nat :=
        let b := vget 0 (s.coreAt (n / 16)).bstates (n % 16)
        (wd (b.toNat / 2 ^ 60 * 2 ^ 60 + n / 16 * 2 ^ 20 + n % 16 * 2 ^ 16 + b.toNat % 2 ^ 16)).toNat
      exec .snagScan s = .next ({ (s.modThread (v / 16) (v % 16) fun t => { t with depart := none }).takeTrap
        ⟨v / 16, v % 16, x.tid⟩ false ⟨x.pc, s.bundleAt (v / 16) x, false, x.srep.isSome⟩
        ⟨0x11, if cyc.length ≤ 255 then cyc.length else 255, 0, wd recs.length⟩ recs with snagPrev := [] }.after 16384
          .snagScan) ∧
      recs.length = (listed + 7) / 8 ∧ (∀ r ∈ recs, r.length = 64) ∧
      ∀ i, i < 8 * recs.length → ((recs.getD (i / 8) []).drop (8 * (i % 8))).take 8 =
        toLE 8 (if i < listed then word (cyc.getD i 0) else 0))

/-- R258, R261–R266, R278: an access of global memory that passes its checks sends one request to the home of its address, as the
tables of its core name it, counts it under the scope class of that home, and empties its destination; `fence` has no effect of its own beyond waiting, and waits while anything of its scopes is
outstanding. -/
def Obligations.GlobalAccesses : Prop :=
  ∀ (s : State) (h : CHead) (m : CM) (n : CMS) (g : CG) (t : CA) (e : CARed) (a : BitVec 5) (f : MemR) (sc : BitVec 2) (x : Word),
    s.Issues h.neg h.grd →
    let s0 := s.onWord false
    let sends (i : Instr) (s1 : State) (r : Req) (dc : Option Nat) (pops : List Nat) : Prop :=
      exec i s = .next ((match dc with
        | some d => (s1.sendReq r).incD d
        | none => s1.sendReq r).popAll pops) ∧
      r.who = s.me ∧ r.addr = x ∧ r.pdid = s.ctx.pre.pdid ∧ r.rin = s.curCore.rinCur.toNat ∧
      r.node = homeNode s.ctx.core (s.homeOf s.ctx.core x) ∧
      r.cls = s.classOf s.ctx.core x (s.homeOf s.ctx.core x) ∧
      (∀ th, s.cur = some th → r.seq = (th.seq + 1).toNat)
    (∀ sz, sz = tySize m.ty → s.check (s.refCM m.sg m.ix m.idx m.lit sz) sz true false sz = .ok x →
      ∃ r, sends (.gld h m) (s0.track m.reg).1 r (some m.dc.toNat) [] ∧ r.kind = .read ∧ r.size = sz ∧
        r.signed = tySigned m.ty ∧ r.dst = (s0.track m.reg).2 ∧ r.dc = some m.dc.toNat ∧ r.bar = none) ∧
    (∀ sz, sz = tySize n.ty → s.check (s.refCM n.sg n.ix n.idx n.lit sz) sz false true sz = .ok x →
      ∃ r, sends (.gst h n) s0 r none (popsOf [n.reg]) ∧ r.kind = .write ∧ r.size = sz ∧
        r.data = toLE sz (s.sval n.reg).toNat ∧ r.bar = none) ∧
    (∀ sz, sz = 2 ^ g.w.toNat → s.check (s.refCM g.sg true g.idx g.lit 1) sz false true sz = .ok x →
      ∃ r, sends (.gstc h g) s0 r none (popsOf [g.reg]) ∧ r.kind = .write ∧ r.size = sz ∧
        r.data = toLE sz (s.sval g.reg).toNat ∧ r.bar = some (s.ctx.pre.sreg g.bar.toNat).toNat) ∧
    (∀ sz, sz = (if t.ty.toNat < 2 then 4 else 8) →
      s.check ⟨t.sg.toNat, (if t.ix then (s.ctx.pre.sreg t.idx.toNat).toInt else 0) + t.disp.toInt⟩ sz true true sz = .ok x →
      ∃ r, sends (.gatom h t) (s0.track t.a).1 r none (if t.op = 7 then popsOf [t.a] else []) ∧ r.kind = .atomic ∧
        r.size = sz ∧ r.op = t.op.toNat ∧ r.signed = (t.ty.toNat % 2 == 0) ∧ r.dst = (s0.track t.a).2 ∧
        r.data = toLE sz (s.ctx.pre.sreg t.b.toNat).toNat ∧ (t.op = 7 → t.a.toNat < 16 → r.cmp = s.sval t.a)) ∧
    (∀ sz, sz = (if e.ty.toNat < 2 then 4 else 8) →
      s.check ⟨e.sg.toNat, (if e.ix then (s.ctx.pre.sreg e.idx.toNat).toInt else 0) + e.disp.toInt⟩ sz false true sz = .ok x →
      ∃ r, sends (.gred h e) s0 r none [] ∧ r.kind = .reduce ∧ r.size = sz ∧ r.op = e.op.toNat ∧
        r.signed = (e.ty.toNat % 2 == 0) ∧ r.data = toLE sz (s.ctx.pre.sreg e.b.toNat).toNat ∧ r.dst = .none) ∧
    (s.check (s.refR f) 0 true false 1 = .ok x →
      ∃ r, sends (.frd h a f) (s0.track a).1 r none (popsOf [f.idx]) ∧ r.kind = .flush ∧ r.dst = (s0.track a).2) ∧
    exec (.fence h sc) s = .next s0 ∧
    (∀ c, c.ctx.mode = .probe → c.cur.isSome = true → c.view.guard h.neg h.grd = true →
      ∃ d, exec (.fence h sc) c = .next d ∧ (d.ctx.found.park4 = none ↔
        c.view.localOut = 0 ∧ (∀ x ∈ c.view.streams.toList, ∀ r, x = some r → r.pushes = 0) ∧
          ∀ k, k ≤ sc.toNat → vget 0 c.view.outst k = 0))

/-- R264: the seven operations and compare-and-swap of an atomic, at its width: what it writes for an old value. R128, R257–R264:
a request of a known source, not seen before, at a scratchpad home: a tag mismatch is answered and changes nothing; a read is
answered with the bytes; a write, an atomic and a reduction write theirs; each is noted in the replay filter and answered.
One whose bank serves another access waits; a write whose granule has no record yet waits while the record is made (R121,
R123). -/
def Obligations.RequestsAtHome : Prop :=
  (∀ (old b cmp size : Nat) (sg : Bool), size = 4 ∨ size = 8 → old < 2 ^ (8 * size) → b < 2 ^ (8 * size) →
     let n := 8 * size
     let si (x : Nat) : Int := if x < 2 ^ (n - 1) then x else x - (2 ^ n : Nat)
     let lt (x y : Nat) : Prop := if sg = true then si x < si y else x < y
     let new (op : Nat) : Option Nat := atomNew op size sg old b cmp
     new 0 = some ((old + b) % 2 ^ n) ∧ new 1 = some (old &&& b) ∧ new 2 = some (old ||| b) ∧ new 3 = some (old ^^^ b) ∧
     (∃ v, new 4 = some v ∧ (v = old ∨ v = b) ∧ ¬lt old v ∧ ¬lt b v) ∧
     (∃ v, new 5 = some v ∧ (v = old ∨ v = b) ∧ ¬lt v old ∧ ¬lt v b) ∧
     new 6 = some b ∧ (old = cmp % 2 ^ n → new 7 = some b) ∧ (old ≠ cmp % 2 ^ n → new 7 = none)) ∧
  (∀ (s : State) (r : Req) (c : Nat) (f : FilterE),
     r.node = c → c < 4096 → s.filterWait = [] → (s.coreAt c).heldReqs = [] → (s.coreAt c).copies = [] →
     (s.filterAt c).find? (·.tid == r.who.tid) = some f → serialLe (BitVec.ofNat 32 r.seq) f.last = false →
     let off := r.addr.toNat % 2 ^ 20
     let gs := granulesOf off r.size
     let old := s.spadRead c off r.size
     let u := s.takeBanks c gs .net
     let writes := r.kind ∈ [ReqKind.write, .atomic, .reduce]
     let good := r.tagx = true ∨ ∀ g ∈ gs, s.spadTagAt c g = tagOf r.addr
     (∀ v, r.kind = .write → s.undoBlocks c gs = false → (s.coreAt c).bankTaken s.cycle gs = false →
       s.logTurn c gs r.noundo = some v →
       exec (.globalWrite r) s = .next (v.modCore c fun k => { k with heldReqs := k.heldReqs ++ [r] })) ∧
     ((s.coreAt c).bankTaken s.cycle gs = true → r.kind ∈ [ReqKind.read, .write, .atomic, .reduce] →
       exec (reqStep r) s = .next (s.modCore c fun k => { k with heldReqs := [r] })) ∧
     ((s.coreAt c).bankTaken s.cycle gs = false →
       (writes → s.undoBlocks c gs = false ∧ ∀ g ∈ gs, s.needsRecord c g r.noundo = false) →
       (r.kind ∈ [ReqKind.read, .launchRec] → good → exec (.globalRead r) s = .next (u.settleReq c r (.ok old))) ∧
       (r.kind = .write → good → exec (.globalWrite r) s = .next ((u.spadWrite c off r.data r.noundo).settleReq c r (.ok []))) ∧
       (r.kind ∈ [ReqKind.atomic, .reduce] → good → exec (.atomicAtHome r) s = .next
         ((match atomNew r.op r.size r.signed (leNat old) (leNat r.data) r.cmp.toNat with
           | some v => u.spadWrite c off (toLE r.size v) r.noundo
           | none => u).settleReq c r (.ok (if r.kind = ReqKind.atomic then old else [])))) ∧
       (r.kind = .flush → good → exec (.flushReadAtHome r) s = .next (u.settleReq c r (.ok []))) ∧
       (∀ g, r.kind ∈ [ReqKind.read, .write, .atomic, .reduce] → r.tagx = false →
         gs.find? (fun g => s.spadTagAt c g != tagOf r.addr) = some g → exec (reqStep r) s = .next
           (u.settleReq c r (.failed 7 1 (wd ((tagOf r.addr).toNat * 16 + (s.spadTagAt c g).toNat)))))))

/-- R257, R258, R260, R263, R283: an acknowledgement or reply at the issuing interface: the request is acknowledged, its register
written and full and its counter lower, or its trap reported; a counted store counts at its barrier object; a handler's
result is confirmed; a late answer follows its thread; what is not acknowledged in 32,768 cycles is sent again; what a full
filter refused arrives again in its order. The barrier update of a counted store is an access of the network interface at the
object's bank, and waits there while another access has it (R121). A late answer at the core the thread is at is discarded. -/
def Obligations.AnswersAtIssuer : Prop :=
  ∀ (s : State) (r : Req) (bs : List Byte) (cause sub : Nat) (d : Word) (m : AMsg) (v : Word) (core : Nat) (rep : Reply),
    let c := r.who.core
    (r.who.slot ≠ 255 → ofCopy r = false → r.kind ≠ .amsg → (s.coreAt c).awaits r = true →
      (r.kind = .read ∨ r.kind = .atomic → exec (.acknowledgementArrival r (.ok bs)) s = .next
        (((s.ackReq r).writeFull r.who r.dst (extend r.signed (leNat bs) (8 * r.size)).toNat).decD r.who r.dc)) ∧
      (r.kind = .write ∨ r.kind = .reduce → exec (.acknowledgementArrival r (.ok bs)) s =
        .next (if r.kind = .write then (s.ackReq r).decD r.who r.dc else s.ackReq r)) ∧
      (r.kind = .flush → exec (.acknowledgementArrival r (.ok bs)) s = .next ((s.ackReq r).writeFull r.who r.dst 0)) ∧
      (r.kind ≠ .launchRec → r.kind ≠ .segRead → exec (.acknowledgementArrival r (.failed cause sub d)) s = .next
        (((((s.ackReq r).failDst r).decD r.who r.dc).after 0 (.trapReportAfterIssue r.who r.org ⟨cause, sub, r.addr, d⟩)))) ∧
      (∀ b, r.bar = some b → (s.coreAt c).netJobs = [] →
        let g := b / 64
        let j := s.modCore c fun k => { k with netJobs := [.counted r] }
        let q := (j.takeBanks c [g] .net).ackReq r
        ((s.coreAt c).bankTaken s.cycle [g] = true → exec (.countedAckArrival r) s = .next j) ∧
        ((s.coreAt c).bankTaken s.cycle [g] = false →
          ((s.markAt c g).mark = true → s.undoBlocks c [g] = false ∧ s.needsRecord c g false = false) →
          exec (.countedAckArrival r) s = .next
            ((if (q.markAt c g).mark = true then q.countDown c g 1 else q.fire c g).modCore c fun k => { k with netJobs := [] })))) ∧
    (r.who.slot ≠ 255 → r.kind = .amsg →
      (s.coreAt c).amOut.find? (fun x => x.who.tid == r.who.tid && x.seq == r.seq) = some m →
      exec (.acknowledgementArrival r rep) s = .next
        (((((s.modCore c fun k => { k with amOut := k.amOut.filter (· != m) }).send c r.node .replyConfirm
          { n := r.node, m := r.who.tid, w := wd r.seq }).countIn r.who r.cls true).landReply r rep))) ∧
    (r.who.slot ≠ 255 → ofCopy r = false → r.kind ≠ .amsg → (s.coreAt c).awaits r = false →
      exec (.acknowledgementArrival r rep) s = exec (.lateReplyForward c r rep) s) ∧
    ((∃ x ∈ (s.coreAt core).threads, x.2.tid = r.who.tid) → exec (.lateReplyForward core r rep) s = .next s) ∧
    ((∀ x ∈ (s.coreAt core).threads, x.2.tid ≠ r.who.tid) →
      exec (.lateReplyForward core r rep) s = .next (match tget (s.coreAt core).fwd r.who.tid with
        | some x => s.send core x.1 (.lateReplyForward x.1 r rep)
        | none => s)) ∧
    ((s.coreAt m.who.core).amOut.find? (fun x => x.who.tid == m.who.tid && x.seq == m.seq) = some m →
      exec (.amsgReply m v) s = .next (((((s.modCore m.who.core fun k => { k with amOut := k.amOut.filter (· != m) }).countIn
        m.who m.cls true).writeFull m.who m.dst v.toNat).send m.who.core m.home .replyConfirm
          { n := m.home, m := m.who.tid, w := wd m.seq }))) ∧
    (exec .replyConfirm s = .next (s.modFilter s.subj.n fun l => l.map fun e => if e.tid == s.subj.m then
      { e with cached := e.cached.filter (·.1 != s.subj.w.setWidth 32) } else e)) ∧
    ((s.coreAt s.subj.core).unacked = [] → (s.coreAt s.subj.core).amOut = [] → exec .requestResendTimeout s = .next s) ∧
    (let k := s.coreAt s.subj.core
     k.unacked = [r] → k.amOut = [] → r.who.tid = s.subj.n → r.seq = s.subj.m → r.node ≠ s.subj.core → r.node < 0x10000 →
      exec .requestResendTimeout s = .next ((s.send s.subj.core r.node (reqStep r)).after 32768
        .requestResendTimeout s.subj)) ∧
    (s.filterWait = [] → exec (.filterRefusalRetry r) s = .next s) ∧
    (∀ l : List Req, s.filterWait = l.map (fun x => (r.node, x)) → (∀ x ∈ l, x.who.tid = r.who.tid) →
      exec (.filterRefusalRetry r) s = .next (l.foldl (fun t x => t.arrive x) { s with filterWait := [] }))

/-- R252–R254: what a walk finds. A leaf's page holds the address, its size is one the level allows, and its place lies in a
port's space or in host memory; a domain that is not valid or has no table is refused. R254–R256, R389: what a port and the
page-request unit do about a missing page. The walk's outcome is applied to what waits; the slot of a faulted access parks
until every port it faulted at has woken it; groups go to the host within the function's allowance, and its answer ends them;
a response of invalid or failure ends the faulted requests of its pages with a trap, and failure turns the function's
requests off. A group takes the records raised within 512 cycles of its first. What a full hold refused is sent again at the
WAKE. That a fault record names the 2 MiB page, and that a walk reads the tables as they stand when it completes, is the
model's choice (log 40). -/
def Obligations.PageTranslation : Prop :=
  (∀ (s : State) (pdid va : Nat),
     let d := s.domAt pdid
     ((d.v = false ∨ d.ptroot.getLsbD 63 = false) → s.walk pdid va = .denied 5) ∧
     (∀ e base size p off, s.walk pdid va = .leaf e base size p off →
       size ∈ [0x200000, 0x4000000, 0x40000000, 0x100000000] ∧ base ≤ va ∧ va < base + size ∧ base % size = 0 ∧
       e.getLsbD 63 = true ∧ e.getLsbD 62 = true ∧ wbits e 48 6 = 0 ∧
       (e.getLsbD 56 = false → ∃ l, leafLoc e base va = .hbm (portOf va) l ∧ l < s.portTop (portOf va) ∧ l % 64 = va % 64) ∧
       (e.getLsbD 56 = true → leafLoc e base va = .host (e.toNat % 2 ^ 48 + (va - base)))) ∧
     portOf va < 256) ∧
  (∀ (s : State) (who : SlotRef) (p g : Nat) (th : Thread),
     s.threadAt who.core who.slot = some th → th.tid = who.tid →
     let q := s.portAt s.subj.n
     let vf := s.subj.n
     let loose := s.pri.filter fun x => (s.domAt x.pdid).vf == vf && x.group.isNone
     let busy := s.pri.countP fun x => (s.domAt x.pdid).vf == vf && x.group.isSome
     exec (.faultNotice who p) s = .next ((s.modWho who fun t => { t with faulted := t.faulted ++ [p] }).park who.core who.slot
       { kind := 10 }) ∧
     (s.subj = { core := who.core, slot := who.slot, n := p, m := who.tid } → ∃ t u, exec .wakeNotice s = .next t ∧
       t.threadAt who.core who.slot = some u ∧ u.faulted = th.faulted.filter (· != p) ∧
       u.parked = (th.parked && !(th.faulted.filter (· != p)).isEmpty) ∧
       (∀ r ∈ (s.portAt p).refused, r.who = who → ofCopy r = false → r ∉ (t.portAt p).refused ∧
         ∃ x ∈ t.net, x.src = who.core ∧ x.dst = portNode p ∧ x.ev.ins = reqStep r)) ∧
     (q.refresh = false → q.held = [] → ∃ t, exec .pageWalkComplete s = .next t ∧
       (t.portAt s.subj.n).walks = q.walks.filter (· != (s.subj.m, s.subj.w.toNat / 0x200000)) ∧
       (∀ e base size ep eo, s.walk s.subj.m s.subj.w.toNat = .leaf e base size ep eo →
         (⟨s.subj.m, base, size, e, ep, eo⟩ : Tlb) ∈ (t.portAt s.subj.n).tlb)) ∧
     (exec .hbmRefresh s = .next ((s.modPort s.subj.n fun q => { q with refresh := false }).servePort s.subj.n none)) ∧
     (q.held = [] → q.offers = [] → exec .faultRecordReoffer s = .next (s.modPort s.subj.n fun q => { q with offers := [] })) ∧
     (∀ h, q.held = [h] → h.fault = true → q.offers = [] → s.pri = [] → ∃ t,
       exec .faultRecordReoffer s = .next t ∧
       t.pri = [⟨h.req.pdid, h.page * 0x200000, [s.subj.n], none, s.cycle⟩] ∧
       (s.groupComing (s.domAt h.req.pdid).vf = false →
         ∃ e ∈ t.agenda, e.1 = s.cycle + 512 ∧ e.2 = ⟨.pageRequestGroup, { n := (s.domAt h.req.pdid).vf }⟩)) ∧
     (∀ x h y, s.pri = [x] → x.group = some g → x.ports = [y] → (s.portAt y).held = [h] → h.fault = true →
       h.req.pdid = x.pdid → h.page = x.va / 0x200000 →
       (s.portAt y).notified = [] → (s.portAt y).refused = [] →
       ∀ resp sub, (resp = .invalid ∧ sub = 2) ∨ (resp = .failure ∧ sub = 3) → ∃ t, exec (.prgResponse g resp) s = .next t ∧
         t.pri = [] ∧ (t.portAt y).held = [] ∧
         t.net = (s.settleReq (portNode y) h.req (.failed 10 sub 0)).net ∧
         (resp = .failure → (s.domAt x.pdid).vf ∈ t.priOff) ∧ (resp = .invalid → t.priOff = s.priOff)) ∧
     (∀ x₀, loose.head? = some x₀ → s.cycle < x₀.raised + 512 → ∃ t, exec .pageRequestGroup s = .next t ∧ t.pri = s.pri ∧
       t.priGroups = s.priGroups) ∧
     (∀ x₀, vf ∉ s.priOff → loose.head? = some x₀ → x₀.raised + 512 ≤ s.cycle → busy < (tget s.priAlloc vf).getD 0 →
       ∃ t, exec .pageRequestGroup s = .next t ∧ t.priGroups = s.priGroups + 1 ∧ t.pri.length = s.pri.length ∧
         (∃ k, 0 < k ∧ k ≤ 32 ∧ busy + k ≤ (tget s.priAlloc vf).getD 0 ∧
           ∀ x ∈ (loose.filter (·.raised ≤ x₀.raised + 512)).take k, { x with group := some (s.priGroups % 512) } ∈ t.pri) ∧
         ∀ x ∈ loose, x₀.raised + 512 < x.raised → x ∈ t.pri) ∧
     ((∀ x ∈ s.pri, x.group ≠ some g) → exec (.prgResponse g .success) s = .next s ∧
       exec (.prgResponse g .invalid) s = .next s ∧ exec (.prgResponse g .failure) s = .next s))

/-- R267, R268: an active message: it is sent with its handler's address, refused by cause and subcode, or queued; the service
slot starts its handler with s0, s1 and s2. That the core of a port serves a message whose address is in HBM is the model's
choice (log 39), and so is that the tag of a granule of an unmapped page is not compared (log 83). -/
def Obligations.ActiveMessages : Prop :=
  ∀ (s : State) (h : CHead) (a : BitVec 5) (sg : BitVec 3) (lit : BitVec 32) (x : Word) (m : AMsg) (f : FilterE)
    (set : List Seg), s.Issues h.neg h.grd →
    let s0 := s.onWord false
    let c := s.ctx.core
    let k := s.coreAt m.home
    let known := m.home < 4096 ∧ k.filter.find? (·.tid == m.who.tid) = some f ∧
      serialLe (BitVec.ofNat 32 m.seq) f.last = false ∧ s.filterWait = [] ∧ s.amWaits m = false
    (∀ th, s.cur = some th → s.check ⟨sg.toNat, (s.ctx.pre.sreg 0).toInt⟩ 1 true false 1 = .ok x → ∃ q,
      let s1 := ((s0.track a).1.countOut q.cls true).modCore c fun k => { k with amOut := k.amOut ++ [q] }
      exec (.amsg h a sg lit) s = .next (((if q.home = c then
          (s1.modCore c fun k => { k with localFree := s1.localSlot c + 1, localAt := s.cycle }).at (s1.localSlot c) ⟨.amsgArrival q, {}⟩
        else s1.send c q.home (.amsgArrival q)).after 32768 .requestResendTimeout
          { core := c, n := th.tid, m := q.seq }).popAll (popsOf [a])) ∧
      q.who = s.me ∧ q.dst = (s0.track a).2 ∧ q.home = travelNode c (s.homeOf c x) ∧ q.arg = s.sval a ∧ q.addr = x ∧
      q.pc = BitVec.ofNat 32 (lit.toNat % 65536) ∧ q.seq = (th.seq + 1).toNat ∧ q.cls = s.classOf c x (s.homeOf c x) ∧ q.tagx = (s.ctx.pre.seg sg.toNat).tagx) ∧
    (known → (k.v = false ∨ k.pdid ≠ m.pdid) →
      exec (.amsgArrival m) s = .next (s.settleReq m.home (amsgReq m) (.failed 0x10 2 0))) ∧
    (known → k.v = true → k.pdid = m.pdid → k.amen = false →
      exec (.amsgArrival m) s = .next (s.settleReq m.home (amsgReq m) (.failed 0x10 3 0))) ∧
    (known → k.v = true → k.pdid = m.pdid → k.amen = true → k.codeEntry m.task 0 = none →
      exec (.amsgArrival m) s = .next (s.settleReq m.home (amsgReq m) (.failed 0x17 2 0))) ∧
    (known → k.v = true → k.pdid = m.pdid → k.amen = true → (k.codeEntry m.task 0).isSome = true → m.tagx = false →
      spaceOf m.addr = 1 → let got := s.spadTagAt m.home (m.addr.toNat % 2 ^ 20 / 64)
      got ≠ tagOf m.addr → exec (.amsgArrival m) s = .next (s.settleReq m.home (amsgReq m)
        (.failed 7 1 (wd ((tagOf m.addr).toNat * 16 + got.toNat))))) ∧
    (known → k.v = true → k.pdid = m.pdid → k.amen = true → (k.codeEntry m.task 0).isSome = true → (s.amTag m).2 = none → ∃ t,
      exec (.amsgArrival m) s = .next t ∧ (t.coreAt m.home).amq = k.amq ++ [m]) ∧
    (∀ r, (s.coreAt s.subj.core).amq = m :: r → (s.coreAt s.subj.core).amen = true → s.threadAt s.subj.core 15 = none →
      (s.domAt m.pdid).v = true → tget (s.coreAt s.subj.core).segCache m.pdid = some set → ∃ t u,
        exec .amsgHandlerStart s = .next t ∧ u.sg = segRegs set ∧
        (t.coreAt s.subj.core).amq = r ∧ t.threadAt s.subj.core 15 = some u ∧ u.pc = m.pc ∧ u.sreg 0 = m.arg ∧
        u.sreg 1 = m.addr ∧ u.sreg 2 = m.ident ∧ (∀ i, 3 ≤ i → i < 16 → u.sreg i = 0) ∧ u.pdid = m.pdid ∧ u.task = m.task ∧
        u.status = m.status ∧ u.handler = some m)

/-- R269–R272: copies: a copy owns its granules from issue and empties its token register; its engine reads a granule, which fails where the
address is refused as it leaves (R15); when the last is settled the token is written: 0, or bit 63 with the cause, subcode and number of the first granule that failed. A
prefetch hint has no effect but on the translation caches. -/
def Obligations.Copies : Prop :=
  ∀ (s : State) (h : CHead) (y : CY) (len : CopyLen) (lst cnt : BitVec 4) (rowb : BitVec 16) (m : MemR) (c5 : BitVec 5)
    (d x : Word) (o : CopyOp) (fail : Option (Nat × Nat)), s.Issues h.neg h.grd →
    let s0 := s.onWord false
    let c := s.ctx.core
    let n := match len with
      | .imm k => k.toNat
      | .reg r => (s.ctx.pre.sreg r.toNat).toNat
    let dstAt (n : Nat) := s.check ⟨y.sgd.toNat, (s.ctx.pre.sreg y.idxd.toNat).toInt⟩ n false true 64
    let tok : RegDst := .sreg y.tok.toNat
    let none_ : State := (s0.modCur (·.mark tok true)).after 2 (.trackedRegisterWrite ⟨s.me, tok, 0, none⟩)
    let total := (s.ctx.pre.sreg cnt.toNat).toNat * rowb.toNat
    let started (o : CopyOp) : Out := .next (((s0.modCur (·.mark tok true)).modCore c fun k =>
      { k with nextCopy := s.curCore.nextCopy + 1, copies := k.copies ++ [o] }).at (s.localSlot c) ⟨.copyGranule, { core := c, n := o.id }⟩)
    (n = 0 → exec (.copy h y len) s = .next none_) ∧
    (total = 0 → exec (.copyg h y lst cnt rowb) s = .next none_) ∧
    (n ≠ 0 → dstAt n = .ok d → s.check ⟨y.sgs.toNat, (s.ctx.pre.sreg y.idxs.toNat).toInt⟩ n true false 64 = .ok x → ∃ o,
      exec (.copy h y len) s = started o ∧ o.id = s.curCore.nextCopy ∧ o.who = s.me ∧ o.tok = y.tok.toNat ∧ o.dst = d ∧
      o.src = x ∧ o.len = n ∧ o.rowb = 0 ∧ o.gran = 0 ∧ o.fail = none ∧
      (∀ th, s.cur = some th → o.waits = th.localOut) ∧ o.put = 0 ∧ o.due = false ∧
      o.owned = if s.homeOf c d = .core c then granulesOf (d.toNat % 2 ^ 20) n else []) ∧
    (total ≠ 0 → dstAt total = .ok d → ∃ o,
      exec (.copyg h y lst cnt rowb) s = started o ∧ o.id = s.curCore.nextCopy ∧ o.who = s.me ∧ o.tok = y.tok.toNat ∧
      o.dst = d ∧ o.len = total ∧ o.rowb = rowb.toNat ∧ o.list = (s.ctx.pre.sreg lst.toNat).toNat ∧ o.gran = 0 ∧
      o.owned = granulesOf (d.toNat % 2 ^ 20) total ∧ o.srcOff = (s.ctx.pre.sreg y.idxs.toNat).toInt ∧ o.srcLimit = (s.ctx.pre.seg y.sgs.toNat).limit) ∧
    (∃ t, exec (.cpref h m c5) s = .next t ∧ t.hbm = s.hbm ∧ t.hbmTag = s.hbmTag ∧ t.spad = s.spad ∧
      t.SameThreads s ∧ t.undo = s.undo ∧ (∀ k, k ≠ c → t.coreAt k = s.coreAt k)) ∧
    ((s.copyAt s.subj.core s.subj.n) = none → exec .copyGranule s = .next s) ∧
    (s.copyAt s.subj.core s.subj.n = some o →
      (s.coreAt s.subj.core).paused = true ∨ (o.gran = 0 ∧ (o.waits ≠ 0 ∨ o.pushWaits ≠ 0)) →
      exec .copyGranule s = .next (s.after 1 .copyGranule s.subj)) ∧
    (s.copyAt s.subj.core s.subj.n = some o → (s.coreAt s.subj.core).paused = false → o.rowb = 0 →
      (o.gran = 0 → o.waits = 0 ∧ o.pushWaits = 0) →
      let checked := s.r15Span s.subj.core (addOff o.src (64 * o.gran)) 64
      (∀ f, checked = some f → exec .copyGranule s = .next (s.copySettle s.subj.core o (some f))) ∧
      (∀ p, checked = none → s.subj.core < 4096 → s.homeOf s.subj.core (addOff o.src (64 * o.gran)) = .port p → ∃ r, exec .copyGranule s =
        .next (s.send s.subj.core (portNode p) (.globalRead r)) ∧ r.kind = .copyRead ∧
          r.addr = addOff o.src (64 * o.gran) ∧ r.size = 64 ∧ r.copyId = o.id ∧ r.gran = o.gran) ∧
      (checked = none → s.homeOf s.subj.core (addOff o.src (64 * o.gran)) = .core s.subj.core →
        exec .copyGranule s = .next (s.modCopy s.subj.core o.id fun x => { x with due := true }))) ∧
    ((o.gran + 1) * 64 ≥ o.len → o.rowb = 0 → (s.coreAt s.subj.core).heldReqs = [] →
      s.copySettle s.subj.core o fail = (s.modCore s.subj.core fun k =>
        { k with copies := k.copies.filter (·.id != o.id) }).writeFull o.who (.sreg o.tok)
          (match o.fail, fail with
            | some (a, b, g), _ => 2 ^ 63 + a * 2 ^ 48 + b * 2 ^ 40 + g
            | none, some (a, b) => 2 ^ 63 + a * 2 ^ 48 + b * 2 ^ 40 + o.gran
            | none, none => 0))

/-- R222–R224: a memory port as a peer: it accepts one of the two forms at a free endpoint, with a ring of 8 and its own CONNID;
a read stream sends label 0 and a tile while tiles remain, then label 1 and a close notice; a write stream takes BASE, STEP,
labels and tiles, and after label 1 sends the number of tiles; an obstacle stops it with reason 5. A tile is read and written
granule by granule, each at the home of its address (R13). -/
def Obligations.PortStreams : Prop :=
  ∀ (s : State) (r : ConnReq) (pr : Member) (m : ChMsg) (rest : List ChMsg) (w : Bool) (t a : Word) (bs : List Byte)
    (q : Req) (cause sub : Nat) (d : Word),
    let p := s.subj.n
    let i := s.subj.m
    let e := s.endAt p i
    let c := (corePort r.dst.core).getD 0
    let back (s : State) (r : ConnReq) (o : ConnOut) : State := s.send (portNode c) (s.locNode r.src) (.connectOutcome r o)
    let node (a : Word) : Nat := homeNode (portCore p) (s.homeOf (portCore p) a)
    let asks (i' : Instr) (k : ReqKind) (a : Word) (bs : List Byte) (n : Nat) : Prop := ∃ r, exec i' s = .next
        ((s.modEnd p i fun e => { e with asked := true }).send (portNode p) (node a) (reqStep r)) ∧
      r.node = node a ∧ r.kind = k ∧ r.addr = a ∧ r.size = n ∧ r.data = bs ∧ r.pdid = e.pdid ∧ r.tagx = false ∧
      r.who.core = portCore p ∧ r.who.slot = 255 ∧ r.copyId = e.connid * 16 + i ∧ r.gran = e.got.length
    let msg (u : State) (m : ChMsg) : Prop := ∃ x ∈ u.net, x.src = portNode p ∧ x.dst = s.locNode pr.loc ∧
      x.ev.ins = .channelMessageArrival (s.endLoc p i) pr.loc pr.connid m
    ((∀ j, j < 16 → (s.endAt c j).used = true) → exec (.portEndpointConnect r) s = .next (back s r .refused)) ∧
    (∀ j, j < 16 → (∀ k, k < j → (s.endAt c k).used = true) → (s.endAt c j).used = false →
      (streamOf r.form = none → exec (.portEndpointConnect r) s = .next (back s r .notDual)) ∧
      (streamOf r.form = some (w, t) → ∃ u, exec (.portEndpointConnect r) s = .next u ∧
        u.endAt c j = { PEnd.reset with
          used := true, peer := some ⟨r.src, r.connid, ((s.endAt c j).connid + 1) % 65536, r.pdid, r.ring, false, []⟩, write := w, shape := t, topx := r.topx
          pdid := r.pdid, connid := ((s.endAt c j).connid + 1) % 65536 } ∧
        ∃ x ∈ u.net, x.ev.ins = .connectOutcome { r with dst := s.endLoc c j }
          (.accepted 8 (((s.endAt c j).connid + 1) % 65536) r.pdid))) ∧
    (i < 16 → e.peer = some pr → pr.transit = false → pr.allow ≠ 0 → e.used = true → e.closing = false → e.asked = false →
      let sent (e : PEnd) : PEnd := { e with peer := some { pr with allow := pr.allow - 1 } }
      (e.write = true → e.state = 4 → ∃ u, exec .portStreamSend s = .next u ∧ msg u ⟨.data, 0xF4, e.topx, toLE 8 e.next, 0⟩ ∧
        u.endAt p i = { sent e with state := 5 }) ∧
      (e.write = false → e.state = 2 → e.next < wbits e.step 16 16 → ∃ u, exec .portStreamSend s = .next u ∧
        msg u ⟨.label, 0, e.topx, [], 0⟩ ∧ u.endAt p i = { sent e with state := 3 }) ∧
      (e.write = false → e.state = 2 → ¬e.next < wbits e.step 16 16 → ∃ u, exec .portStreamSend s = .next u ∧
        msg u ⟨.label, 1, e.topx, [], 0⟩ ∧ u.endAt p i = { sent e with state := 4, closing := true, ring := [], got := [] } ∧
        ∃ x ∈ u.net, x.ev.ins = .closeNoticeArrival pr.loc ⟨s.endLoc p i, pr.connid, e.connid, 0, 4, false, 0, 0⟩) ∧
      (e.write = false → e.state = 3 → e.granules[e.got.length]? = some a →
        (∀ f, s.r15 (portCore p) a = some f → exec .portStreamSend s = .next (s.after 0 .portStreamStop
          { n := p, m := i, w := wd (f.1 * 256 + f.2) })) ∧
        (s.r15 (portCore p) a = none → asks .portStreamSend .copyRead a [] 64)) ∧
      (e.write = false → e.state = 3 → e.granules.length ≤ e.got.length → ∃ u, exec .portStreamSend s = .next u ∧
        msg u ⟨.data, 0xF2, e.topx, e.gather (e.granules.zip e.got), 0⟩ ∧
        u.endAt p i = { sent e with state := 2, next := e.next + 1, got := [] }) ∧
      exec .portStreamStop s = .next (s.endClose p i 5
        (wd (s.subj.w.toNat / 256 % 256 * 256 + s.subj.w.toNat % 16 * 16)))) ∧
    (i < 16 → e.peer = some pr → pr.transit = false → e.used = true → e.closing = false → e.asked = false → e.ring = m :: rest →
      let v := wd (leNat (m.payload.take 8))
      let took (f : PEnd → PEnd) (u : State) : Prop := exec .portStreamWrite s = .next u ∧ u.endAt p i = f { e with ring := rest } ∧
        ∃ x ∈ u.net, x.ev.ins = .allowanceReturn (s.endLoc p i) pr.loc pr.connid
      let stops (u : State) (k : Nat) : Prop := ∃ x ∈ u.agenda, x.2.ins = .portStreamStop ∧
        x.2.subj = { n := p, m := i, w := wd k }
      (e.state = 0 → ∃ u, took (fun e => { e with base := v, state := 1 }) u ∧
        (spaceOf v ≠ 0 → spaceOf v ≠ 2 → stops u (5 * 256 + 5))) ∧
      (e.state = 1 → ∃ u, took (fun e => { e with step := v, state := 2 }) u ∧
        (v.toNat / 2 ^ 32 % 64 ≠ 0 ∨ v.toNat % 2 ^ 16 % 16 ≠ 0 ∨ v.toNat % 2 ^ 16 < tcRow (shapeCfg e.shape) ∨
          (e.write = true ∧ v.toNat / 2 ^ 16 % 2 ^ 16 ≠ 0) ∨ (e.write = false ∧ v.toNat / 2 ^ 16 % 2 ^ 16 = 0) →
          stops u (2 * 256 + 2))) ∧
      (e.state = 2 → e.write = true → ∃ u, took (fun e => { e with state := if m.type = 0 then 3 else 4 }) u) ∧
      (e.state = 3 → e.write = true → (e.pieces m.payload)[e.got.length]? = some (a, bs) →
        (∀ f, s.r15 (portCore p) a = some f → exec .portStreamWrite s = .next (s.after 0 .portStreamStop
          { n := p, m := i, w := wd (f.1 * 256 + f.2) })) ∧
        (s.r15 (portCore p) a = none → asks .portStreamWrite .copyWrite a bs bs.length)) ∧
      (e.state = 3 → e.write = true → (e.pieces m.payload).length ≤ e.got.length →
        ∃ u, took (fun e => { e with state := 2, next := e.next + 1, got := [] }) u)) ∧
    (i < 16 → p < 256 → q.who.core = portCore p → q.who.slot = 255 → q.copyId = e.connid * 16 + i → e.used = true →
      e.asked = true → e.got.length = q.gran →
      exec (.acknowledgementArrival q (.ok bs)) s = .next ((s.modPort p fun x => { x with
        ends := vset x.ends i { e with asked := false, got := e.got ++ [bs] } }).after 0
          (if e.write = true then .portStreamWrite else .portStreamSend) { n := p, m := i }) ∧
      exec (.acknowledgementArrival q (.failed cause sub d)) s = .next ((s.modPort p fun x => { x with
        ends := vset x.ends i { e with asked := false } }).after 0 .portStreamStop
          { n := p, m := i, w := wd (cause * 256 + sub) })) ∧
    (e.used = false → exec .portStreamSend s = .next s ∧ exec .portEndpointClosed s = .next s ∧
      exec .portStreamStop s = .next s) ∧
    (i < 16 → e.used = true → exec .portEndpointClosed s = .next ((s.freeEnd p i).postTrap (portCore p) e.pdid
      [(s.freeEnd p i).trapRecord (portCore p) 255 e.pdid 0 0 0 ⟨0, 0, false, false⟩ 0
        ⟨0x0D, s.subj.w.toNat % 256, 0, wd (e.state * 65536 + i)⟩]) ∧
      (s.freeEnd p i).endAt p i = { PEnd.reset with connid := e.connid })

/-- R298–R301: `travel` goes on where the home is this core, and departs for it otherwise; `tspawn` sends a copy of the scalar
state to the home, with the issuer's budget one lower and one request more; `tseg` transfers to a replica, here or by
departing. R286–R288: a thread that has travelled holds every scalar register, its predicates, flags, PC, request number,
budget, task, rounding mode and TOPX as before; its address registers, vector registers and control registers are rebuilt or
clear. -/
def Obligations.TravelWords : Prop :=
  (∀ (s : State) (h : CHead) (m : MemR) (x a : BitVec 5) (w : Word), s.Issues h.neg h.grd →
     let s0 := s.onWord false
     let c := s.ctx.core
     let th := s.ctx.pre
     let node := travelNode c (s.homeOf c w)
     let left (u : State) (d : Departure) : Prop := ∃ y, u.cur = some y ∧ y.depart = some d ∧ y.parked = true
     (s.check (s.refR m) 1 true false 1 = .ok w → spaceOf w ≠ 3 → spaceOf w ≠ 4 →
       (s.elsewhere w = false → exec (.travel h m) s = .next (s0.popAll (popsOf [m.idx]))) ∧
       (s.elsewhere w = true → ∃ u, exec (.travel h m) s = .next u ∧ left u ⟨node, 3, w, false, false, s.cycle, w, false⟩) ∧
       (∃ q u, exec (.tspawn h m x) s = .next u ∧ q ∈ (u.coreAt c).spawnBuf ∧
         (node ≠ noNode → ∃ e ∈ u.net, e.dst = node ∧ e.ev.ins = .packetArrival node q) ∧
         (node = noNode → ∃ e ∈ u.agenda, e.2.ins = .arrivalReport q node (.refused 0x10 6)) ∧
         q.pc = (s.sval x [m.idx]).setWidth 32 ∧ q.regs = liveRegs th ∧ q.live = liveOf th ∧ q.pred = th.p ||| 0x80 ∧
         q.fflags = 0 ∧ q.budget = 0 ∧ q.seq = 0 ∧ q.task = th.task ∧ q.pdid = th.pdid ∧ q.kind = 2 ∧ q.src = s.me ∧ q.via = w ∧ q.ships = true ∧
         q.tid = s.devIdx * 2 ^ 32 + c * 2 ^ 20 + s.curCore.created % 2 ^ 20 ∧
         (∀ t, s.cur = some t → ∃ y, u.cur = some y ∧ y.spawnlim = t.spawnlim - 1 ∧
           vget 0 y.outst (s.classOf c w (s.homeOf c w)) = vget 0 t.outst (s.classOf c w (s.homeOf c w)) + 1))) ∧
     (let t : Word32 := (s.sval a).setWidth 32
      let d := s.replica c th (segOf t) (wbits (s.sval a) 32 8)
      ∃ u y, exec (.tseg h a) s = .next u ∧ u.cur = some y ∧ y.pc = t ∧
        (d ≠ c → y.depart = some ⟨d, 1, pcWord t, false, false, s.cycle,
          s.replicaAddr c th (segOf t) (wbits (s.sval a) 32 8), false⟩ ∧ y.parked = true) ∧
        (d = c → ∀ z, s.cur = some z → y = { z with pc := t }))) ∧
  (∀ (s : State) (c sl kind now : Nat) (t : Thread) (a via : Word) (ships : Bool) (k : Core) (sg : Vector Seg 8),
     t.kind ≠ 0 → t.p.getLsbD 7 = true →
     let u := k.unpack (s.packetOf c sl t kind a via ships) sg now
     (∀ i, i < 16 → u.sreg i = t.sreg i) ∧ u.p = t.p ∧ u.pc = t.pc ∧ u.seq = t.seq ∧ u.spawnlim = t.spawnlim ∧
     u.task = t.task ∧ u.pdid = t.pdid ∧ u.tid = t.tid ∧ u.fflags = t.fflags ∧ u.topx = t.topx ∧ u.rm = t.rm ∧ u.kind = (if t.kind = 2 then 2 else 1) ∧
     u.sg = sg ∧ u.pwbase = (k.window t.task).pwbase ∧ u.segmap = (k.window t.task).segmap ∧ u.sEmpty = 0 ∧ u.vEmpty = 0 ∧
     u.v = Thread.reset.v ∧ u.d = Thread.reset.d ∧ u.msca = 0 ∧ u.mscb = 0 ∧ u.evec = 0)

/-- R283, R289, R295, R297: a departure waits until the thread's work is acknowledged, then sends its packet with the advanced
request number; a fetch without code traps or ships; a false encoding traps. R283, R289, R292, R299, R302: what a source does
about the answer to its packet. R292: a core refuses a packet it has no domain, segment set or code for; it admits into its
hardware entries and then its ring while capacity is free, records a reservation otherwise, and reports a full list. A packet
that its destination has admitted is not withdrawn. The device and core that BSTATE names for a reservation at another device
are the model's choice (log 52). -/
def Obligations.DeparturesAndReports : Prop :=
  (∀ (s : State) (t : Thread) (d : Departure),
     let c := s.subj.core
     let sl := s.subj.slot
     let g := segOf t.pc
     let trap (i : TrapInfo) : Out := .next (s.takeTrap ⟨c, sl, t.tid⟩ false ⟨t.pc, 0, false, false⟩ i)
     (s.threadAt c sl = some t →
       (t.depart = some d → d.sent = false → s.mayLeave c sl t = false → exec .departure s = .next s) ∧
       (t.depart = some d → d.sent = true → exec .departure s = .next s) ∧
       (t.depart = some d → d.sent = false → s.mayLeave c sl t = true → ∃ u q, exec .departure s = .next u ∧
         let to_ := if d.dest ≠ heldNode c then d.dest else if (s.r15 c d.via).isSome = true then noNode
           else travelNode c (s.homeOf c d.via)
         u.threadAt c sl = some { t with seq := t.seq + 1, depart := some { d with dest := to_, sent := true } } ∧
         q.seq = t.seq + 1 ∧ q.kind = d.kind ∧ q.addr = d.addr ∧ q.regs = liveRegs t ∧ q.pc = t.pc ∧
         (to_ ≠ noNode → ∃ e ∈ u.net, e.src = c ∧ e.dst = to_ ∧ e.ev.ins = .packetArrival to_ q) ∧
         (to_ = noNode → ∃ e ∈ u.agenda, e.2.ins = .arrivalReport q to_ (.refused 0x10 6))) ∧
       (t.kind ≠ 2 → exec .codeMissFetch s = trap ⟨0x17, 2, pcWord t.pc, 0⟩) ∧
       (t.kind = 2 → (g ≥ t.segCount ∨ s.nrep c t g = 0) → exec .codeMissFetch s = trap ⟨0x0F, 1, pcWord t.pc, 0⟩) ∧
       (t.kind = 2 → g < t.segCount → s.nrep c t g ≠ 0 → ∃ u y, exec .codeMissFetch s = .next u ∧
         u.threadAt c sl = some y ∧ y.depart =
           some ⟨s.replica c t g (t.tid % 2 ^ 32 % s.nrep c t g), 1, pcWord t.pc, false, false, s.cycle,
             s.replicaAddr c t g (t.tid % 2 ^ 32 % s.nrep c t g), false⟩)) ∧
     (s.threadAt c sl = none → exec .departure s = .next s ∧ exec .codeMissFetch s = .next s ∧
       exec .reservationWatchdog s = .next s) ∧
     (s.cur.isSome = true →
       exec .illegalEncodingIssue s = .next (s.issueTrap s.subj.b ⟨s.subj.n, s.subj.m, 0, 0⟩))) ∧
  (∀ (s : State) (p : Packet) (dst cause sub : Nat) (t : Thread) (d : Departure) (rep : ArrRep),
     let c := p.src.core
     let sl := p.src.slot
     (sl < 16 → s.threadAt c sl = some t → t.tid = p.src.tid → t.seq = p.seq → t.depart = some d → d.sent = true → (s.coreAt c).spawning p = false →
       (∃ u, exec (.arrivalReport p dst .admitted) s = .next u ∧ u.threadAt c sl = none ∧
         tget (u.coreAt c).fwd p.tid = some (dst, s.cycle)) ∧
       exec (.arrivalReport p dst (.refused cause sub)) s = .next
         ((s.modThread c sl fun t => { t with depart := none }).takeTrap p.src false p.org ⟨cause, sub, d.addr, 0⟩) ∧
       (∃ u y, exec (.arrivalReport p dst .recorded) s = .next u ∧ u.threadAt c sl = some y ∧ y.parked = true ∧
         y.depart = some { d with resv := true, parkAt := s.cycle } ∧
         ((∀ x, s.homeOf c d.via ≠ .dev x) →
           vget 0 (u.coreAt c).bstates sl = (Park.word { kind := 6, pdev := s.devIdx, pcore := dst })) ∧
         (∀ x y, s.homeOf c d.via = .dev x → (spaceOf d.via = 1 → ∃ l, tget (s.coreAt c).place (wbits d.via 31 12) = some l ∧
             l.phys = y) → (spaceOf d.via ≠ 1 → y = portCore (portOf (vaOf d.via))) →
           vget 0 (u.coreAt c).bstates sl = (Park.word { kind := 6, pdev := x, pcore := y }))) ∧
       exec (.arrivalReport p dst .listFull) s = .next (s.after 1024 (.reservationRetry p dst)) ∧
       exec (.reservationRetry p dst) s = .next (s.sendPacket c dst p) ∧
       exec (.reservationGrant p dst) s = .next ((s.modWho p.src fun t =>
         { t with depart := t.depart.map fun d => { d with resv := false } }).sendPacket c dst { p with resv := true })) ∧
     ((s.coreAt c).spawning p = true →
       exec (.arrivalReport p dst .admitted) s = .next (s.childOut p) ∧
       exec (.arrivalReport p dst (.refused cause sub)) s = .next
         (((s.childOut p).modTask p.task fun k => { k with live := k.live - 1 }).after 0
           (.trapReportAfterIssue p.src p.org ⟨cause, sub, p.addr, 0⟩)) ∧
       exec (.arrivalReport p dst .listFull) s = .next (s.after 1024 (.reservationRetry p dst))) ∧
     (s.stillWaits p = false → exec (.reservationRetry p dst) s = .next s ∧ exec (.packetResendTimeout p dst) s = .next s) ∧
     (s.stillWaits p = true → dst < 0x10000 → (∀ q ∈ (s.coreAt c).spawnBuf, samePacket p q = true → q.resv = false) →
       (∀ t d, s.who p.src = some t → t.depart = some d → d.resv = false) →
       exec (.packetResendTimeout p dst) s = .next (s.sendPacket c dst p)) ∧
     ((s.coreAt c).spawning p = false → s.who p.src = none → exec (.arrivalReport p dst rep) s = .next s) ∧
     (tget (s.coreAt s.subj.core).fwd s.subj.n = some (dst, s.subj.m) → ∃ u, exec .forwardingExpiry s = .next u ∧
       tget (u.coreAt s.subj.core).fwd s.subj.n = none) ∧
     (s.threadAt s.subj.core s.subj.slot = some t → t.depart = some d → t.parked = true → t.run = .running → d.sent = true →
       ((∃ f ∈ s.filterAt d.dest, f.tid = t.tid ∧ serialLe t.seq f.last = true) → exec .reservationWatchdog s = .next s) ∧
       ((∀ f ∈ s.filterAt d.dest, f.tid = t.tid → serialLe t.seq f.last = false) → ∃ u : State, exec .reservationWatchdog s = .next
         (u.takeTrap ⟨s.subj.core, s.subj.slot, t.tid⟩ false (s.nextOrg s.subj.core t) ⟨0x16, 2, d.addr, 0⟩) ∧
           u.threadAt s.subj.core s.subj.slot = some { t with depart := none } ∧
           (∀ q ∈ (u.coreAt d.dest).resv, q.tid ≠ t.tid) ∧
           ∀ x ∈ u.net, ∀ n q, x.ev.ins = .packetArrival n q → q.tid ≠ t.tid))) ∧
  (∀ (s : State) (dst : Nat) (p : Packet) (f : FilterE) (set : List Seg),
     let k := s.coreAt dst
     let code := k.codeEntry p.task (if p.mode then segOf p.pc else 0)
     let placed := code ≠ none ∨ (p.mode = true ∧ p.ships = true)
     let room := k.granted.any (samePacket p) = true ∨ k.granted.length < (k.aqlim - k.aq.length) + k.ringFree
     let refused (cause sub : Nat) : Prop := exec (.packetArrival dst p) s =
       .next (((s.unreserve dst p).freeArrivals dst).report dst p (.refused cause sub))
     dst < 4096 → (k.cassignNext = none ∨ k.vacant = false) → k.filter.find? (·.tid == p.tid) = some f →
     (serialLe p.seq f.last = true → exec (.packetArrival dst p) s = .next (s.report dst p .admitted)) ∧
     (serialLe p.seq f.last = false →
       ((k.out = true ∨ k.v = false) → refused 0x10 6) ∧
       (k.out = false → k.v = true →
         (k.pdid ≠ p.pdid → refused 0x10 2) ∧
         (k.pdid = p.pdid → (s.domAt p.pdid).v = false → refused 0x10 1) ∧
         (k.pdid = p.pdid → (s.domAt p.pdid).v = true → tget k.segCache p.pdid = some set →
           (¬placed → if p.mode = true then refused 0x0F 3 else refused 0x17 2) ∧
           (placed → room →
             ∃ u, exec (.packetArrival dst p) s = .next u ∧ (∃ e ∈ u.net, e.ev.ins = .arrivalReport p dst .admitted) ∧
               (u.coreAt dst).aq ++ (u.coreAt dst).ring = (if k.aq.length < k.aqlim then k.aq ++ [p] ++ k.ring
                 else k.aq ++ (k.ring ++ [p]))) ∧
           (placed → ¬room →
             (k.resv.any (samePacket p) = true → exec (.packetArrival dst p) s = .next (s.report dst p .recorded)) ∧
             (k.resv.any (samePacket p) = false → k.resv.length < 256 → exec (.packetArrival dst p) s = .next
               ((s.setCore dst { k with resv := k.resv ++ [p] }).report dst p .recorded)) ∧
             (k.resv.any (samePacket p) = false → 256 ≤ k.resv.length → exec (.packetArrival dst p) s = .next
               (s.report dst p .listFull)))))))

/-- R322–R327: the words of tasks. `fork` adds a record at the top of the deque, which makes one operation a cycle, and answers
0, or answers all ones where the deque or the join table is full; `join` answers the failures and frees the entry; `launch` reads its record; `grow` and
`commit` go to the launch unit; `done` ends the thread once its bundle has acted. That a `fork` or a `join` away from the core that created its thread
acts on the join table there at issue, and that a message from there brings the register its value, is the model's choice
(log 44). -/
def Obligations.TaskWords : Prop :=
  ∀ (s : State) (h : CHead) (a b : BitVec 5) (m : MemR) (x : Word), s.Issues h.neg h.grd →
    let s0 := s.onWord false
    let c := s.ctx.core
    let th := s.ctx.pre
    let join := s.joinOf th.tid
    let full := s.curCore.dequeLoad ≥ 32 ∨ (join = none ∧ (s.coreAt (creator th.tid)).joins.length ≥ 256)
    let noCode := ∃ t, s.forkTask = some t ∧ t.portCode = .answered false
    (noCode → ∃ u, exec (.fork h a b) s = .next u ∧ (u.coreAt c).deque = s.curCore.deque) ∧
    (creator th.tid ≠ c → ∃ u x, exec (.fork h a b) s = .next u ∧ x ∈ u.net ∧ x.src = creator th.tid ∧ x.dst = c ∧
      ∃ v, x.ev.ins = .trackedRegisterWrite ⟨s.me, (s0.track a).2, v, none⟩ ∧ (full → v = 2 ^ 64 - 1) ∧
        (¬noCode → ¬full → v = 0)) ∧
    (¬noCode → creator th.tid = c →
      (full → exec (.fork h a b) s = .next ((s0.resultTracked a 2 (2 ^ 64 - 1)).popAll (popsOf [b]))) ∧
      (¬full → ∃ u f, exec (.fork h a b) s = .next u ∧
        (s.curCore.dequeQ = [] → s.curCore.dequeFree ≤ s.cycle → (u.coreAt c).deque = s.curCore.deque ++ [f]) ∧
        (s.cycle < s.curCore.dequeFree → (u.coreAt c).deque = s.curCore.deque ∧
          (u.coreAt c).dequeQ = s.curCore.dequeQ ++ [.push f]) ∧
        f.tid = s.devIdx * 2 ^ 32 + c * 2 ^ 20 + s.curCore.created % 2 ^ 20 ∧ f.task = th.task ∧ f.pdid = th.pdid ∧
        f.pc = (s.sval b).setWidth 32 ∧ f.regs = th.s.toList ∧ f.pred = th.p ||| 0x80 ∧ f.originCore = c ∧
        f.parent = (c, th.tid) ∧ f.status.getLsbD 7 = (th.kind == 2) ∧ f.status.getLsbD 6 = (th.kind != 2) ∧
        tget (u.coreAt c).joins th.tid = some { (join.getD ⟨0, 0⟩) with live := (join.getD ⟨0, 0⟩).live + 1 } ∧
        (∀ t, tget s.tasks th.task = some t → tget u.tasks th.task = some { t with live := t.live + 1 }))) ∧
    (creator th.tid = c → ∃ u, exec (.join h a) s = .next (u.resultTracked a 2 (wd ((join.map (·.fail)).getD 0))) ∧
      u = s0.modJoins th.tid fun j => tdel j th.tid) ∧
    (creator th.tid ≠ c → ∃ u, exec (.join h a) s = .next (((u.track a).1.send (creator th.tid) c
        (.trackedRegisterWrite ⟨u.me, (u.track a).2, ((join.map (·.fail)).getD 0), none⟩))) ∧
      u = s0.modJoins th.tid fun j => tdel j th.tid) ∧
    (s.check (s.refR m) 64 true false 64 = .ok x → ∃ r, exec (.launch h m) s = .next ((s0.sendReq r).popAll (popsOf [m.idx])) ∧
      r.who = s.me ∧ r.kind = .launchRec ∧ r.addr = x ∧ r.size = 64 ∧ r.cls = 2 ∧ r.pdid = th.pdid) ∧
    exec (.grow h a) s = .next (((s0.track a).1.send c launchNode
      (.growRequest s.me s0.ctx.org th.task (s.sval a) (s0.track a).2)).popAll (popsOf [a])) ∧
    exec (.commit h) s = .next (s0.modCur fun t => { t with commitX := .idle }) ∧
    exec (.done h) s = .next (s0.modCur fun t => { t with ending := true })

/-- R305, R310, R324–R326: what the launch unit does with a record, an extension and a commit, which it answers with a message,
what the answer does at the core, and what it does with a decrement of the dependence table. That a record with more
predecessors than it may have is refused with DETAIL 1 and that the unit's reads take no time is the model's choice (log 59),
and so are what becomes of a grow's destination after an overflow (log 27) and the latency of messages (log 3). -/
def Obligations.LaunchUnit : Prop :=
  ∀ (s : State) (who : SlotRef) (org : Origin) (task pdid n : Nat) (r : LaunchRec) (t : Task) (d : RegDst) (w : Word) (u : State),
    let e := s.subj.n
    let q := s.wqAt e
    (s.subj.b = true →
      (e = 0 → exec (.launchSubmit who org task pdid r) s = .next (s.countIn who 2 false)) ∧
      (e ≠ 0 → exec (.launchSubmit who org task pdid r) s = .next ((s.countIn who 2 false).after 0
        (.trapReportAfterIssue who org ⟨2, 4, 0, wd e⟩))) ∧
      (s.subj.m = 0 → exec (.growRequest who org task w d) s = .next (s.writeFull who d e)) ∧
      (s.subj.m ≠ 0 → (∀ a b, d ≠ .queue a b) → exec (.growRequest who org task w d) s =
        .next ((s.modWho who (·.mark d false)).after 0 (.trapReportAfterIssue who org ⟨0x13, 3, 0, 0⟩))) ∧
      (s.subj.m ≠ 0 → ∀ a b, exec (.growRequest who org task w (.queue a b)) s =
        .next ((s.modQueue who.core a fun x => { x with entries := x.entries.filter (·.1 != b) }).after 0
          (.trapReportAfterIssue who org ⟨0x13, 3, 0, 0⟩))) ∧
      exec (.commitRequest who task) s = .next (s.modWho who fun t => { t with commitX := .answered true })) ∧
    (s.subj.b = false → tget s.tasks task = some t →
      let x := s.offer pdid (Nat.min r.prio t.prio) t.queue 0xFFFFFFFF r
      let ends (n : Nat) : Out := .next (x.1.send launchNode who.core (.launchSubmit who org task pdid r) { b := true, n := n })
      (x.2 = .accepted → exec (.launchSubmit who org task pdid r) s = ends 0) ∧
      (x.2 = .refused → exec (.launchSubmit who org task pdid r) s = ends 1) ∧
      (x.2 = .noEntry → exec (.launchSubmit who org task pdid r) s = ends 2) ∧
      (x.2 = .noTask → exec (.launchSubmit who org task pdid r) s = ends 3) ∧
      (x.2 = .wait → exec (.launchSubmit who org task pdid r) s =
        .next (x.1.after 1024 (.launchSubmit who org task pdid r))) ∧
      (t.group + w.toNat < 2 ^ 32 → exec (.growRequest who org task w d) s =
        .next ((s.modTask task fun t => { t with group := t.group + w.toNat }).send launchNode who.core
          (.growRequest who org task w d) { b := true, n := t.group, m := 0 })) ∧
      (2 ^ 32 ≤ t.group + w.toNat → exec (.growRequest who org task w d) s = .next (s.send launchNode who.core
          (.growRequest who org task w d) { b := true, n := t.group, m := 1 })) ∧
      (s.who who = none → exec (.commitRequest who task) s = .next s) ∧
      (∀ z, s.who who = some z → ∃ v, exec (.commitRequest who task) s = .next v ∧
        tget v.tasks task = some { t with committed := true } ∧ ∃ x ∈ v.net, x.dst = who.core ∧
          x.ev = ⟨.commitRequest who task, { b := true }⟩)) ∧
    (s.badRecord pdid r = true → s.offer pdid n 0 0 r = (s, .refused)) ∧
    (∀ hd, s.badRecord pdid r = false → s.objRead pdid r.code 0 64 = (u, .ok hd) →
      (badObject r hd = true → s.offer pdid n 0 0 r = (u, .refused)) ∧
      (badObject r hd = false → ∀ id, u.freeTask = some id → r.npred = 0 → ∃ y z, s.offer pdid n 0 0 r = (y, .accepted) ∧
        tget y.tasks id = some z ∧ z.pdid = pdid ∧ z.prio = n ∧ z.lr = r ∧ z.group = r.group ∧ z.next = 0 ∧ z.live = 0 ∧
        z.ready = true ∧ z.placed = false ∧ z.committed = false) ∧
      (badObject r hd = false → ∀ k i, r.npred ≠ 0 → tget u.deps r.depidx = some (.held k i) →
        s.offer pdid n 0 0 r = (u, .noEntry)) ∧
      (badObject r hd = false → ∀ k, r.npred ≠ 0 → tget u.deps r.depidx = some (.early k) → r.npred < k →
        s.offer pdid n 0 0 r = (u, .refused))) ∧
    (tget s.deps e = none → ∃ v, exec .dependenceDecrement s = .next v ∧ tget v.deps e = some (.early 1)) ∧
    (∀ k, tget s.deps e = some (.early k) → ∃ v, exec .dependenceDecrement s = .next v ∧ tget v.deps e = some (.early (k + 1))) ∧
    (∀ k, 1 < k → tget s.deps e = some (.held k task) → ∃ v, exec .dependenceDecrement s = .next v ∧
      tget v.deps e = some (.held (k - 1) task) ∧ v.tasks = s.tasks) ∧
    (tget s.deps e = some (.held 1 task) → tget s.tasks task = some t → ∃ v, exec .dependenceDecrement s = .next v ∧
      tget v.deps e = none ∧ ∃ z, tget v.tasks task = some z ∧ z.ready = true ∧ z.age = s.ages) ∧
    (q.en = false → exec .workQueueTake s = .next s ∧ exec .hostRingPoll s = .next s) ∧
    (∀ bs, q.en = true → s.unitRead (wbits q.cfg 40 8) 3 (addOff q.base (64 * wbits q.cfg 0 32)) 64 = (u, .ok bs) →
      spaceOf q.base ≠ 3 →
      (hdr bs 0 1 % 2 ≠ (q.cfg.getLsbD 62).toNat → exec .workQueueTake s = .next (u.after 16 .workQueueTake { n := e })) ∧
      (hdr bs 0 1 % 2 = (q.cfg.getLsbD 62).toNat → ∀ y,
        u.offer (wbits q.cfg 40 8) (Nat.min (decodeLaunch bs).prio (wbits q.cfg 48 8)) e q.taken (decodeLaunch bs) = (y, .accepted) →
        exec .workQueueTake s = .next ({ y with wqs := tset y.wqs e (y.wqAt e).advance }.after 1 .workQueueTake { n := e }))) ∧
    (q.en = true → spaceOf q.base = 3 → exec .hostRingPoll s =
      .next ((s.after 0 .workQueueTake { n := e }).after 1024 .hostRingPoll { n := e }))

/-- R311–R320: placing a task, dispatching its indices, requests in the order they arrived, filling a slot, stealing, the end of
a child and of a task, and the discard of an uncommitted one. The deque unit makes one operation a cycle, in the order they
arrived. That a core asks and steals in every cycle, and how a thief that wants no record any more ends its round, is the
model's choice (log 54), and so are the messages by which a child's end reaches the creating core and their latency (logs 3
and 44), and that the unit's reads take no time (log 59). -/
def Obligations.TaskDispatch : Prop :=
  ∀ (s u : State) (t : Task) (l : Load) (f : ForkRec) (i : Nat) (b : Bool),
    let id := s.subj.n
    let c := s.subj.core
    let k := s.coreAt c
    (tget s.tasks id = none → exec .taskPlacement s = .next s ∧ exec .portCoreCodePlacement s = .next s ∧
      exec .taskFinish s = .next s ∧ exec .taskDiscard s = .next s) ∧
    (tget s.tasks id = some t →
      (t.placed = true → exec .taskPlacement s = .next s) ∧
      (t.placed = false → t.ready = true →
        (s.loadOf t = (u, .error true) → exec .taskPlacement s = .next (u.after 1024 .taskPlacement { n := id })) ∧
        (s.loadOf t = (u, .error false) → exec .taskPlacement s = .next (u.refuseTask id t)) ∧
        (s.loadOf t = (u, .ok l) → l.tooBig t = true → exec .taskPlacement s = .next (u.refuseTask id t)) ∧
        (s.loadOf t = (u, .ok l) → l.tooBig t = false → u.placeAll id t.lr.code l.text = none →
          exec .taskPlacement s = .next (u.after 64 .taskPlacement { n := id })) ∧
        (∀ v, s.loadOf t = (u, .ok l) → l.tooBig t = false → u.placeAll id t.lr.code l.text = some v →
          exec .taskPlacement s = .next (let z := (v.taskCores t).foldl (fun s c => s.placeData c id t l) v
            z.modTask id fun t => { t with placed := true, lastPlaced := z.cycle }))) ∧
      (s.readSegs t.pdid t.lr.code (t.hdr 36 4) 1 0 = (u, .error false) → exec .portCoreCodePlacement s =
        .next (u.modTask id fun t => { t with portCode := .answered false })) ∧
      (∀ segs v, s.readSegs t.pdid t.lr.code (t.hdr 36 4) 1 0 = (u, .ok segs) →
        u.placeAll id t.lr.code (portCores.map fun c =>
          (c, packSegs t.lr.iorg (segs.map fun g => ({ g with num := 0 } : SegObj)))) = some v →
        exec .portCoreCodePlacement s = .next (v.modTask id fun t => { t with portCode := .answered true })) ∧
      ((t.live ≠ 0 ∨ t.next < t.group ∨ t.placed = false) → exec .taskFinish s = .next s) ∧
      (t.live = 0 → t.group ≤ t.next → t.placed = true → ∃ v, exec .taskFinish s = .next v ∧ tget v.tasks id = none ∧
        (∀ e ∈ t.lr.succ.take t.lr.nsucc, ∃ x ∈ v.agenda, x.2 = ⟨.dependenceDecrement, { n := e }⟩) ∧
        ∃ w ∈ v.ewb ++ v.ewbLate, w.data = toLE 4 t.ringIdx ++ toLE 2 id ++ toLE 1 (if t.trapped = 0 then 0 else 2) ++
          toLE 1 (s.wqAt t.queue).compPhase.toNat ++ toLE 8 t.trapped) ∧
      (s.discardDue id t = false → exec .taskDiscard s = .next s) ∧
      (s.discardDue id t = true → s.discardVictim t = some i → exec .taskDiscard s =
        .next ((s.modTask id fun t => { t with lastDiscard := s.cycle }).discard i))) ∧
    (s.subj.b = true → exec .dispatchRequest s = .next (s.modCore c fun k =>
      { k with fifo := k.fifo ++ [(s.subj.n, s.subj.m)], fifoAsked := false })) ∧
    (s.subj.b = false → s.requests = [] → s.bestTask c = some (i, t) → tget s.tasks i = some t → ∃ v,
      exec .dispatchRequest s = .next v ∧
      (∃ m ∈ v.net, m.dst = c ∧ m.ev = ⟨.dispatchRequest, { core := c, n := i, m := t.next, b := true }⟩) ∧
      tget v.tasks i = some { t with next := t.next + 1, live := t.live + 1 }) ∧
    (∀ d, s.subj.b = false → s.requests = [d] → d ≠ c → s.bestTask d = some (i, t) → ∃ v, exec .dispatchRequest s = .next v ∧
      ∃ m ∈ v.net, m.dst = d ∧ m.ev = ⟨.dispatchRequest, { core := d, n := i, m := t.next, b := true }⟩) ∧
    (s.subj.b = false → s.requests = [] → s.bestTask c = none → ∃ v, exec .dispatchRequest s = .next v ∧ c ∈ v.requests ∧ v.tasks = s.tasks ∧
      v.net = s.net) ∧
    (k.slotFree s.subj.slot = false ∨ .take s.subj.slot ∈ k.dequeQ → exec .threadPlacement s = .next s) ∧
    (k.slotFree s.subj.slot = true → .take s.subj.slot ∉ k.dequeQ →
      let sl := s.subj.slot
      (∀ p r, k.aq = p :: r → exec .threadPlacement s =
        .next (((s.setCore c { k with aq := r }).placePacket c sl p).freeArrivals c)) ∧
      (k.aq = [] → k.deque.getLast? = some f → k.dequeQ = [] →
        (s.cycle < k.dequeFree → exec .threadPlacement s = .next (s.modCore c fun k => { k with dequeQ := [.take sl] })) ∧
        (k.dequeFree ≤ s.cycle → exec .threadPlacement s =
          .next ((s.setCore c { k with deque := k.deque.dropLast, dequeFree := s.cycle + 1 }).placeFork c sl f))) ∧
      (∀ r set, k.aq = [] → k.deque = [] → k.fifo = (id, i) :: r → tget s.tasks id = some t →
        (s.domAt t.pdid).v = true → tget k.segCache t.pdid = some set → ∃ v y, exec .threadPlacement s = .next v ∧ v.threadAt c sl = some y ∧
          y.task = id ∧ y.pdid = t.pdid ∧ y.pc = BitVec.ofNat 32 (t.hdr 20 4 % 65536 / 8 * 8) ∧ y.sreg 0 = wd i ∧
          y.spawnlim = 255 ∧ y.status = wd (t.lr.mode * 64) ∧ y.sg = segRegs set ∧ (v.coreAt c).fifo = r) ∧
      (∀ r, k.aq = [] → k.deque = [] → k.fifo = [] → k.stolen = f :: r → exec .threadPlacement s =
        .next ((s.setCore c { k with stolen := r }).placeFork c sl f)) ∧
      (k.aq = [] → k.deque = [] → k.fifo = [] → k.stolen = [] → exec .threadPlacement s = .next s)) ∧
    (s.subj.fork = some f → exec .stealRequest s = .next (s.modCore c fun k => { k with stolen := k.stolen ++ [f], stealWait := false })) ∧
    (s.subj.fork = none → s.subj.b = false →
      let v := s.subj.m
      let q := s.coreAt v
      let empty : Out := .next ((s.modCore v fun k => { k with dequeFree := s.cycle + 1 }).send v c .stealRequest
        { core := c, n := s.subj.n, m := v, b := true })
      q.dequeQ = [] →
      (s.cycle < q.dequeFree → exec .stealRequest s =
        .next (s.modCore v fun k => { k with dequeQ := [.steal c s.subj.n] })) ∧
      (q.dequeFree ≤ s.cycle →
        (q.deque = [] → exec .stealRequest s = empty) ∧
        (∀ r, q.deque = f :: r → s.mayStealRec c f = false → exec .stealRequest s = empty) ∧
        (∀ r, q.deque = f :: r → s.mayStealRec c f = true → exec .stealRequest s =
          .next ((s.setCore v { q with deque := r, dequeFree := s.cycle + 1 }).send v c .stealRequest
            { core := c, fork := some f })))) ∧
    (s.subj.fork = none → s.subj.b = true →
      (k.wantsWork = false → exec .stealRequest s = .next (s.modCore c fun k => { k with stealWait := false })) ∧
      (k.wantsWork = true → ∀ v, (victims c k.stealdom.toNat)[s.subj.n + 1]? = some v → exec .stealRequest s =
        .next (s.send c v .stealRequest { core := c, n := s.subj.n + 1, m := v })) ∧
      (k.wantsWork = true → (victims c k.stealdom.toNat)[s.subj.n + 1]? = none → exec .stealRequest s =
        .next (s.after 256 .stealRetry { core := c }))) ∧
    (∃ v, exec .stealRetry s = .next v ∧ (v.coreAt c).stealWait = false) ∧
    (∀ j, s.subj.b = b → tget k.joins id = some j → ∃ v, exec .childEnd s = .next v ∧
      tget (v.coreAt c).joins id = some { j with live := j.live - 1, fail := j.fail + b.toNat })

/-- R346: `seal` asks for a cut where SEALCTL.EXPLICIT allows it and goes on at once; `sealw` and `xsync` wait until the cut of
their first issue is sealed, `xsync` also until no external write of it is left; `rin` gives SEALED and CUR. R333–R337: a
cut: the leader starts cut n + 1 only when every core has made cut n and the one before is sealed; the device takes its
number at once and pauses every core; a core at rest records itself and moves on; its log closes when nothing sent before the
cut is on its way; when the last unit's record is durable the interval before is sealed. What one device shows of a group, when a core is at rest,
and that a marker stands for what it assures are the model's choice (logs 55, 73 and 87). -/
def Obligations.CutsAndSeals : Prop :=
  (∀ (s : State) (h : CHead) (a : BitVec 5), s.Issues h.neg h.grd →
     let s0 := s.onWord false
     let c := s.ctx.core
     let k := s.curCore
     let ask (s : State) : State := if s.sealctl.getLsbD 62 = true then s.requestCut c (k.rinCur + 1).toNat else s
     let ends (s : State) : State := s.modCur fun t => { t with sealTarget := none }
     exec (.sealCut h) s = .next (ask s0) ∧
     exec (.rin h a) s = .next (s0.result a 1 (wd (k.sealed.toNat * 2 ^ 32 + k.rinCur.toNat))) ∧
     (s.ctx.pre.sealTarget.isSome = true → exec (.sealw h) s = .next (ends s0) ∧ exec (.xsync h) s = .next (ends s0)) ∧
     (s.ctx.pre.sealTarget = none → ∃ t u, exec (.sealw h) s = .next t ∧ exec (.xsync h) s = .next t ∧
       t.cur = some u ∧ u.sealTarget = none ∧ (s.sealctl.getLsbD 62 = true → ∃ m ∈ t.net, m.ev.ins = .cutRequest ∧
         m.ev.subj.n = (k.rinCur + 1).toNat)) ∧
     (∀ p : State, p.ctx.mode = .probe → p.cur.isSome = true → p.view.guard h.neg h.grd = true →
       ∃ d e, exec (.sealw h) p = .next d ∧ exec (.xsync h) p = .next e ∧
         (d.ctx.found.park4 = none ↔ serialLe (p.view.sealTarget.getD p.curCore.rinCur) p.curCore.sealed = true) ∧
         (e.ctx.found.park4 = none ↔ serialLe (p.view.sealTarget.getD p.curCore.rinCur) p.curCore.sealed = true ∧
           (∀ w ∈ p.ewb ++ p.ewbLate, serialLe w.rin (p.view.sealTarget.getD p.curCore.rinCur) = false) ∧
           (∀ r ∈ p.ewbHeld, serialLe (BitVec.ofNat 32 r.rin) (p.view.sealTarget.getD p.curCore.rinCur) = false) ∧
           ∀ x ∈ p.ports, ∀ h ∈ x.2.held, p.hostWaits x.1 h = true →
             serialLe (BitVec.ofNat 32 h.req.rin) (p.view.sealTarget.getD p.curCore.rinCur) = false))) ∧
  (∀ (s : State) (u : CutUnit) (k : Nat),
     let n := BitVec.ofNat 32 s.subj.n
     let c := s.subj.core
     let x := s.coreAt c
     let started (n : Nat) : Out := .next (s.members.foldl (fun s d =>
       s.send sealNode (if d = s.devIdx then sealNode else devNode d) .cutMessage { n := n }) s)
     (serialLe n s.cutNo = true → exec .cutRequest s = .next s) ∧
     (serialLe n s.cutNo = false →
       (n = s.cutNo + 1 → (∀ y ∈ s.cores, y.2.rinCur = s.cutNo) → serialLe (n - 2) s.sealedNo = true →
         exec .cutRequest s = started n.toNat) ∧
       ((n ≠ s.cutNo + 1 ∨ (∃ y ∈ s.cores, y.2.rinCur ≠ s.cutNo) ∨ serialLe (n - 2) s.sealedNo = false) →
         ∃ t, exec .cutRequest s = .next t ∧ t.net = s.net ∧ n.toNat ∈ t.cutPending)) ∧
     (n ≠ s.cutNo + 1 → exec .cutMessage s = .next s) ∧
     (n = s.cutNo + 1 → ∃ t, exec .cutMessage s = .next t ∧ t.cutNo = n ∧ t.cutStart = s.cycle ∧
       (∀ i, (tget s.cores i).isSome = true → (t.coreAt i).paused = true ∧ CutUnit.core i ∈ t.cutWait ∧
         ∃ e ∈ t.agenda, e.2 = ⟨.coreCut, { core := i, n := n.toNat }⟩) ∧
       CutUnit.launch ∈ t.cutWait ∧ (s.leader = s.devIdx → ∀ d ∈ s.members, d ≠ s.devIdx → CutUnit.device d ∈ t.cutWait) ∧
       ∃ r ∈ t.seals, r.cut = n ∧ r.hostFilter = s.hostFilter ∧ r.launch = some ⟨s.wqs, s.deps, s.tasks, s.ages, s.requests⟩) ∧
     (s.atRest c = false → exec .coreCut s = .next (s.after 1 .coreCut s.subj)) ∧
     (s.atRest c = true → ∃ t, exec .coreCut s = .next t ∧ (t.coreAt c).rinCur = n ∧ (t.coreAt c).threads = x.threads ∧
       t.spad = s.spad ∧ (∀ r ∈ s.seals, r.cut = n → ∃ r' ∈ t.seals, r'.cut = n ∧ tget r'.cores c = some { x with paused := false }) ∧
       ∃ e ∈ t.agenda, e.1 = s.cycle + 27000 ∧ e.2 = ⟨.sealRecordAck, s.subj⟩) ∧
     (∃ t, exec .sealRecordAck s = .next t ∧ (t.coreAt c).paused = false ∧ t.cutPending = [] ∧
       ∃ e ∈ t.agenda, e.2 = ⟨.sealMarker, s.subj⟩) ∧
     (s.subj.m ≠ 0 → exec .sealMarker s = .next { s with markers := s.markers ++ [(s.subj.m - 1, n)] }) ∧
     (s.subj.m = 0 → n ≠ s.cutNo → exec .sealMarker s = .next s) ∧
     (s.subj.m = 0 → n = s.cutNo → (∀ y ∈ s.cores, y.2.rinCur = s.cutNo) →
       let marked := ∀ d ∈ s.members, d ≠ s.devIdx → (d, n) ∈ s.markers
       let durable : Out := .next (s.after 0 (.durableReport (if s.subj.b = true then .launch else .core c) s.subj.n))
       let waits : Out := .next (s.after 64 .sealMarker { s.subj with slot := 1 })
       (s.subj.b = false ∨ s.subj.slot ≠ 0 →
         (¬marked → exec .sealMarker s = waits) ∧ (marked → s.net = [] → exec .sealMarker s = durable)) ∧
       (s.subj.b = false → ∀ m ∈ s.net, m.dst = c → serialLt m.rin n = true → exec .sealMarker s = waits) ∧
       (s.subj.b = true → s.subj.slot = 0 → (∀ d ∈ s.members, d = s.devIdx) → s.net = [] → exec .sealMarker s = durable) ∧
       (s.subj.b = true → s.subj.slot = 0 → ∃ t, exec .sealMarker s = .next t ∧ ∀ d ∈ s.members, d ≠ s.devIdx →
         ∃ m ∈ t.net, m.dst = devNode d ∧ m.ev = ⟨.sealMarker, { n := s.subj.n, m := s.devIdx + 1 }⟩)) ∧
     (s.subj.m = 0 → n = s.cutNo → (∃ y ∈ s.cores, y.2.rinCur ≠ s.cutNo) → exec .sealMarker s = .next (s.after 64 .sealMarker s.subj)) ∧
     (k = (s.cutNo + 1).toNat → exec (.durableReport u k) s = .next (s.after 64 (.durableReport u k))) ∧
     (k ≠ s.cutNo.toNat → k ≠ (s.cutNo + 1).toNat → exec (.durableReport u k) s = .next s) ∧
     (k = s.cutNo.toNat → (∃ v ∈ s.cutWait, v ≠ u) → ∃ t, exec (.durableReport u k) s = .next t ∧ t.net = s.net ∧
       u ∉ t.cutWait) ∧
     (k = s.cutNo.toNat → (∀ v ∈ s.cutWait, v = u) → s.leader ≠ s.devIdx → ∃ t, exec (.durableReport u k) s = .next t ∧
       ∃ m ∈ t.net, m.dst = devNode s.leader ∧ m.ev.ins = .durableReport (.device s.devIdx) k) ∧
     (k = s.cutNo.toNat → (∀ v ∈ s.cutWait, v = u) → s.leader = s.devIdx → ∃ t, exec (.durableReport u k) s = .next t ∧
       ∀ d ∈ s.members, ∃ m ∈ t.net, m.dst = (if d = s.devIdx then sealNode else devNode d) ∧
         m.ev = ⟨.sealedMessage, { n := (s.cutNo - 1).toNat }⟩) ∧
     (s.sealctl.getLsbD 63 = false → exec .sealTimer s = .next s) ∧
     (s.sealctl.getLsbD 63 = true → s.subj.n = s.cutNo.toNat → s.cutStart + s.sealPeriod ≤ s.cycle → s.leader = s.devIdx →
       exec .sealTimer s = .next (s.after 0 .cutRequest { n := (s.cutNo + 1).toNat })))

/-- R334 step 9, R339, R343–R345: sealing discards the undo records, logs and seal records of sealed intervals and keeps the
later ones; a full undo buffer overflows 4 KiB to its port; the host reads and writes device memory, and a write without room
waits. R347–R351: an error is taken to the leader, which tells every member; a rollback starts again at the cut after the last
sealed interval, with every core in that interval and every thread and register of a core as its sealed record holds them, but
that it is not parked, that the monitors that were armed have fired, and what the record of the rollback in a trap queue does
where that queue lies in a scratchpad; one that finds a further error ends every task and halts. -/
def Obligations.SealingAndRollback : Prop :=
  (∀ (s : State) (pdid core off : Nat) (data : List Byte) (a : Word),
     let n := BitVec.ofNat 32 s.subj.n
     let k := s.coreAt s.subj.core
     (serialLe n s.sealedNo = true → exec .sealedMessage s = .next s) ∧
     (serialLe n s.sealedNo = false → s.ewb = [] → s.ewbLate = [] → s.ewbHeld = [] → s.hostWait = [] → (∀ y ∈ s.cores, y.2.heldReqs = []) →
       (∀ y ∈ s.ports, y.2.held = []) → ∃ t, exec .sealedMessage s = .next t ∧ t.sealedNo = n ∧
         t.undo = s.undo.filter (fun u => serialLt n u.rin) ∧ t.logs = s.logs.filter (fun l => serialLt n l.rin) ∧
         t.seals = s.seals.filter (fun r => serialLt n r.cut) ∧ t.spad = s.spad ∧ t.hbm = s.hbm ∧ t.host = s.host) ∧
     (k.undoBytes < 4096 → exec .undoOverflow s = .next s) ∧
     (s.undoRegion < (s.portAt (sealPort s.subj.core)).undoBytes + 4096 → exec .undoOverflow s = .next s) ∧
     (4096 ≤ k.undoBytes → (s.portAt (sealPort s.subj.core)).undoBytes + 4096 ≤ s.undoRegion → ∃ t, exec .undoOverflow s = .next t ∧ (t.coreAt s.subj.core).undoBytes = k.undoBytes - 4096 ∧
       (t.coreAt s.subj.core).undoOver = k.undoOver + 4096) ∧
     (spaceOf a = 1 → wbits a 31 12 = core → wbits a 0 20 = off → data ≠ [] → off % 64 + data.length ≤ 64 →
       (s.hostWait = [] → s.undoBlocks core [off / 64] = false → exec (.hostWrite pdid a data) s = .next
         ((s.spadWrite core off data false).logArrival core ⟨.hostWrite pdid a data, { b := s.subj.b }⟩)) ∧
       (s.undoBlocks core [off / 64] = true → exec (.hostWrite pdid a data) s =
         .next { s with hostWait := s.hostWait ++ [⟨pdid, a, data⟩] }) ∧
       (pdid < 256 → exec (.hostRead pdid a data.length) s =
         .next { s with hostReads := s.hostReads ++ [s.spadRead core off data.length] }))) ∧
  (∀ (s : State),
     let c := s.sealedNo + 1
     let was (i : Nat) (old : Core) : Prop := ∃ r, s.seals.find? (·.cut == c) = some r ∧ tget r.cores i = some old
     (s.leader = s.devIdx → ∃ t, exec .uncorrectableError s = .next t ∧ (s.cycle, ⟨.rollback, s.subj⟩) ∈ t.agenda ∧
       ∀ d ∈ s.members, d ≠ s.devIdx → ∃ m ∈ t.net, m.dst = devNode d ∧ m.ev = ⟨.rollback, s.subj⟩) ∧
     (s.leader ≠ s.devIdx → exec .uncorrectableError s =
       .next (s.send sealNode (devNode s.leader) .uncorrectableError s.subj)) ∧
     (s.subj.b = true → ∃ t, exec .rollback s = .next t ∧ t.halted = true ∧ t.tasks = [] ∧ (∀ x ∈ t.cores, x.2.threads = []) ∧
       (s.domains = [] → t.spad = s.spad ∧ t.hbm = s.hbm)) ∧
     (s.subj.b = false → ∃ t, exec .rollback s = .next t ∧ t.cutNo = c ∧ t.host = s.host ∧
       (∀ i k, tget s.cores i = some k → ∃ k', tget t.cores i = some k' ∧ k'.rinCur = c ∧
         k'.sealed = s.sealedNo ∧ k'.paused = false ∧ k'.v = k.v ∧ k'.pdid = k.pdid ∧
         ∀ old, was i old → old.v = k.v → old.pdid = k.pdid → k.out = false →
           k'.tiles = old.tiles ∧ k'.eyelets = old.eyelets ∧ k'.caps = old.caps ∧
           ∀ sl, (tget old.threads sl = none → tget k'.threads sl = none) ∧
             ∀ th, tget old.threads sl = some th → ∃ u, tget k'.threads sl = some u ∧
               u = { th with earliest := s.cycle, parked := false, mon := u.mon, barX := u.barX }) ∧
       (∀ r, s.seals.find? (·.cut == c) = some r → t.hostFilter = r.hostFilter ∧
         (∀ l, r.launch = some l → t.tasks = l.tasks ∧ t.deps = l.deps ∧ t.wqs = l.wqs)) ∧
       (s.domains = [] → (∀ r x, s.seals.find? (·.cut == c) = some r → x ∈ s.ports →
           ((tget r.ports x.1).getD Port.reset).held = []) →
         t.undo = [] ∧ t.logs = [] ∧ (let z := s.undo.reverse.foldl (fun s u => s.undoOne u) s
           t.spad = z.spad ∧ t.spadTag = z.spadTag ∧ t.hbm = z.hbm ∧ t.hbmTag = z.hbmTag ∧ t.istore = z.istore) ∧
         ∀ i k old, tget s.cores i = some k → was i old → old.v = k.v → old.pdid = k.pdid → k.out = false →
           (t.coreAt i).queues = old.queues ∧ (t.coreAt i).threads = old.threads.map fun x => (x.1, { x.2 with
             earliest := s.cycle, parked := false
             mon := x.2.mon.map fun m => { m with pend := m.pend || m.armed } }))))

/-- R339, R340, R348: the undo record that a write makes first restores every byte and tag of its granule: what is read after the
write is undone is what was read before it. -/
def Obligations.UndoRestores : Prop :=
  ∀ (s : State) (c g off : Nat) (bs : List Byte),
    s.Canonical → c < 4096 → g < 0x4000 → off < 64 → off + bs.length ≤ 64 → s.hasUndo (s.coreAt c).rinCur c g false = false →
    ∃ u, (s.spadWrite c (64 * g + off) bs false).undo = s.undo ++ [u] ∧ u.home = c ∧ u.gran = g ∧
      let t := (s.spadWrite c (64 * g + off) bs false).undoOne u
      (∀ a, mget t.spad a = mget s.spad a) ∧ (∀ a, a ≠ spadGran c g → mget t.spadTag a = mget s.spadTag a) ∧
      mget t.spadTag (spadGran c g) = mget s.spadTag (spadGran c g) % 16

/-- R361: `trap`, `syscall` and `brk` trap at issue, with their immediate as DETAIL: Breakpoint subcode 1, SoftwareTrap subcodes
1 and 2. R355, R356, R359, R360: taking a trap. An anchored thread outside its handler whose EVEC names the cause enters it:
EPC is where it would go on, ECAUSE, EADDR and EDETAIL describe the trap, STATUS.H is set, and PC is EVEC's address; no
record is written and nothing else of the thread changes. Any other thread stops, and its record is posted. A report after
issue takes the trap with FLAGS.AFTER; at a slot that a command has stopped it writes the record alone (R370). R362: `eret`
leaves the handler for EPC; its traps come before. The model's choice (log 51): the DETAIL of
a trap in a repetition, of one that is reported after the last repetition too. -/
def Obligations.TrapsAndReturn : Prop :=
  (∀ (s : State) (h : CHead) (imm : BitVec 12) (th : Thread),
     s.ctx.mode = .alone → s.cur = some th → th.guard h.neg h.grd = true → th.isEmpty (.preg h.grd.toNat) = false →
     (∀ w ∈ s.curCore.due, w.slot ≠ s.ctx.slot) →
     let traps (cause sub : Nat) : Out := .next ((s.onWord false).issueTrap false ⟨cause, sub, 0, imm.setWidth 64⟩)
     exec (.trap h imm) s = traps 0x15 2 ∧ exec (.syscall h imm) s = traps 0x15 1 ∧ exec (.brk h imm) s = traps 0x14 1) ∧
  (∀ (s : State) (w : SlotRef) (after : Bool) (org : Origin) (t : TrapInfo) (th : Thread), s.who w = some th →
     let rpc : Word32 := if after = true then (if th.run = .stopped then th.rpc else th.pc)
       else if t.cause = 0x14 ∨ t.cause = 0x15 then (if th.kind = 2 then org.pc + 8 else (org.pc + 8) &&& 0xFFFF) else org.pc
     let flags := after.toNat + 2 * org.aWord.toNat
     let rep : Prop := th.srep.isSome = true ∧ org.pc = th.pc
     let det : Word := if th.srep.isSome ∧ org.pc = th.pc then wd (th.srep.getD 0) else if org.rep = true then 0 else t.detail
     let unrep (x : Thread) : Thread := if x.srep.isSome ∧ org.pc = x.pc then { x with srep := none } else x
     let s1 := (s.dropMwait w).modWho w unrep
     (th.handles t = true ↔ th.holdsAll = true ∧ th.status.getLsbD 8 = false ∧ th.evec.getLsbD (31 + t.cause) = true ∧
       0 < t.cause ∧ t.cause ≤ 24 ∧ ¬(t.cause = 0x15 ∧ t.sub = 2)) ∧
     (s.saving ≠ some (w.core, w.slot) ∨ th.run = .stopped →
       exec (.trapReportAfterIssue w org t) s = .next (s.takeTrap w true org t)) ∧
     (s.saving = some (w.core, w.slot) → th.run ≠ .stopped →
       exec (.trapReportAfterIssue w org t) s = .next ((s.modWho w unrep).recordTrap w.core th.tid th.pdid
         [s.trapRecord w.core w.slot th.pdid th.task th.tid (1 + 2 * org.aWord.toNat + 4 * (th.status.getLsbD 8).toNat) org
           th.pc { t with detail := det }])) ∧
     (th.handles t = true → th.run ≠ .stopped → ∃ u, (s.takeTrap w after org t).threadAt w.core w.slot = some u ∧
       u.epc = rpc.setWidth 64 ∧ u.ecause = wd (flags * 0x10000 + t.sub * 0x100 + t.cause) ∧ u.eaddr = t.addr ∧
       u.edetail = det ∧ (rep → u.srep = none) ∧ (¬rep → u.srep = th.srep) ∧ u.mwait = none ∧
       (∀ n r, th.mwait = some (n, .sreg r) → r < 16 → u.sEmpty.getLsbD r = false) ∧
       u.status = th.status ||| 0x100 ∧ u.pc = th.evec.setWidth 32 &&& 0xFFFFFFF8 ∧
       u.s = th.s ∧ u.p = th.p ∧ u.v = th.v ∧ u.vm = th.vm ∧ u.sg = th.sg ∧ u.d = th.d ∧ u.fflags = th.fflags ∧
       u.evec = th.evec ∧ s.SameMemory (s.takeTrap w after org t) ∧ s.SameOthers (s.takeTrap w after org t) w.core) ∧
     (th.handles t = false → th.handler = none → th.run ≠ .stopped → ∃ v,
       s.takeTrap w after org t = State.stopThread v w.core w.slot rpc ∧
       let r := s1.trapRecord w.core w.slot th.pdid th.task th.tid (flags + 4 * (th.status.getLsbD 8).toNat) org rpc
         { t with detail := det }
       (s1.trailing w.core th.tid th.pdid = false → (∀ x ∈ (s1.coreAt w.core).trapWait, x.1 ≠ th.tid) →
         v = s1.postTrap w.core th.pdid [r]) ∧
       (s1.trailing w.core th.tid th.pdid = true →
         v = s1.modCore w.core fun k => { k with trapWait := k.trapWait ++ [(th.tid, th.pdid, [r])] }))) ∧
  (∀ (s : State) (h : CHead), s.Issues h.neg h.grd →
     let epc : Word32 := s.ctx.pre.epc.setWidth 32
     exec (.eret h) s = .next ((s.onWord false).modCur fun t =>
       { t with status := t.status &&& ~~~0x100, pc := epc }) ∧
     (s.ctx.pre.status.getLsbD 8 = false → eretTrap s = some ⟨1, 10, 0, 0⟩) ∧
     (s.ctx.pre.status.getLsbD 8 = true → epc.toNat % 8 ≠ 0 → eretTrap s = some ⟨8, 0, epc.setWidth 64, 0⟩) ∧
     (s.ctx.pre.status.getLsbD 8 = true → epc.toNat % 8 = 0 → epc.toNat / 65536 ≠ 0 →
       eretTrap s = some ⟨0x17, 1, epc.setWidth 64, 0⟩) ∧
     (s.ctx.pre.status.getLsbD 8 = true → epc.toNat % 8 = 0 → epc.toNat / 65536 = 0 → eretTrap s = none))

/-- R356: the 64 bytes of a trap record. R357: a record goes into the slot TAIL names while the queue has room, TAIL is raised
and the consumer signalled; without room, or behind an older held record of the domain, it is held at its core; held records
are written when HEAD has advanced. R342, R344: a write of a record that finds no undo room, or no room in the external write
buffer, leaves the record held, and a full buffer asks for a cut. -/
def Obligations.TrapRecords : Prop :=
  (∀ (s : State) (c sl pdid task tid flags : Nat) (org : Origin) (rpc : Word32) (t : TrapInfo),
     c < 2304 → sl < 256 → pdid < 256 → task < 65536 → flags < 256 → t.cause < 256 → t.sub < 256 → s.devIdx < 65536 →
     let r := s.trapRecord c sl pdid task tid flags org rpc t
     let f (at_ n : Nat) : Nat := leNat ((r.drop at_).take n)
     r.length = 64 ∧ f 0 1 = t.cause ∧ f 1 1 = t.sub ∧ f 2 1 = pdid ∧ f 3 1 = flags ∧ f 4 2 = s.devIdx ∧ f 6 1 = c / 288 ∧
     f 7 1 = sl ∧ f 8 2 = c ∧ f 10 2 = task ∧ f 12 4 = tid % 2 ^ 32 ∧ f 16 4 = org.pc.toNat ∧ f 20 4 = rpc.toNat ∧
     f 24 8 = t.addr.toNat ∧ f 32 8 = t.detail.toNat ∧ f 40 4 = (s.coreAt c).rinCur.toNat ∧ f 44 4 = 0 ∧
     f 48 8 = s.cycle % 2 ^ 64 ∧ f 56 8 = org.bundle.toNat) ∧
  (∀ (s u : State) (c pdid : Nat) (r hd : List Byte),
     let d := s.domAt pdid
     let tail := leNat (hd.take 4)
     let head := leNat ((hd.drop 4).take 4)
     let held := (s.modCore c fun k => { k with heldTraps := k.heldTraps ++ [(r, 1)] }).writeHeld pdid
     let hold := if s.ewbRoom 64 = true then held else held.requestCut pcieNode (s.cutNo.toNat + 1)
     (d.v = true → s.sysRead pdid d.tqbase 12 = (u, some hd) →
       ((tail + 2 ^ 32 - head) % 2 ^ 32 < 2 ^ d.tqlogn →
         let rin := BitVec.ofNat 32 (leNat ((r.drop 40).take 4))
         let slot := d.tqbase + wd (64 + 64 * (tail % 2 ^ d.tqlogn))
         (∀ u1 u2, u.sysWrite pdid slot r rin = (u1, .done) → u1.sysWrite pdid d.tqbase (toLE 4 (tail + 1)) rin = (u2, .done) →
           s.tryPost pdid [r] = some (u2.signalTrap d)) ∧
         (∀ u1 p, p ≠ .done → u.sysWrite pdid slot r rin = (u1, p) → s.tryPost pdid [r] = none) ∧
         (∀ u1 u2 p, p ≠ .done → u.sysWrite pdid slot r rin = (u1, .done) →
           u1.sysWrite pdid d.tqbase (toLE 4 (tail + 1)) rin = (u2, p) → s.tryPost pdid [r] = none)) ∧
       (2 ^ d.tqlogn ≤ (tail + 2 ^ 32 - head) % 2 ^ 32 → s.tryPost pdid [r] = none)) ∧
     (d.v = false → s.tryPost pdid [r] = none) ∧
     ((∀ x ∈ (s.coreAt c).heldTraps, (x.1.getD 2 0).toNat ≠ pdid) → s.tryPost pdid [r] = some u →
       s.postTrap c pdid [r] = u) ∧
     ((∀ x ∈ (s.coreAt c).heldTraps, (x.1.getD 2 0).toNat ≠ pdid) → s.tryPost pdid [r] = none →
       s.postTrap c pdid [r] = hold) ∧
     ((∃ x ∈ (s.coreAt c).heldTraps, (x.1.getD 2 0).toNat = pdid) → s.postTrap c pdid [r] = hold) ∧
     (∀ x, s.subj.b = true → s.readyTraps s.subj.core = [x] →
       let s1 := s.modCore s.subj.core fun k => { k with trapWait := k.trapWait.filter fun y => !([x].contains y) }
       exec .heldTrapRecordRelease s = .next (s1.postTrap s.subj.core x.2.1 (s1.restamp s.subj.core x.2.2))) ∧
     (s.subj.b = false → s.oldestHeld s.subj.n = none → exec .heldTrapRecordRelease s = .next s) ∧
     (∀ x b k, s.subj.b = false → s.oldestHeld s.subj.n = some (x, b, k) →
       s.tryPost s.subj.n (s.restamp x (granules k b)) = none →
       exec .heldTrapRecordRelease s = .next s) ∧
     (∀ x b k, s.subj.b = false → s.oldestHeld s.subj.n = some (x, b, k) →
       s.tryPost s.subj.n (s.restamp x (granules k b)) = some u →
       exec .heldTrapRecordRelease s = .next (((u.modCore x fun q =>
         { q with heldTraps := q.heldTraps.eraseP fun h => (h.1.getD 2 0).toNat == s.subj.n }).writeHeld s.subj.n).releaseHeld
           s.subj.n 255)))

/-- R363–R365: `crd` gives the value of each control register; `cwr` writes the writable bits of the registers it may write, and
leaves every other register as it is. R366: `iload`, once its bytes are read, writes them at ORIGIN of the core's instruction
store and sets the directory entry (TASK, S); no other byte of any instruction store differs. The model's choice (logs 50, 61):
a code load makes its checks again when it is reissued with its bytes read, an entry that a task released counts as free, and
a register number that is not assigned is refused as the word decodes. -/
def Obligations.ControlRegistersAndCodeLoad : Prop :=
  (∀ (s : State) (h : CHead) (a : BitVec 5) (r : BitVec 12), s.Issues h.neg h.grd →
     let s0 := s.onWord false
     let t := s.ctx.pre
     let k := s.curCore
     let c := s.ctx.core
     let v := s.sval a
     let n := r.toNat
     let reads (n : Nat) (x : Word) : Prop := r.toNat = n → exec (.crd h a r) s = .next (s0.result a 1 x)
     let thread (n : Nat) (f : Thread → Thread) : Prop := r.toNat = n →
       exec (.cwr h a r) s = .next ((s0.modCur f).popAll (popsOf [a]))
     let core (n : Nat) (f : Core → Core) : Prop := r.toNat = n → ∃ u, exec (.cwr h a r) s = .next u ∧
       (s.cur.isSome = true → u.coreAt c = { f k with queues := (u.coreAt c).queues, threads := (u.coreAt c).threads }) ∧
       u.cur = s.cur ∧ s.SameMemory u ∧ s.SameOthers u c
     (reads 0x000 (wd t.tid) ∧ reads 0x001 (wd c) ∧ reads 0x002 (wd (c / 288)) ∧ reads 0x003 (wd s.devIdx) ∧
       reads 0x004 (wd k.pdid) ∧ reads 0x005 (wd t.task) ∧ reads 0x006 (wd s.ctx.slot) ∧ reads 0x010 t.status ∧
       reads 0x011 (t.fflags.setWidth 64) ∧ reads 0x012 (wd (k.sealed.toNat * 2 ^ 32 + k.rinCur.toNat)) ∧
       reads 0x020 k.issuepol ∧ reads 0x021 k.rottab ∧ reads 0x022 (k.issuechk.setWidth 64) ∧ reads 0x023 t.twin) ∧
     (∀ i, i < 8 → reads (0x028 + i) (vget 0 t.tcfg i)) ∧
     (reads 0x030 t.msca ∧ reads 0x031 t.mscb ∧ reads 0x040 (wd k.aqlim) ∧ reads 0x041 (t.spawnlim.setWidth 64) ∧
       reads 0x042 (k.stealdom.setWidth 64) ∧ reads 0x043 t.segmap ∧ reads 0x044 k.skidctl ∧ reads 0x050 t.nullmap ∧
       reads 0x051 t.pwbase ∧ reads 0x052 t.pwsize ∧ reads 0x060 (wd s.cycle) ∧ reads 0x061 (wd (s.cycle / 2700)) ∧
       reads 0x062 k.thermslot) ∧
     (∀ i, i < 16 → reads (0x070 + i) (vget 0 k.bstates i)) ∧
     (reads 0x080 t.evec ∧ reads 0x081 t.epc ∧ reads 0x082 t.ecause ∧ reads 0x083 t.eaddr ∧ reads 0x084 t.edetail) ∧
     (thread 0x010 (fun t => { t with status := (t.status &&& ~~~0x3C) ||| (v &&& 0x3C) }) ∧
       thread 0x011 (fun t => { t with fflags := v.setWidth 5 }) ∧ thread 0x023 (fun t => { t with twin := v &&& 0xFFFFFFFFFF }) ∧
       thread 0x030 (fun t => { t with msca := v }) ∧ thread 0x031 (fun t => { t with mscb := v }) ∧
       thread 0x041 (fun t => { t with spawnlim := v.setWidth 8 }) ∧ thread 0x050 (fun t => { t with nullmap := v }) ∧
       thread 0x080 (fun t => { t with evec := v &&& 0x005EFFFFFFFFFFF8 }) ∧
       thread 0x081 (fun t => { t with epc := v &&& 0xFFFFFFFF }) ∧ thread 0x083 (fun t => { t with eaddr := v }) ∧
       thread 0x084 (fun t => { t with edetail := v })) ∧
     (∀ i, i < 8 → thread (0x028 + i) (fun t => { t with tcfg := vset t.tcfg i v })) ∧
     (core 0x022 (fun k => { k with issuechk := v.setWidth 2 }) ∧
       core 0x042 (fun k => { k with stealdom := v.setWidth 2 })) ∧
     (n = 0x020 ∨ n = 0x021 → ∃ u, exec (.cwr h a r) s = .next u ∧ (u.coreAt c).issuepol = k.issuepol ∧
       (u.coreAt c).rottab = k.rottab ∧ (∃ e ∈ u.agenda, e.1 = s.cycle + 1 ∧ e.2 = ⟨.fixedLatencyWrite, { core := c }⟩) ∧
       ∃ w ∈ (u.coreAt c).due, w.dst = .creg n ∧ w.val = v.toNat ∧ w.due = s.cycle + 1) ∧
     (k.writeCreg 0x020 v = { k with issuepol := v &&& 3 } ∧ k.writeCreg 0x021 v = { k with rottab := v }) ∧
     (r.toNat = 0x040 → ∃ u, exec (.cwr h a r) s = .next u ∧ (u.coreAt c).aqlim = v.toNat % 128) ∧
     (n ∈ [0x000, 0x001, 0x002, 0x003, 0x004, 0x005, 0x006, 0x012, 0x043, 0x044, 0x060, 0x061, 0x062, 0x070, 0x07F, 0x082] →
       thread n id)) ∧
  (∀ (s : State) (h : CHead) (m : MemR) (x : BitVec 5), s.Issues h.neg h.grd → s.Canonical →
     let v := s.sval x [m.idx]
     let o := wbits v 0 16
     let bs := s.ctx.pre.codeBuf
     let c := s.ctx.core
     ∃ t, exec (.iload h m x) s = .next t ∧
       (∀ i, i < bs.length → mget t.istore (c * 65536 + o + i) = bs.getD i 0) ∧
       (∀ a, (a < c * 65536 + o ∨ c * 65536 + o + bs.length ≤ a) → mget t.istore a = mget s.istore a) ∧
       t.spad = s.spad ∧ t.hbm = s.hbm ∧
       ∃ e ∈ (t.coreAt c).codeDir, e.task = s.ctx.pre.task ∧ e.seg = wbits v 16 16 ∧ e.origin = o ∧
         e.len = 8 * wbits v 32 16 ∧ e.free = false)

/-- R354: a command that finds another in progress, or waiting, waits behind it with the SYSARG it was written with; one whose
writer may not name its domain or core completes with RESULT 1. A virtual function may name its own domain and the cores assigned to it; DOMSYNC and REMOVE are the physical
function's. R254, R352, R354, R369, R370: what each command does once its writer's right is checked, and its RESULT. SAVE
finds no thread (2) or a bad address (1), waits until the slot is quiet, writes the image and empties the slot (0); RESTORE
refuses (1, 3, 4, 5) or installs the image (0); RESUME and END act on a stopped and on any thread (2 without one); SEGSYNC,
TLBSYNC, DOMSYNC, REMOVE and PRIENABLE complete with 0. The model's choice (logs 49, 76): SYSARG is taken as the command is
written, and what a waiter whose covering entry SEGSYNC takes away holds in ADDR. -/
def Obligations.SystemCommands : Prop :=
  (∀ (s : State), s.subj.b = false →
     let c := s.subj.core
     let n := s.subj.n
     let f := s.subj.w.toNat
     let own : Prop := n < 256 ∧ (f = 0 ∨ (s.domAt n).v = true ∧ (s.domAt n).vf + 1 = f)
     let ownCore : Prop := own ∧ c < 2304 ∧ (f = 0 ∨ (s.coreAt c).v = true ∧ (s.coreAt c).pdid = n)
     let refuses (i : Instr) : Prop := exec i s = .next { s with sysstat := 1, saving := none }
     let prien : Prop := own ∧ c = 0 ∧ s.subj.slot = 0
     let waits (i : Instr) (right : Prop) : Prop := ∃ ok, (ok = true ↔ right) ∧
       exec i s = .next { s with sysq := s.sysq ++ [⟨⟨i, s.subj⟩, s.sysarg, ok⟩] }
     (s.sysstat.getLsbD 63 = true ∨ s.sysq ≠ [] →
       (∀ i ∈ [Instr.save, .restore, .resume, .endThread], waits i ownCore) ∧ (∀ i ∈ [Instr.segsync, .tlbsync], waits i own) ∧
       waits .prienable prien ∧ waits .domsync (n < 256 ∧ f = 0) ∧ waits .remove (n < 256 ∧ c < 2304 ∧ f = 0)) ∧
     (s.sysstat.getLsbD 63 = false → s.sysq = [] →
       (¬ownCore → ∀ i ∈ [Instr.save, .restore, .resume, .endThread], refuses i) ∧
       (¬own → ∀ i ∈ [Instr.segsync, .tlbsync], refuses i) ∧ (¬prien → refuses .prienable) ∧
       (¬(n < 256 ∧ f = 0) → refuses .domsync) ∧ (¬(n < 256 ∧ c < 2304 ∧ f = 0) → refuses .remove))) ∧
  (∀ (s : State) (x : SysCmd) (r : List SysCmd), s.subj.slot = 0 → s.subj.n = 12 → s.sysq = x :: r →
     let u : State := { s with sysq := r, sysstat := wd (2 ^ 63) }
     (x.ok = true → exec .registerWrite s = .next (u.after 0 x.ev.ins { x.ev.subj with b := true, m := x.arg.toNat })) ∧
     (x.ok = false → exec .registerWrite s = .next (u.finish 1))) ∧
  (∀ (s : State) (v : Nat),
     let z : State := { s with sysstat := wd v, saving := none }
     (s.sysq = [] → s.finish v = z) ∧ (s.sysq ≠ [] → s.finish v = z.after 1 .registerWrite { n := 12 })) ∧
  (∀ (s : State), s.subj.b = false → s.sysstat.getLsbD 63 = false → s.sysq = [] → s.subj.n < 256 → s.subj.core < 2304 →
     s.subj.w = 0 →
     let c := s.subj.core
     let sl := s.subj.slot
     let n := s.subj.n
     let arg := s.sysarg
     let k := s.coreAt c
     let s1 : State := { s with sysstat := wd (2 ^ 63) }
     let s2 : State := { s1 with saving := some (c, sl) }
     let ends (i : Instr) (r : Nat) : Prop := exec i s = .next { s with sysstat := wd r, saving := none }
     let badAddr : Prop := arg.toNat / 2 ^ 57 % 8 ≠ 0 ∨ arg.toNat % 64 ≠ 0 ∨ wbits arg 43 14 ≠ 0
     let eys := (List.range 16).filter fun e => (k.ey e).lace.isSome && (k.ey e).owner == sl
     (s.threadAt c sl = none → ends .save 2 ∧ ends .resume 2 ∧ ends .endThread 2) ∧
     (∀ t, s.threadAt c sl = some t →
       (t.kind ≠ 0 ∨ t.handler.isSome = true ∨ t.pdid ≠ n → ends .save 2) ∧
       (t.kind = 0 → t.handler = none → t.pdid = n → badAddr → ends .save 1) ∧
       (t.kind = 0 → t.handler = none → t.pdid = n → ¬badAddr → t.mwait = none →
         (s2.quiet c sl t = false → exec .save s = .next (s2.after 1 .save { s.subj with b := true, m := arg.toNat })) ∧
         (s2.quiet c sl t = true → eys = [] → ∀ u,
           s2.vwriteAll n k.rinCur (arg.toNat % 2 ^ 43) (granules ((s2.image c sl t).length / 64 + 1) (s2.image c sl t)) = (u, .done) →
           exec .save s = .next ((u.savedOut c sl t []).finish 0)) ∧
         (s2.quiet c sl t = true → eys = [] → ∀ u,
           s2.vwriteAll n k.rinCur (arg.toNat % 2 ^ 43) (granules ((s2.image c sl t).length / 64 + 1) (s2.image c sl t)) = (u, .waits) →
           exec .save s = .next (u.after 1 .save { s.subj with b := true, m := arg.toNat })) ∧
         (s2.quiet c sl t = true → eys = [] → ∀ u,
           s2.vwriteAll n k.rinCur (arg.toNat % 2 ^ 43) (granules ((s2.image c sl t).length / 64 + 1) (s2.image c sl t)) = (u, .fails) →
           exec .save s = .next (u.finish 1))) ∧
       (t.run ≠ .stopped ∨ t.pdid ≠ n → ends .resume 2) ∧
       (t.run = .stopped → t.pdid = n →
         let dst : Word32 := if arg.getLsbD 32 then arg.setWidth 32 else t.rpc
         let pc : Word32 := if t.kind = 2 then dst &&& 0xFFFFFFF8 else dst &&& 0xFFF8
         let leaving : Prop := t.depart.isSome = true ∧ pc = t.pc
         ∃ u x, exec .resume s = .next u ∧ u.threadAt c sl = some x ∧ u.sysstat = 0 ∧
           (sl < 16 → ¬leaving → vget 0 (u.coreAt c).bstates sl = 0) ∧ (x.parked = true ↔ leaving) ∧
           (leaving → x.depart = t.depart) ∧ (¬leaving → x.depart = none) ∧
           x.run = .running ∧ x.pc = pc ∧ x.s = t.s ∧ x.p = t.p ∧ x.status = t.status ∧ x.sg = t.sg ∧
           x.v = t.v ∧ x.vm = t.vm ∧ x.evec = t.evec ∧ x.epc = t.epc ∧ s.SameMemory u ∧ s.SameOthers u c) ∧
       (t.pdid ≠ n → ends .endThread 2) ∧
       (t.pdid = n → t.mwait = none →
         ((t.depart.map (·.sent)).getD false = true ∨ s2.mayEnd t = false →
           exec .endThread s = .next (s2.after 1 .endThread { s.subj with b := true, m := arg.toNat })) ∧
         ((t.depart.map (·.sent)).getD false = false → s2.mayEnd t = true → t.handler = none →
           exec .endThread s = .next ((s2.endThread c sl t true).finish 0)))) ∧
     (k.v = false ∨ k.pdid ≠ n ∨ badAddr → ends .restore 1) ∧
     (k.v = true → k.pdid = n → ¬badAddr → ∀ u h,
       s1.vreadLong n 2 (arg.toNat % 2 ^ 43) 64 false = (u, some h) →
       let len := Nat.min (imgN h 4 4) 0x1000000
       ∀ v b, u.vreadLong n (len / 64 + 2) (arg.toNat % 2 ^ 43) len false = (v, some b) →
         (badContext b n = true → exec .restore s = .next (v.finish 3)) ∧
         (badContext b n = false → k.freeSlot = none → exec .restore s = .next (v.finish 4)) ∧
         (badContext b n = false → ∀ sl, k.freeSlot = some sl →
           ((∃ e, e < 16 ∧ (imgN b 18 2).testBit e = true ∧ ((k.ey e).lace.isSome = true ∨ (k.ey e).loading = true)) →
             exec .restore s = .next (v.finish 5)) ∧
           ((∃ i, i < 16 ∧ (imageCap b 0 i).isSome = true ∧ (vget noCap k.caps i).v = true ∧
               (vget noCap k.caps i).away = none) → exec .restore s = .next (v.finish 5)) ∧
           ((∀ e, e < 16 → (imgN b 18 2).testBit e = true → (k.ey e).lace = none ∧ (k.ey e).loading = false) →
             (∀ i, i < 16 → (imageCap b 0 i).isSome = true → (vget noCap k.caps i).v = false) →
             (∀ x, v.restoreInto c sl b = (x, true) → exec .restore s = .next (x.finish 0)) ∧
             (∀ x, v.restoreInto c sl b = (x, false) → exec .restore s = .next (v.finish 3))))) ∧
     (∃ u, exec .segsync s = .next u ∧ u.sysstat = 0 ∧ u.saving = none ∧
       ((∀ x ∈ s.cores, tget (s.coreAt x.1).segCache n = none) → u = { s with sysstat := 0, saving := none })) ∧
     (∃ u, exec .tlbsync s = .next u ∧ u = { s with sysstat := 0, saving := none, ports := u.ports } ∧
       ∀ p e, e ∈ (u.portAt p).tlb ↔ e ∈ (s.portAt p).tlb ∧ e.pdid ≠ n) ∧
     (∃ u, exec .domsync s = .next u ∧ u.sysstat = 0 ∧
       let row := (tget s.domTable n).getD []
       let d := u.domAt n
       d.v = (row.getD 0 0).getLsbD 0 ∧ d.grant = (row.getD 0 0).getLsbD 1 ∧ d.supv = (row.getD 0 0).getLsbD 2 ∧
       d.vf = wbits (row.getD 0 0) 8 8 ∧ d.supcore = wbits (row.getD 0 0) 16 16 ∧ d.chwdog = wbits (row.getD 0 0) 32 32 ∧
       d.thwdog = wbits (row.getD 1 0) 0 32 ∧ d.tqlogn = wbits (row.getD 1 0) 32 8 ∧ d.ptroot = row.getD 2 0 ∧
       d.segset = row.getD 3 0 ∧ d.tqbase = row.getD 4 0 ∧ ∀ m, m ≠ n → u.domAt m = s.domAt m) ∧
     (∃ u, exec .remove s = .next u ∧ u.sysstat = 0 ∧ (u.coreAt c).out = true ∧ (u.coreAt c).aq = [] ∧
       (u.coreAt c).ring = [] ∧ (u.coreAt c).fifo = [] ∧ (u.coreAt c).deque = [] ∧ (u.coreAt c).resv = [] ∧
       ∀ p ∈ k.resv, ∃ x ∈ u.net, x.dst = p.src.core ∧ x.ev.ins = .arrivalReport p c (.refused 0x10 6)) ∧
     (c = 0 → sl = 0 → ∃ u, exec .prienable s = .next u ∧ u.sysstat = 0 ∧
       (∀ f, f ∈ u.priOff ↔ f ∈ s.priOff ∧ f ≠ (s.domAt n).vf) ∧ u.pri.length = s.pri.length ∧
       (∀ x ∈ u.pri, (s.domAt x.pdid).vf = (s.domAt n).vf → x.group = none) ∧ s.SameMemory u ∧ s.SameThreads u))

/-- R368, R369: the thread that RESTORE installs is the one SAVE wrote: its registers, its control registers, its segment and
vector registers, its repetition, and where it goes on; `vm7` stands in the image as the ones it reads as. The model's choice
(logs 30, 31): what SAVE waits for, and where PC, RPC and the mark of a repetition stand in the image, for which R368 gives no
place. -/
def Obligations.SavedImageRestores : Prop :=
  ∀ (s r : State) (c d sl : Nat) (t : Thread),
    t.pdid < 256 → t.task < 65536 → t.tid / 2 ^ 32 = r.devIdx → t.altlast < 16 → (∀ i, i < 4 → vget 0 t.d i < 64) →
    (s.image c sl t).length < 2 ^ 64 → (∀ n, t.srep = some n → n < 2 ^ 14) → t.aout < 2 ^ 32 → (∀ i, i < 4 → vget 0 t.outst i < 2 ^ 16) →
    let x := r.imageThread d (s.image c sl t)
    x.tid = t.tid ∧ x.task = t.task ∧ x.pdid = t.pdid ∧ x.pc = t.pc &&& 0xFFF8 ∧ x.rpc = t.rpc ∧ x.s = t.s ∧ x.p = t.p ||| 0x80 ∧
    x.altlast = t.altlast ∧ x.d = t.d ∧ x.status = t.status ∧ x.fflags = t.fflags ∧ x.twin = t.twin &&& 0xFFFFFFFFFF ∧ x.tcfg = t.tcfg ∧
    x.msca = t.msca ∧ x.mscb = t.mscb ∧ x.nullmap = t.nullmap ∧ x.spawnlim = t.spawnlim ∧ x.pwbase = t.pwbase &&& 0xFFFFF ∧
    x.pwsize = t.pwsize &&& 0x1FF ∧ x.srep = t.srep ∧ x.segmap = t.segmap ∧ x.evec = t.evec &&& 0x005EFFFFFFFFFFF8 ∧ x.epc = t.epc &&& 0xFFFFFFFF ∧ x.ecause = t.ecause ∧
    x.eaddr = t.eaddr ∧ x.edetail = t.edetail ∧ x.sg = t.sg.map (fun g => ⟨g.base, g.attr &&& 0xFFFFFFFFFFFF⟩) ∧ x.v = t.v ∧
    (∀ i, i < 7 → vget 0 x.vm i = vget 0 t.vm i) ∧ vget 0 x.vm 7 = 0xFFFFFFFFFFFFFFFF ∧ x.outst = t.outst ∧ x.aout = t.aout ∧ x.seq = t.seq ∧
    x.rt = t.rt ∧ x.stamp = r.cycle ∧ (t.run = .stopped ↔ x.run = .stopped)

/-- R16, R256, R294, R304, R330, R332, R342, R352–R354, R385: writes of the management region. A value a register refuses leaves
everything as it is; WQCFG's enable starts the queue at slot 0; CASSIGN changes V and PDID once the core is empty, and AMEN
at once; a word of SYSCMD starts the command its OP names, or completes with RESULT 1. R386: a virtual function's write of the
physical function's page, or of a queue that is not its own, changes nothing. The model's choice (log 36): the numbers that
name the registers, and that a queue belongs to the function of the domains its WQCFG names. -/
def Obligations.ManagementRegisters : Prop :=
  (∀ (s : State), s.subj.slot ≠ 0 →
    let n := s.subj.n
    let mine (p : Nat) : Prop := (s.domAt p).v = true ∧ (s.domAt p).vf + 1 = s.subj.slot
    let queue (q : Nat) : Nat := (s.wqAt q).cfg.toNat / 2 ^ 40 % 256
    (n ∉ [1, 2, 3, 8, 11, 12] → exec .registerWrite s = .next s) ∧
    (n = 1 ∨ n = 2 → ¬mine (queue s.subj.m) → exec .registerWrite s = .next s) ∧
    (n = 3 → exec .registerWrite s = .next { s with sysarg := s.subj.w }) ∧
    (¬mine (queue n) ∨ ¬mine (s.subj.w.toNat / 2 ^ 40 % 256) → exec .wqcfgWrite s = .next s) ∧
    (s.subj.b = false → exec .cassignWrite s = .next s) ∧
    exec .sealctlWrite s = .next s ∧ exec .undocfgWrite s = .next s) ∧
  ∀ (s : State), s.subj.slot = 0 →
    let n := s.subj.n
    let i := s.subj.m
    let c := s.subj.core
    let v := s.subj.w
    let k := s.coreAt c
    let old := s.wqAt n
    let logn := v.toNat / 2 ^ 36 % 16
    let empty : Prop := k.threads = [] ∧ k.aq = [] ∧ k.ring = [] ∧ ∀ e, e < 16 → (k.ey e).life = .unbound
    let sets (t : State) : Prop := exec .registerWrite s = .next t
    (n < 64 → v.getLsbD 63 = true → old.cfg.getLsbD 63 = false → 4 ≤ logn → logn ≤ 12 → ∃ u, exec .wqcfgWrite s = .next u ∧
      u.wqAt n = { old with cfg := (v &&& 0x80FFFFF000000000) ||| 0x4000000000000000, compPos := 0, compPhase := true, taken := 0 } ∧
      (∀ m, m ≠ n → u.wqAt m = s.wqAt m) ∧ s.SameMemory u ∧ s.SameThreads u) ∧
    (n < 64 → v.getLsbD 63 = false → ∃ u, exec .wqcfgWrite s = .next u ∧
      u.wqAt n = { old with cfg := (v &&& 0x80FFFFF000000000) ||| (old.cfg &&& 0x40000000FFFFFFFF) }) ∧
    (64 ≤ n ∨ v.getLsbD 63 = true ∧ (logn < 4 ∨ 12 < logn) → exec .wqcfgWrite s = .next s) ∧
    (c < 2304 → s.subj.b = false → k.v = v.getLsbD 63 → k.pdid = v.toNat % 256 →
      exec .cassignWrite s = .next (s.setCore c { k with amen := v.getLsbD 62, cassignNext := none })) ∧
    (c < 2304 → s.subj.b = false → (k.v ≠ v.getLsbD 63 ∨ k.pdid ≠ v.toNat % 256) → empty →
      ∃ u, exec .cassignWrite s = .next u ∧ (u.coreAt c).v = v.getLsbD 63 ∧ (u.coreAt c).amen = v.getLsbD 62 ∧
        (u.coreAt c).pdid = v.toNat % 256 ∧ (u.coreAt c).cassignNext = none ∧ (u.coreAt c).tiles = [] ∧
        (u.coreAt c).tagTable = [] ∧ (u.coreAt c).codeDir = [] ∧ (u.coreAt c).segCache = [] ∧ s.SameOthers u c) ∧
    (c < 2304 → s.subj.b = false → (k.v ≠ v.getLsbD 63 ∨ k.pdid ≠ v.toNat % 256) → ¬empty →
      ∃ u, exec .cassignWrite s = .next u ∧ u.coreAt c = { k with cassignNext := some v } ∧ s.SameOthers u c) ∧
    (100 ≤ v.toNat % 2 ^ 32 → v.toNat % 2 ^ 32 ≤ 1000000 → ∃ u, exec .sealctlWrite s = .next u ∧
      u.sealctl = v &&& 0xC0000000FFFFFFFF ∧ u = { s with sealctl := u.sealctl, agenda := u.agenda }) ∧
    (v.toNat % 2 ^ 32 < 100 ∨ 1000000 < v.toNat % 2 ^ 32 → exec .sealctlWrite s = .next s) ∧
    (v.toNat % 8 ≤ 4 → (∀ x ∈ s.tasks, x.2.placed = false) → exec .undocfgWrite s = .next { s with undocfg := v &&& 7 }) ∧
    (4 < v.toNat % 8 ∨ (∃ x ∈ s.tasks, x.2.placed = true) → exec .undocfgWrite s = .next s) ∧
    (n = 0 → i < 2048 → let row := (tget s.domTable (i / 8)).getD (List.replicate 8 0)
      sets { s with domTable := tset s.domTable (i / 8) (row.set (i % 8) v) }) ∧
    (n = 1 → i < 64 → (s.wqAt i).en = false → sets { s with wqs := tset s.wqs i { s.wqAt i with base := v } }) ∧
    (n = 1 → i < 64 → (s.wqAt i).en = true → ∃ u, sets u ∧ u.wqAt i = { s.wqAt i with base := v } ∧
      ∃ e ∈ u.agenda, e.2.subj.n = i ∧ e.2.ins = (if spaceOf v = 3 then .hostRingPoll else .workQueueTake)) ∧
    (n = 2 → i < 64 → sets { s with wqs := tset s.wqs i { s.wqAt i with comp := v } }) ∧
    (n = 3 → sets { s with sysarg := v }) ∧ (n = 4 → sets { s with pwrlim := v.toNat }) ∧
    (n = 5 → sets ((s.modCore i fun k => { k with skidctl := v &&& 0x000FFFC0000003FF }).freeArrivals i)) ∧
    (n = 6 → v.getLsbD 0 = true → ∃ u, exec .registerWrite s = .next u ∧ ∀ d, d ∈ u.members ↔ d ∈ s.members ∨ d = i) ∧
    (n = 6 → v.getLsbD 0 = false → ∃ u, exec .registerWrite s = .next u ∧ ∀ d, d ∈ u.members ↔ d ∈ s.members ∧ d ≠ i) ∧
    (n = 7 → ∃ u, exec .registerWrite s = .next u ∧ u.devIdx = v.toNat % 16384) ∧
    (n = 8 → let t : State := { s with priAlloc := tset s.priAlloc i v.toNat }
      (s.priOf i false = [] → sets t) ∧
      ∀ x r, s.priOf i false = x :: r → sets (if s.groupComing i = true then t
        else t.at (Nat.max (s.cycle + 1) (x.raised + 512)) ⟨.pageRequestGroup, { n := i }⟩)) ∧
    (n = 9 → sets { s with mgmt := tset s.mgmt (0x1000 + i) v }) ∧
    (n = 10 → i < 4096 → ∃ u, sets u ∧ tget u.deps i = none ∧ ∀ j, j ≠ i → tget u.deps j = tget s.deps j) ∧
    (n = 10 → 4096 ≤ i → ∃ u, sets u ∧ u.deps = []) ∧
    (n = 11 →
      let op := v.toNat / 2 ^ 60
      let cmds : List Instr := [.save, .restore, .resume, .endThread, .segsync, .tlbsync, .remove, .domsync, .prienable]
      (v.toNat % 2 ^ 36 = 0 → 0 < op → ∀ cmd, cmds[op - 1]? = some cmd → sets (s.after 0 cmd
        { n := v.toNat / 2 ^ 52 % 256, core := v.toNat / 2 ^ 40 % 4096, slot := v.toNat / 2 ^ 36 % 16, w := wd i })) ∧
      (v.toNat % 2 ^ 36 ≠ 0 ∨ op = 0 ∨ 9 < op → s.subj.b = false → s.sysstat.getLsbD 63 = false → s.sysq = [] →
        sets { s with sysstat := 1, saving := none })) ∧
    (n = 13 → i < 16 → s.health (200 + i) ≠ 0 → ∃ u, sets u ∧ u.health (184 + i) = s.health (184 + i) + 1 ∧
      u.health (200 + i) = s.health (200 + i) - 1) ∧
    (n = 13 → 16 ≤ i ∨ s.health (200 + i) = 0 → sets s) ∧
    ((∀ m ∈ s.net, m.dst ≠ heldNode c) → ∃ u, exec .placementTableWrite s = .next u ∧
      u = { s with cores := u.cores } ∧ s.SameOthers u c ∧
      u.coreAt c = (if s.subj.b then { k with devPlace := tset k.devPlace n ⟨v.getLsbD 63, v.getLsbD 62, v.toNat % 16384⟩ }
        else { k with place := tset k.place n ⟨v.getLsbD 63, v.getLsbD 62, v.toNat % 4096⟩ }))

/-- R385, R390, R392, R393: a regulator's sample above PWRLIM makes every core disable a slot and one below enables what was
disabled for it; the health update writes the 24 registers of predicted end of life; a mailbox's request is answered in
order, and a newer nonce replaces one that waits; device reset sets everything but what is outside the device as reset does.
R388: a link that fails is down while it trains; training leaves it up or down, and a port off the edge stays down. R390: the
signed configuration is applied once both checks of the boot pass. The model's choice (logs 5, 47, 48): the readings of the
indicators and of the current are free values, device reset ends with the boot done, and which cores a power sample reaches. -/
def Obligations.PackageSteps : Prop :=
  (∀ (s : State) (fn : Nat) (nonce : List Byte),
     let amps := Config.vcoreCurrent s.draws
     let t : State := ({ s with draws := s.draws + 1 } : State).after 270000 .powerSample
     let all (s : State) (b : Bool) : State :=
       (List.range 2304).foldl (fun s c => s.after 0 .thermslotUpdate { core := c, b := b }) s
     (s.pwrlim < amps → exec .powerSample s = .next (all { t with throttled := true } true)) ∧
     (amps ≤ s.pwrlim → s.throttled = false → exec .powerSample s = .next t) ∧
     (amps ≤ s.pwrlim → s.throttled = true → ∃ b, exec .powerSample s = .next (all { t with throttled := b } false)) ∧
     (∃ u, exec .healthUpdate s = .next u ∧ (∀ j, j < 24 → tget u.mgmt (0x3000 + j) = some (wd (Config.endOfLife (s.eol * 24 + j)))) ∧
       (∀ j, 24 ≤ j ∧ j < 184 ∨ 216 ≤ j ∧ j < 472 → tget u.mgmt (0x3000 + j) = some (wd (Config.healthReading s.eol j))) ∧
       (∀ j, j < 0x3000 ∨ 0x30B8 ≤ j ∧ j < 0x30D8 ∨ 0x31D8 ≤ j → tget u.mgmt j = tget s.mgmt j) ∧ u = { s with mgmt := u.mgmt, eol := u.eol, agenda := u.agenda }) ∧
     (nonce ≠ [] → ∃ u, exec (.attestationRequest fn nonce) s = .next u ∧ (fn, nonce) ∈ u.mailbox ∧ u.reports = s.reports ∧
       (∀ x, x.1 ≠ fn → (x ∈ u.mailbox ↔ x ∈ s.mailbox))) ∧
     (∀ f n rest, s.mailbox = (f, n) :: rest → ∃ u, exec (.attestationRequest fn []) s = .next u ∧ u.mailbox = rest ∧
       tget u.reports f = some (s.attest f n) ∧ ∀ g, g ≠ f → tget u.reports g = tget s.reports g) ∧
     (s.mailbox = [] → exec (.attestationRequest fn []) s = .next s) ∧
     (∃ u, exec .deviceReset s = .next u ∧ u.cores = State.reset.cores ∧ u.ports = State.reset.ports ∧ u.spad = [] ∧
       u.hbm = [] ∧ u.istore = [] ∧ u.tasks = [] ∧ u.wqs = State.reset.wqs ∧ u.domains = State.reset.domains ∧
       u.sealctl = State.reset.sealctl ∧ u.host = s.host ∧ u.boots = s.boots + 1 ∧ u.devIdx = s.devIdx ∧
       (∀ j, 0x3000 ≤ j → j < 0x4000 → tget u.mgmt j = tget s.mgmt j) ∧ (∀ j, j < 0x3000 → tget u.mgmt j = none) ∧
       let n := s.boots + 1
       let good : Prop := (Config.bootCheck n).1 = true ∧ (Config.bootCheck n).2 = true
       (good → u.pwrlim = Config.bootPower n ∧
         (4 < (Config.bootUndo n).toNat → u.undocfg = 2) ∧
         ((Config.bootUndo n).toNat ≤ 4 → u.undocfg.toNat = (Config.bootUndo n).toNat) ∧
         ∀ p, p < 8 → u.portUp.getLsbD p =
           ((Config.bootPorts n).getLsbD p && (Config.portsTrained n).getLsbD p && !edgePort s.devIdx p)) ∧
       (¬good → u.pwrlim = 7500 ∧ u.undocfg = 2 ∧ u.portUp = 0) ∧
       u.bootstat = (if (Config.bootCheck (s.boots + 1)).1 = false then 2
         else if (Config.bootCheck (s.boots + 1)).2 = false then 3 else 1))) ∧
  (∀ (s : State), s.subj.n < 8 →
     (∃ t, exec .linkFailure s = .next t ∧ t.portUp.getLsbD s.subj.n = false ∧ t.spad = s.spad ∧ t.hbm = s.hbm ∧
       (∀ i, i ≠ s.subj.n → t.portUp.getLsbD i = s.portUp.getLsbD i) ∧ ∃ e ∈ t.agenda, e.2.ins = .portTraining ∧ e.2.subj.n = s.subj.n) ∧
     (∃ t, exec .portTraining s = .next t ∧ t.portUp.getLsbD s.subj.n = (s.subj.b && !edgePort s.devIdx s.subj.n) ∧
       t = { s with portUp := t.portUp }))

/-- R33, R40, R43, R44: words written out in the spec decode to what it says they are, and words it refuses do not decode. -/
def Obligations.DecodedWords : Prop :=
  let h : CHead := ⟨0, false, 7⟩
  let g : AHead := ⟨false, 7⟩
  decodeA 0x71CA1918 = .ok (.cmp g 1 2 3 4 6) ∧
  decodeC 0x073C4005 0 = .ok (.waitd h 2) ∧ decodeC 0x0714BFFC 0 = .ok (.loop h 2 0x3FFC) ∧
  decodeC 0x8768A64C 0x0C000010 = .ok (.gatom h ⟨5, 1, true, 2, 6, 0, 3, 16⟩) ∧
  decodeC 0x075C69D1 0 = .ok (.gld h ⟨3, 2, 3, true, 4, 1, none⟩) ∧
  decodeC 0x842106ED 0x1006 = .ok (.ld ⟨0, false, 4⟩ ⟨8, 1, 5, true, 11, 1, some 0x1006⟩) ∧
  decodeA 0x7581CEF0 = .ok (.vfma g ⟨0, 28, 29, 7, 0, 0⟩) ∧ decodeC 0x079C0005 0 = .ok (.trap h 5) ∧
  decodeC 0x07A80001 0 = .ok (.eret h) ∧ decodeC 0x07901003 0 = .error ⟨2, 1⟩ ∧ decodeC 0x87900003 0 = .error ⟨1, 3⟩ ∧
  decodeC 0x07FC0000 0 = .error ⟨1, 1⟩ ∧ decodeA 0x7FC00000 = .error ⟨1, 1⟩

/-- R5, R45, R46, R94, R103: a step runs the decoded bundle. Where one thread alone is at its core, is ready and its bundle's
words decode and pass the stages, the step advances the thread past the bundle, runs the C-word and then the A-word on that
state (the A-word first where the C-word is `qcfg` or `cwr`; either way the entries it pops are those after the C-word's, R28),
and ends the thread if `done` has issued; where a stage traps, neither word has its effect and the step takes the trap. A step
that is due, and a message that arrives, is `exec` of its instruction at the state it is due in; otherwise the next cycle
begins. R348: no bundle issues while a rollback's log entries are replayed. The model's choice (logs 3, 53, 80): which message
arrives next, the order of what happens within a cycle, and that a bundle which traps at issue does not count its STALL. -/
def Obligations.StepRunsDecoded : Prop :=
  ∀ (s : State), s.up = true →
    (∀ e s', s.nextDue = some (e, s') → step s = exec e.ins s') ∧
    (∀ c r sl t e ci, s.nextDue = none → s.todo = c :: r → sl < 16 →
      let k := s.coreAt c
      let b := s.bundleOf c e t.pc
      let s1 := ({ s with todo := r } : State)
      let org : Origin := ⟨t.pc, b, false, t.srep.isSome⟩
      let p : State := { s1 with ctx := ⟨c, sl, .probe, [], t, k.queues, org, Finding.none⟩ }
      let fc := probeWord ci (p.found (p.beside b))
      let q : State := p.afterPops fc.pops
      s.setCore c k = s → s.replaying = false → k.threads = [(sl, t)] → k.paused = false → k.slotOff sl = false → s.saving = none → t.run = .running →
      t.earliest ≤ s.cycle → t.faulted = [] → t.depart = none → t.hold = none → t.srep = none → t.parked = false → t.asleep = false →
      k.codeEntry t.task t.fetchSeg = some e → (t.kind = 2 → t.pc.toNat % 65536 < e.len) →
      decodeC (b.setWidth 32) ((b >>> 32).setWidth 32) = .ok ci →
      let s2 : State := s1.setCore c (k.chosen [sl] (some sl))
      let s3 (fa : Finding) : State :=
        ({ s2 with ctx := ⟨c, sl, .commit, [], t, k.queues, org, fa⟩ } : State).advance (b.toNat / 2 ^ 28 % 8)
      let ends (v : State) : Host.Outcome State Fault Refusal := .next (({ v with ctx := Ctx.idle } : State).finishDone c sl)
      let traps (w : Bool) (i : TrapInfo) : Host.Outcome State Fault Refusal :=
        .next ((({ s2 with ctx := Ctx.idle } : State).modThread c sl fun t =>
          { t with parked := false, earliest := s.cycle + 1 }).takeTrap ⟨c, sl, t.tid⟩ false ⟨t.pc, b, w, t.srep.isSome⟩ i)
      (b.getLsbD 31 = true → fc.kindTrap = none → q.verdict [(false, fc)] = .go →
        ∀ v, exec ci (s3 Finding.none) = .next v → step s = ends v) ∧
      (b.getLsbD 31 = true → fc.kindTrap = none → ∀ i, q.verdict [(false, fc)] = .trap false i false → step s = traps false i) ∧
      (∀ ai w i, b.getLsbD 31 = false → decodeA ((b >>> 32).setWidth 32) = .ok ai → fc.kindTrap = none →
        q.verdict [(false, fc), (true, probeWord ai q)] = .trap w i false → step s = traps w i) ∧
      (∀ ai, b.getLsbD 31 = false → decodeA ((b >>> 32).setWidth 32) = .ok ai → fc.kindTrap = none →
        q.verdict [(false, fc), (true, probeWord ai q)] = .go →
        let sa := s3 (probeWord ai q)
        (actsLast ci = false → ∀ u v, exec ci sa = .next u → exec ai (u.afterPops fc.pops) = .next v → step s = ends v) ∧
        (actsLast ci = true → ∀ u v, exec ai (sa.afterPops fc.pops) = .next u → exec ci (u.afterPops []) = .next v →
          step s = ends v))) ∧
    (s.nextDue = none → s.todo = [] →
      (∃ d, step s = .next ({ s with draws := d } : State).tick) ∨
      ∃ m n w, s.net[n]? = some m ∧ m.dst < 8192 ∧ serialLe m.rin (s.rinOf m.dst) = true ∧
        (∀ j x, j < n → s.net[j]? = some x → x.precedes m = false) ∧ (s.logged m = false → w.net = s.net.eraseIdx n) ∧ w.subj = m.ev.subj ∧
        step s = exec m.ev.ins w)

/-- R293, R294, R300, R316, R331, R332, R342, R353, R385: what reset leaves: the registers with a stated reset value hold it, no
core is assigned and no thread runs, interval 0 is the current one, and every store is in canonical form with nothing listed.
The model's choice (logs 7, 47): the registers that the spec gives no reset value hold zero, and reset stands after the boot. -/
def Obligations.ResetValues : Prop :=
  let s := State.reset
  s.Canonical ∧ s.spad = [] ∧ s.hbm = [] ∧ s.istore = [] ∧ s.sealctl = 0xC0000000000007D0 ∧ s.undocfg = 2 ∧ s.pwrlim = 7500 ∧
  s.cutNo = 0 ∧ s.sysstat = 0 ∧ s.cycle = 0 ∧
  (∀ q, q < 64 → (s.wqAt q).en = false ∧ (s.wqAt q).cfg.getLsbD 62 = true ∧ wbits (s.wqAt q).cfg 36 4 = 4) ∧
  (∀ c, c < 2304 → let k := s.coreAt c
    k.v = false ∧ k.threads = [] ∧ k.issuepol = 0 ∧ k.issuechk = 0 ∧ k.aqlim = 64 ∧ k.rottab = 0xFEDCBA9876543210 ∧
    k.skidctl = 0x000B400000000100 ∧ k.rinCur = 0 ∧ (∀ i, i < 16 → vget 1 k.bstates i = 0) ∧
    ∀ q, q < 16 → (k.queue q).valid = false ∧ (k.queue q).entries = []) ∧
  ∀ d, (s.domAt d).v = false

/-- R21–R43: decoding and encoding agree. Every well-formed instruction that is a word of a bundle decodes from its encoding,
with every operand at every value; and a word that decodes gives a well-formed instruction whose encoding is that word, so no
bit of it is dropped. A C-word without a literal decodes beside any A-word. -/
def Obligations.DecodeEncodeAgree : Prop :=
  ∀ (i : Instr) (w l : BitVec 32),
    (i.wf = true → ∀ e, encode i = some e →
      (e.aWord = true → isAWord i = true ∧ e.lit = none ∧ decodeA e.word = .ok i) ∧
      (e.aWord = false → isAWord i = false ∧ (e.word.getLsbD 31 = e.lit.isSome) ∧ decodeC e.word (e.lit.getD l) = .ok i)) ∧
    (decodeA w = .ok i → i.wf = true ∧ encode i = some ⟨true, w, none⟩) ∧
    (decodeC w l = .ok i → i.wf = true ∧ encode i = some ⟨false, w, if w.getLsbD 31 = true then some l else none⟩)

/-- The invariant of memory: from every state whose scratchpads, HBM, tags, host memory and instruction stores are in canonical
form (addresses rising, nothing listed that reads as an unlisted byte does), every step that answers a next state leaves them
so. It formalises no rule: the canonical form is the model's own (log 1). -/
def Obligations.StepKeepsCanonical : Prop :=
  ∀ (s t : State), s.Canonical → step s = .next t → t.Canonical

/-- R3, R23, R45, R46: every form completes. Under the conditions for normal execution alone (the checks of R45 have passed,
the thread is there, the guard holds) each C-word and each A-word answers a next state, whatever its operands and the state of
memory; `trap`, `syscall` and `brk` are left to TrapsAndReturn, since their effect is the trap. Each of the device's other
steps answers a next state in every state; the step of a word that fails to decode needs the thread whose word it is. -/
def Obligations.EveryFormCompletes : Prop :=
  (∀ (s : State) (h : CHead) (d : Disp) (r0 r1 r2 : BitVec 5) (e e1 : BitVec 4) (imm14 : BitVec 14) (cM : CM) (cV : CV)
    (cP : CP) (cSeg : CSeg) (memR : MemR) (k : BitVec 2) (p0 : BitVec 3) (cE : CE) (cMS : CMS) (cG : CG)
    (cA : CA) (cARed : CARed) (imm32 : BitVec 32) (cY : CY) (copyLen : CopyLen) (imm16 : BitVec 16)
    (imm12 : BitVec 12),
    s.Issues h.neg h.grd →
    ∀ i ∈ ([
      .nopC h, .br h d, .call h d, .ret h, .jr h r0, .loop h e imm14, .yield h, .halt h, .ld h cM, .st h cM, .ldv h cV,
      .stv h cV, .ldp h cP, .segld h cSeg, .segst h cSeg, .tagset h r0 memR, .tagget h r0 memR, .tlook h r0 r1,
      .tfill h r0 r1 r2, .hsift h memR r0, .waitd h k, .tcfg h p0 r0, .tld h p0 memR, .tst h p0 memR, .tsave h p0 memR,
      .trest h p0 memR, .tcmd h r0 r1 r2, .elace h e memR, .econn h e r0, .elisten h e, .eaccept h e r0, .egrant h r0 r1,
      .eclose h e, .estat h r0 e, .eslot h r0 r1, .esend h cE, .erecv h cE, .esel h e k, .eoffer h e r0, .ealt h r0 r1,
      .edeleg h e r0, .ecatch h e r0, .route h r0 r1, .qcfg h e r0, .spawn h r0 r1 r2, .wake h r0, .marm h k memR,
      .mwait h r0 r1, .mdisarm h k, .barinit h memR r0, .bararr h memR, .barwait h r0 memR p0, .gld h cM, .gst h cMS,
      .gstc h cG, .gatom h cA, .gred h cARed, .amsg h r0 p0 imm32, .frd h r0 memR, .copy h cY copyLen,
      .copyg h cY e e1 imm16, .cpref h memR r0, .fence h k, .travel h memR, .tspawn h memR r0, .tseg h r0, .fork h r0 r1,
      .join h r0, .launch h memR, .grow h r0, .commit h, .done h, .sealCut h, .sealw h, .rin h r0, .xsync h, .crd h r0 imm12,
      .cwr h r0 imm12, .iload h memR r0, .eret h] : List Instr), ∃ t, exec i s = .next t) ∧
  (∀ (s : State) (h : AHead) (aR : AR) (aU : AU) (k : BitVec 2) (p0 p1 p2 : BitVec 3) (r0 r1 : BitVec 5) (imm12 : BitVec 12)
    (imm17 : BitVec 17) (e : BitVec 4) (imm16 : BitVec 16) (aF : AF) (imm7 : BitVec 7) (aP : AP) (b : Bool)
    (aFP : AFP) (aFS : AFS) (aCV : ACV) (vR : VR) (vU : VU) (vC : VC) (vP : VP) (imm6 : BitVec 6) (vX : VX)
    (vCE : VCE) (vRD : VRD) (vBX : VBX) (tMM : TMM),
    s.Issues h.neg h.grd →
    ∀ i ∈ ([
      .nopA h, .add h aR, .sub h aR, .mul h aR, .mulh h aR, .mulhn h aR, .div h aR, .divn h aR, .rem h aR, .remn h aR,
      .and h aR, .or h aR, .xor h aR, .andn h aR, .shl h aR, .shr h aR, .sra h aR, .rot h aR, .clz h aU, .ctz h aU,
      .popc h aU, .min h aR, .max h aR, .minn h aR, .maxn h aR, .mov h aU, .sext8 h aU, .sext16 h aU, .sext32 h aU,
      .zext8 h aU, .zext16 h aU, .zext32 h aU, .lea h aR k, .sel h aR p0, .addi h r0 r1 imm12, .movImm h r0 imm17,
      .movK h e k imm16, .bfx h aF, .bfi h aF, .cmp h p0 p1 r0 r1 e, .cmpi h p0 p1 r0 e imm7, .pand h aP, .por h aP,
      .pxor h aP, .pmov h p0 p1 b, .fadd h aFP, .fsub h aFP, .fmul h aFP, .fma h aFP, .fmin h aFS, .fmax h aFS, .fsgn h aFS,
      .fsgnN h aFS, .fcmp h p0 p1 r0 r1 p2 k, .cvt h aCV, .vaddF h vR, .vaddI h vR, .vsubF h vR, .vsubI h vR, .vmulF h vR,
      .vmulI h vR, .vfma h vR, .vfms h vR, .vminF h vR, .vminS h vR, .vminN h vR, .vmaxF h vR, .vmaxS h vR, .vmaxN h vR,
      .vabsF h vU, .vnegF h vU, .vabsI h vU, .vnegI h vU, .vrcp h vU, .vrsq h vU, .vexp2 h vU, .vlog2 h vU, .vmov h vU,
      .vand h vR, .vor h vR, .vxor h vR, .vshl h vR, .vshr h vR, .vsra h vR, .vcmpF h vC, .vcmpI h vC, .vsel h vR,
      .vperm h vP, .vbcast h r0 r1 k, .vext h r0 r1 imm6 k, .vins h vX, .vcompress h vCE, .vexpand h vCE, .vred h vRD,
      .vcvt h aCV, .vpackbx h vBX, .vunpbx h vBX, .mand h p0 p1 p2, .mor h p0 p1 p2, .mnot h p0 p1, .mpop h r0 p0,
      .sbind h r0 r1, .srep h r0, .tzero h p0, .tmma h tMM, .tmmas h tMM p0 e, .ttrans h p0 p1, .tadd h p0 p1 p2,
      .tcvt h p0 p1 e p2, .tsel h p0 p1 imm6] : List Instr), ∃ t, exec i s = .next t) ∧
  (∀ (s : State) (wb : Wb) (n0 n1 : Nat) (localAcc : LocalAcc) (who : SlotRef) (org : Origin) (w0 w1 : Word)
    (segAt : SegAt) (pushAt : PushAt) (optionNat : Option Nat) (vReg : VReg) (rCmd : RCmd)
    (rRes : RRes) (connReq : ConnReq) (connOut : ConnOut) (l0 l1 l2 : EyLoc) (chMsg : ChMsg) (closeN : CloseN)
    (req : Req) (reply : Reply) (aMsg : AMsg) (packet : Packet) (arrRep : ArrRep) (combMsg : CombMsg)
    (combRep : CombRep) (trapInfo : TrapInfo) (regDst : RegDst) (launchRec : LaunchRec) (cutUnit : CutUnit)
    (prgResp : PrgResp) (listByte : List Byte),
    ∀ i ∈ ([
      .divideComplete wb, .localAccessPerformed n0 localAcc, .localLoadWriteback wb, .trackedRegisterWrite wb,
      .segldComplete who org n0 w0 w1 optionNat, .elaceComplete who org n0 w0 segAt, .streamReadAvailable who n0 n1,
      .streamPushQueued who org n0 pushAt vReg w0, .remoteCommandArrival rCmd, .remoteCommandReply rCmd rRes,
      .connectRequestArrival connReq, .connectOutcome connReq connOut, .portEndpointConnect connReq,
      .channelMessageArrival l0 l1 n0 chMsg, .allowanceReturn l0 l1 n0, .closeNoticeArrival l0 closeN,
      .closeAcknowledge l0 l1 n0, .moveNotice l0 l1 n0, .markArrival l0 l1 n0, .rehome l0 l1 l2 n0, .globalRead req,
      .globalWrite req, .atomicAtHome req, .flushReadAtHome req, .acknowledgementArrival req reply, .countedAckArrival req,
      .amsgArrival aMsg, .amsgReply aMsg w0, .filterRefusalRetry req, .faultNotice who n0, .packetArrival n0 packet,
      .arrivalReport packet n0 arrRep, .reservationGrant packet n0, .reservationRetry packet n0,
      .packetResendTimeout packet n0, .lateReplyForward n0 req reply, .combinedArrival combMsg,
      .combinerReply combMsg combRep, .trapReportAfterIssue who org trapInfo, .commitRequest who n0,
      .growRequest who org n0 w0 regDst, .launchSubmit who org n0 n1 launchRec, .durableReport cutUnit n0,
      .stealRequest, .prgResponse n0 prgResp, .hostWrite n0 w0 listByte, .hostRead n0 w0 n1,
      .attestationRequest n0 listByte] : List Instr), ∃ t, exec i s = .next t) ∧
  (∀ s : State, ∀ i ∈ ([
      .fixedLatencyWrite, .hsiftComplete, .vectorUnitFree, .matrixStep, .matrixOpFinish, .scaleReadComplete, .tselFinish,
      .loadPathFinish, .heldRequestTimeout, .portStreamSend, .portStreamWrite, .portStreamStop, .portEndpointClosed,
      .channelWatchdog, .amsgHandlerStart, .requestResendTimeout, .replyConfirm, .pageWalkComplete, .wakeNotice,
      .pageRequestGroup, .faultRecordReoffer, .copyGranule, .departure, .reservationWatchdog, .threadPlacement,
      .forwardingExpiry, .thermalDisplacement, .thermslotUpdate, .powerSample, .queueTimerTick, .mwaitDeadline,
      .combinerReread, .snagScan, .slotWatchdog, .heldTrapRecordRelease, .undoOverflow, .workQueueTake, .hostRingPoll,
      .dependenceDecrement, .taskPlacement, .dispatchRequest, .stealRetry, .childEnd, .taskFinish, .taskDiscard, .cutRequest,
      .sealTimer, .cutMessage, .coreCut, .sealRecordAck, .sealMarker, .sealedMessage, .uncorrectableError, .rollback,
      .linkFailure, .portTraining, .save, .restore, .resume, .endThread, .segsync, .tlbsync, .remove, .domsync, .prienable,
      .wqcfgWrite, .cassignWrite, .sealctlWrite, .undocfgWrite, .registerWrite, .deviceReset, .healthUpdate, .codeMissFetch,
      .placementTableWrite, .portCoreCodePlacement, .tilePayloadComplete, .hbmRefresh] : List Instr), ∃ t, exec i s = .next t) ∧
  ∀ s : State, s.cur.isSome = true → ∃ t, exec .illegalEncodingIssue s = .next t
end

