-- ==== Sys2Proof/Laws/State.lean ====
section
/-! SUPPORT. The state record under its updates: one lemma per field and update, true by unfolding, so that no proof opens a
record update; and what a core or a thread reads as after an update. -/

namespace Sys2Proof.Machine

@[simp] theorem State.setCore_cycle (s : State) (c : Nat) (k : Core) : (s.setCore c k).cycle = s.cycle := rfl
@[simp] theorem State.setCore_agenda (s : State) (c : Nat) (k : Core) : (s.setCore c k).agenda = s.agenda := rfl
@[simp] theorem State.setCore_todo (s : State) (c : Nat) (k : Core) : (s.setCore c k).todo = s.todo := rfl
@[simp] theorem State.setCore_net (s : State) (c : Nat) (k : Core) : (s.setCore c k).net = s.net := rfl
@[simp] theorem State.setCore_draws (s : State) (c : Nat) (k : Core) : (s.setCore c k).draws = s.draws := rfl
@[simp] theorem State.setCore_ctx (s : State) (c : Nat) (k : Core) : (s.setCore c k).ctx = s.ctx := rfl
@[simp] theorem State.setCore_subj (s : State) (c : Nat) (k : Core) : (s.setCore c k).subj = s.subj := rfl
@[simp] theorem State.setCore_ports (s : State) (c : Nat) (k : Core) : (s.setCore c k).ports = s.ports := rfl
@[simp] theorem State.setCore_spad (s : State) (c : Nat) (k : Core) : (s.setCore c k).spad = s.spad := rfl
@[simp] theorem State.setCore_spadTag (s : State) (c : Nat) (k : Core) : (s.setCore c k).spadTag = s.spadTag := rfl
@[simp] theorem State.setCore_hbm (s : State) (c : Nat) (k : Core) : (s.setCore c k).hbm = s.hbm := rfl
@[simp] theorem State.setCore_hbmTag (s : State) (c : Nat) (k : Core) : (s.setCore c k).hbmTag = s.hbmTag := rfl
@[simp] theorem State.setCore_host (s : State) (c : Nat) (k : Core) : (s.setCore c k).host = s.host := rfl
@[simp] theorem State.setCore_istore (s : State) (c : Nat) (k : Core) : (s.setCore c k).istore = s.istore := rfl
@[simp] theorem State.setCore_marks (s : State) (c : Nat) (k : Core) : (s.setCore c k).marks = s.marks := rfl
@[simp] theorem State.setCore_devIdx (s : State) (c : Nat) (k : Core) : (s.setCore c k).devIdx = s.devIdx := rfl
@[simp] theorem State.setCore_domTable (s : State) (c : Nat) (k : Core) : (s.setCore c k).domTable = s.domTable := rfl
@[simp] theorem State.setCore_domains (s : State) (c : Nat) (k : Core) : (s.setCore c k).domains = s.domains := rfl
@[simp] theorem State.setCore_wqs (s : State) (c : Nat) (k : Core) : (s.setCore c k).wqs = s.wqs := rfl
@[simp] theorem State.setCore_tasks (s : State) (c : Nat) (k : Core) : (s.setCore c k).tasks = s.tasks := rfl
@[simp] theorem State.setCore_deps (s : State) (c : Nat) (k : Core) : (s.setCore c k).deps = s.deps := rfl
@[simp] theorem State.setCore_ages (s : State) (c : Nat) (k : Core) : (s.setCore c k).ages = s.ages := rfl
@[simp] theorem State.setCore_requests (s : State) (c : Nat) (k : Core) : (s.setCore c k).requests = s.requests := rfl
@[simp] theorem State.setCore_sysarg (s : State) (c : Nat) (k : Core) : (s.setCore c k).sysarg = s.sysarg := rfl
@[simp] theorem State.setCore_sysq (s : State) (c : Nat) (k : Core) : (s.setCore c k).sysq = s.sysq := rfl
@[simp] theorem State.setCore_sysstat (s : State) (c : Nat) (k : Core) : (s.setCore c k).sysstat = s.sysstat := rfl
@[simp] theorem State.setCore_sealctl (s : State) (c : Nat) (k : Core) : (s.setCore c k).sealctl = s.sealctl := rfl
@[simp] theorem State.setCore_undocfg (s : State) (c : Nat) (k : Core) : (s.setCore c k).undocfg = s.undocfg := rfl
@[simp] theorem State.setCore_members (s : State) (c : Nat) (k : Core) : (s.setCore c k).members = s.members := rfl
@[simp] theorem State.setCore_cutNo (s : State) (c : Nat) (k : Core) : (s.setCore c k).cutNo = s.cutNo := rfl
@[simp] theorem State.setCore_sealedNo (s : State) (c : Nat) (k : Core) : (s.setCore c k).sealedNo = s.sealedNo := rfl
@[simp] theorem State.setCore_seals (s : State) (c : Nat) (k : Core) : (s.setCore c k).seals = s.seals := rfl
@[simp] theorem State.setCore_undo (s : State) (c : Nat) (k : Core) : (s.setCore c k).undo = s.undo := rfl
@[simp] theorem State.setCore_logs (s : State) (c : Nat) (k : Core) : (s.setCore c k).logs = s.logs := rfl
@[simp] theorem State.setCore_ewb (s : State) (c : Nat) (k : Core) : (s.setCore c k).ewb = s.ewb := rfl
@[simp] theorem State.setCore_halted (s : State) (c : Nat) (k : Core) : (s.setCore c k).halted = s.halted := rfl
@[simp] theorem State.setCore_msix (s : State) (c : Nat) (k : Core) : (s.setCore c k).msix = s.msix := rfl
@[simp] theorem State.setCore_pri (s : State) (c : Nat) (k : Core) : (s.setCore c k).pri = s.pri := rfl
@[simp] theorem State.setCore_portUp (s : State) (c : Nat) (k : Core) : (s.setCore c k).portUp = s.portUp := rfl
@[simp] theorem State.setCore_bootstat (s : State) (c : Nat) (k : Core) : (s.setCore c k).bootstat = s.bootstat := rfl
@[simp] theorem State.setCore_mgmt (s : State) (c : Nat) (k : Core) : (s.setCore c k).mgmt = s.mgmt := rfl
@[simp] theorem State.setCore_pwrlim (s : State) (c : Nat) (k : Core) : (s.setCore c k).pwrlim = s.pwrlim := rfl
@[simp] theorem State.setCore_cutWait (s : State) (c : Nat) (k : Core) : (s.setCore c k).cutWait = s.cutWait := rfl
@[simp] theorem State.setCore_cutStart (s : State) (c : Nat) (k : Core) : (s.setCore c k).cutStart = s.cutStart := rfl
@[simp] theorem State.setCore_saving (s : State) (c : Nat) (k : Core) : (s.setCore c k).saving = s.saving := rfl
@[simp] theorem State.setCore_cutPending (s : State) (c : Nat) (k : Core) : (s.setCore c k).cutPending = s.cutPending := rfl
@[simp] theorem State.setCore_markers (s : State) (c : Nat) (k : Core) : (s.setCore c k).markers = s.markers := rfl
@[simp] theorem State.setCore_ewbHeld (s : State) (c : Nat) (k : Core) : (s.setCore c k).ewbHeld = s.ewbHeld := rfl
@[simp] theorem State.setCore_ewbLate (s : State) (c : Nat) (k : Core) : (s.setCore c k).ewbLate = s.ewbLate := rfl
@[simp] theorem State.setCore_hostWait (s : State) (c : Nat) (k : Core) : (s.setCore c k).hostWait = s.hostWait := rfl
@[simp] theorem State.setCore_hostFilter (s : State) (c : Nat) (k : Core) : (s.setCore c k).hostFilter = s.hostFilter := rfl
@[simp] theorem State.setCore_filterWait (s : State) (c : Nat) (k : Core) : (s.setCore c k).filterWait = s.filterWait := rfl
@[simp] theorem State.setCore_hostReads (s : State) (c : Nat) (k : Core) : (s.setCore c k).hostReads = s.hostReads := rfl
@[simp] theorem State.setCore_priGroups (s : State) (c : Nat) (k : Core) : (s.setCore c k).priGroups = s.priGroups := rfl
@[simp] theorem State.setCore_priOff (s : State) (c : Nat) (k : Core) : (s.setCore c k).priOff = s.priOff := rfl
@[simp] theorem State.setCore_priAlloc (s : State) (c : Nat) (k : Core) : (s.setCore c k).priAlloc = s.priAlloc := rfl
@[simp] theorem State.setCore_linkSlots (s : State) (c : Nat) (k : Core) : (s.setCore c k).linkSlots = s.linkSlots := rfl
@[simp] theorem State.setCore_boots (s : State) (c : Nat) (k : Core) : (s.setCore c k).boots = s.boots := rfl
@[simp] theorem State.setCore_mailbox (s : State) (c : Nat) (k : Core) : (s.setCore c k).mailbox = s.mailbox := rfl
@[simp] theorem State.setCore_reports (s : State) (c : Nat) (k : Core) : (s.setCore c k).reports = s.reports := rfl
@[simp] theorem State.setCore_eol (s : State) (c : Nat) (k : Core) : (s.setCore c k).eol = s.eol := rfl
@[simp] theorem State.setCore_throttled (s : State) (c : Nat) (k : Core) : (s.setCore c k).throttled = s.throttled := rfl
@[simp] theorem State.setCore_snagPrev (s : State) (c : Nat) (k : Core) : (s.setCore c k).snagPrev = s.snagPrev := rfl

@[simp] theorem State.modCore_cycle (s : State) (c : Nat) (f : Core → Core) : (s.modCore c f).cycle = s.cycle := rfl
@[simp] theorem State.modCore_agenda (s : State) (c : Nat) (f : Core → Core) : (s.modCore c f).agenda = s.agenda := rfl
@[simp] theorem State.modCore_todo (s : State) (c : Nat) (f : Core → Core) : (s.modCore c f).todo = s.todo := rfl
@[simp] theorem State.modCore_net (s : State) (c : Nat) (f : Core → Core) : (s.modCore c f).net = s.net := rfl
@[simp] theorem State.modCore_draws (s : State) (c : Nat) (f : Core → Core) : (s.modCore c f).draws = s.draws := rfl
@[simp] theorem State.modCore_ctx (s : State) (c : Nat) (f : Core → Core) : (s.modCore c f).ctx = s.ctx := rfl
@[simp] theorem State.modCore_subj (s : State) (c : Nat) (f : Core → Core) : (s.modCore c f).subj = s.subj := rfl
@[simp] theorem State.modCore_ports (s : State) (c : Nat) (f : Core → Core) : (s.modCore c f).ports = s.ports := rfl
@[simp] theorem State.modCore_spad (s : State) (c : Nat) (f : Core → Core) : (s.modCore c f).spad = s.spad := rfl
@[simp] theorem State.modCore_spadTag (s : State) (c : Nat) (f : Core → Core) : (s.modCore c f).spadTag = s.spadTag := rfl
@[simp] theorem State.modCore_hbm (s : State) (c : Nat) (f : Core → Core) : (s.modCore c f).hbm = s.hbm := rfl
@[simp] theorem State.modCore_hbmTag (s : State) (c : Nat) (f : Core → Core) : (s.modCore c f).hbmTag = s.hbmTag := rfl
@[simp] theorem State.modCore_host (s : State) (c : Nat) (f : Core → Core) : (s.modCore c f).host = s.host := rfl
@[simp] theorem State.modCore_istore (s : State) (c : Nat) (f : Core → Core) : (s.modCore c f).istore = s.istore := rfl
@[simp] theorem State.modCore_marks (s : State) (c : Nat) (f : Core → Core) : (s.modCore c f).marks = s.marks := rfl
@[simp] theorem State.modCore_devIdx (s : State) (c : Nat) (f : Core → Core) : (s.modCore c f).devIdx = s.devIdx := rfl
@[simp] theorem State.modCore_domTable (s : State) (c : Nat) (f : Core → Core) : (s.modCore c f).domTable = s.domTable := rfl
@[simp] theorem State.modCore_domains (s : State) (c : Nat) (f : Core → Core) : (s.modCore c f).domains = s.domains := rfl
@[simp] theorem State.modCore_wqs (s : State) (c : Nat) (f : Core → Core) : (s.modCore c f).wqs = s.wqs := rfl
@[simp] theorem State.modCore_tasks (s : State) (c : Nat) (f : Core → Core) : (s.modCore c f).tasks = s.tasks := rfl
@[simp] theorem State.modCore_deps (s : State) (c : Nat) (f : Core → Core) : (s.modCore c f).deps = s.deps := rfl
@[simp] theorem State.modCore_ages (s : State) (c : Nat) (f : Core → Core) : (s.modCore c f).ages = s.ages := rfl
@[simp] theorem State.modCore_requests (s : State) (c : Nat) (f : Core → Core) : (s.modCore c f).requests = s.requests := rfl
@[simp] theorem State.modCore_sysarg (s : State) (c : Nat) (f : Core → Core) : (s.modCore c f).sysarg = s.sysarg := rfl
@[simp] theorem State.modCore_sysq (s : State) (c : Nat) (f : Core → Core) : (s.modCore c f).sysq = s.sysq := rfl
@[simp] theorem State.modCore_sysstat (s : State) (c : Nat) (f : Core → Core) : (s.modCore c f).sysstat = s.sysstat := rfl
@[simp] theorem State.modCore_sealctl (s : State) (c : Nat) (f : Core → Core) : (s.modCore c f).sealctl = s.sealctl := rfl
@[simp] theorem State.modCore_undocfg (s : State) (c : Nat) (f : Core → Core) : (s.modCore c f).undocfg = s.undocfg := rfl
@[simp] theorem State.modCore_members (s : State) (c : Nat) (f : Core → Core) : (s.modCore c f).members = s.members := rfl
@[simp] theorem State.modCore_cutNo (s : State) (c : Nat) (f : Core → Core) : (s.modCore c f).cutNo = s.cutNo := rfl
@[simp] theorem State.modCore_sealedNo (s : State) (c : Nat) (f : Core → Core) : (s.modCore c f).sealedNo = s.sealedNo := rfl
@[simp] theorem State.modCore_seals (s : State) (c : Nat) (f : Core → Core) : (s.modCore c f).seals = s.seals := rfl
@[simp] theorem State.modCore_undo (s : State) (c : Nat) (f : Core → Core) : (s.modCore c f).undo = s.undo := rfl
@[simp] theorem State.modCore_logs (s : State) (c : Nat) (f : Core → Core) : (s.modCore c f).logs = s.logs := rfl
@[simp] theorem State.modCore_ewb (s : State) (c : Nat) (f : Core → Core) : (s.modCore c f).ewb = s.ewb := rfl
@[simp] theorem State.modCore_halted (s : State) (c : Nat) (f : Core → Core) : (s.modCore c f).halted = s.halted := rfl
@[simp] theorem State.modCore_msix (s : State) (c : Nat) (f : Core → Core) : (s.modCore c f).msix = s.msix := rfl
@[simp] theorem State.modCore_pri (s : State) (c : Nat) (f : Core → Core) : (s.modCore c f).pri = s.pri := rfl
@[simp] theorem State.modCore_portUp (s : State) (c : Nat) (f : Core → Core) : (s.modCore c f).portUp = s.portUp := rfl
@[simp] theorem State.modCore_bootstat (s : State) (c : Nat) (f : Core → Core) : (s.modCore c f).bootstat = s.bootstat := rfl
@[simp] theorem State.modCore_mgmt (s : State) (c : Nat) (f : Core → Core) : (s.modCore c f).mgmt = s.mgmt := rfl
@[simp] theorem State.modCore_pwrlim (s : State) (c : Nat) (f : Core → Core) : (s.modCore c f).pwrlim = s.pwrlim := rfl
@[simp] theorem State.modCore_cutWait (s : State) (c : Nat) (f : Core → Core) : (s.modCore c f).cutWait = s.cutWait := rfl
@[simp] theorem State.modCore_cutStart (s : State) (c : Nat) (f : Core → Core) : (s.modCore c f).cutStart = s.cutStart := rfl
@[simp] theorem State.modCore_saving (s : State) (c : Nat) (f : Core → Core) : (s.modCore c f).saving = s.saving := rfl
@[simp] theorem State.modCore_cutPending (s : State) (c : Nat) (f : Core → Core) : (s.modCore c f).cutPending = s.cutPending := rfl
@[simp] theorem State.modCore_markers (s : State) (c : Nat) (f : Core → Core) : (s.modCore c f).markers = s.markers := rfl
@[simp] theorem State.modCore_ewbHeld (s : State) (c : Nat) (f : Core → Core) : (s.modCore c f).ewbHeld = s.ewbHeld := rfl
@[simp] theorem State.modCore_ewbLate (s : State) (c : Nat) (f : Core → Core) : (s.modCore c f).ewbLate = s.ewbLate := rfl
@[simp] theorem State.modCore_hostWait (s : State) (c : Nat) (f : Core → Core) : (s.modCore c f).hostWait = s.hostWait := rfl
@[simp] theorem State.modCore_hostFilter (s : State) (c : Nat) (f : Core → Core) : (s.modCore c f).hostFilter = s.hostFilter := rfl
@[simp] theorem State.modCore_filterWait (s : State) (c : Nat) (f : Core → Core) : (s.modCore c f).filterWait = s.filterWait := rfl
@[simp] theorem State.modCore_hostReads (s : State) (c : Nat) (f : Core → Core) : (s.modCore c f).hostReads = s.hostReads := rfl
@[simp] theorem State.modCore_priGroups (s : State) (c : Nat) (f : Core → Core) : (s.modCore c f).priGroups = s.priGroups := rfl
@[simp] theorem State.modCore_priOff (s : State) (c : Nat) (f : Core → Core) : (s.modCore c f).priOff = s.priOff := rfl
@[simp] theorem State.modCore_priAlloc (s : State) (c : Nat) (f : Core → Core) : (s.modCore c f).priAlloc = s.priAlloc := rfl
@[simp] theorem State.modCore_linkSlots (s : State) (c : Nat) (f : Core → Core) : (s.modCore c f).linkSlots = s.linkSlots := rfl
@[simp] theorem State.modCore_boots (s : State) (c : Nat) (f : Core → Core) : (s.modCore c f).boots = s.boots := rfl
@[simp] theorem State.modCore_mailbox (s : State) (c : Nat) (f : Core → Core) : (s.modCore c f).mailbox = s.mailbox := rfl
@[simp] theorem State.modCore_reports (s : State) (c : Nat) (f : Core → Core) : (s.modCore c f).reports = s.reports := rfl
@[simp] theorem State.modCore_eol (s : State) (c : Nat) (f : Core → Core) : (s.modCore c f).eol = s.eol := rfl
@[simp] theorem State.modCore_throttled (s : State) (c : Nat) (f : Core → Core) : (s.modCore c f).throttled = s.throttled := rfl
@[simp] theorem State.modCore_snagPrev (s : State) (c : Nat) (f : Core → Core) : (s.modCore c f).snagPrev = s.snagPrev := rfl

@[simp] theorem State.setThread_cycle (s : State) (c sl : Nat) (th : Thread) : (s.setThread c sl th).cycle = s.cycle := rfl
@[simp] theorem State.setThread_agenda (s : State) (c sl : Nat) (th : Thread) : (s.setThread c sl th).agenda = s.agenda := rfl
@[simp] theorem State.setThread_todo (s : State) (c sl : Nat) (th : Thread) : (s.setThread c sl th).todo = s.todo := rfl
@[simp] theorem State.setThread_net (s : State) (c sl : Nat) (th : Thread) : (s.setThread c sl th).net = s.net := rfl
@[simp] theorem State.setThread_draws (s : State) (c sl : Nat) (th : Thread) : (s.setThread c sl th).draws = s.draws := rfl
@[simp] theorem State.setThread_ctx (s : State) (c sl : Nat) (th : Thread) : (s.setThread c sl th).ctx = s.ctx := rfl
@[simp] theorem State.setThread_subj (s : State) (c sl : Nat) (th : Thread) : (s.setThread c sl th).subj = s.subj := rfl
@[simp] theorem State.setThread_ports (s : State) (c sl : Nat) (th : Thread) : (s.setThread c sl th).ports = s.ports := rfl
@[simp] theorem State.setThread_spad (s : State) (c sl : Nat) (th : Thread) : (s.setThread c sl th).spad = s.spad := rfl
@[simp] theorem State.setThread_spadTag (s : State) (c sl : Nat) (th : Thread) : (s.setThread c sl th).spadTag = s.spadTag := rfl
@[simp] theorem State.setThread_hbm (s : State) (c sl : Nat) (th : Thread) : (s.setThread c sl th).hbm = s.hbm := rfl
@[simp] theorem State.setThread_hbmTag (s : State) (c sl : Nat) (th : Thread) : (s.setThread c sl th).hbmTag = s.hbmTag := rfl
@[simp] theorem State.setThread_host (s : State) (c sl : Nat) (th : Thread) : (s.setThread c sl th).host = s.host := rfl
@[simp] theorem State.setThread_istore (s : State) (c sl : Nat) (th : Thread) : (s.setThread c sl th).istore = s.istore := rfl
@[simp] theorem State.setThread_marks (s : State) (c sl : Nat) (th : Thread) : (s.setThread c sl th).marks = s.marks := rfl
@[simp] theorem State.setThread_devIdx (s : State) (c sl : Nat) (th : Thread) : (s.setThread c sl th).devIdx = s.devIdx := rfl
@[simp] theorem State.setThread_domTable (s : State) (c sl : Nat) (th : Thread) : (s.setThread c sl th).domTable = s.domTable := rfl
@[simp] theorem State.setThread_domains (s : State) (c sl : Nat) (th : Thread) : (s.setThread c sl th).domains = s.domains := rfl
@[simp] theorem State.setThread_wqs (s : State) (c sl : Nat) (th : Thread) : (s.setThread c sl th).wqs = s.wqs := rfl
@[simp] theorem State.setThread_tasks (s : State) (c sl : Nat) (th : Thread) : (s.setThread c sl th).tasks = s.tasks := rfl
@[simp] theorem State.setThread_deps (s : State) (c sl : Nat) (th : Thread) : (s.setThread c sl th).deps = s.deps := rfl
@[simp] theorem State.setThread_ages (s : State) (c sl : Nat) (th : Thread) : (s.setThread c sl th).ages = s.ages := rfl
@[simp] theorem State.setThread_requests (s : State) (c sl : Nat) (th : Thread) : (s.setThread c sl th).requests = s.requests := rfl
@[simp] theorem State.setThread_sysarg (s : State) (c sl : Nat) (th : Thread) : (s.setThread c sl th).sysarg = s.sysarg := rfl
@[simp] theorem State.setThread_sysq (s : State) (c sl : Nat) (th : Thread) : (s.setThread c sl th).sysq = s.sysq := rfl
@[simp] theorem State.setThread_sysstat (s : State) (c sl : Nat) (th : Thread) : (s.setThread c sl th).sysstat = s.sysstat := rfl
@[simp] theorem State.setThread_sealctl (s : State) (c sl : Nat) (th : Thread) : (s.setThread c sl th).sealctl = s.sealctl := rfl
@[simp] theorem State.setThread_undocfg (s : State) (c sl : Nat) (th : Thread) : (s.setThread c sl th).undocfg = s.undocfg := rfl
@[simp] theorem State.setThread_members (s : State) (c sl : Nat) (th : Thread) : (s.setThread c sl th).members = s.members := rfl
@[simp] theorem State.setThread_cutNo (s : State) (c sl : Nat) (th : Thread) : (s.setThread c sl th).cutNo = s.cutNo := rfl
@[simp] theorem State.setThread_sealedNo (s : State) (c sl : Nat) (th : Thread) : (s.setThread c sl th).sealedNo = s.sealedNo := rfl
@[simp] theorem State.setThread_seals (s : State) (c sl : Nat) (th : Thread) : (s.setThread c sl th).seals = s.seals := rfl
@[simp] theorem State.setThread_undo (s : State) (c sl : Nat) (th : Thread) : (s.setThread c sl th).undo = s.undo := rfl
@[simp] theorem State.setThread_logs (s : State) (c sl : Nat) (th : Thread) : (s.setThread c sl th).logs = s.logs := rfl
@[simp] theorem State.setThread_ewb (s : State) (c sl : Nat) (th : Thread) : (s.setThread c sl th).ewb = s.ewb := rfl
@[simp] theorem State.setThread_halted (s : State) (c sl : Nat) (th : Thread) : (s.setThread c sl th).halted = s.halted := rfl
@[simp] theorem State.setThread_msix (s : State) (c sl : Nat) (th : Thread) : (s.setThread c sl th).msix = s.msix := rfl
@[simp] theorem State.setThread_pri (s : State) (c sl : Nat) (th : Thread) : (s.setThread c sl th).pri = s.pri := rfl
@[simp] theorem State.setThread_portUp (s : State) (c sl : Nat) (th : Thread) : (s.setThread c sl th).portUp = s.portUp := rfl
@[simp] theorem State.setThread_bootstat (s : State) (c sl : Nat) (th : Thread) : (s.setThread c sl th).bootstat = s.bootstat := rfl
@[simp] theorem State.setThread_mgmt (s : State) (c sl : Nat) (th : Thread) : (s.setThread c sl th).mgmt = s.mgmt := rfl
@[simp] theorem State.setThread_pwrlim (s : State) (c sl : Nat) (th : Thread) : (s.setThread c sl th).pwrlim = s.pwrlim := rfl
@[simp] theorem State.setThread_cutWait (s : State) (c sl : Nat) (th : Thread) : (s.setThread c sl th).cutWait = s.cutWait := rfl
@[simp] theorem State.setThread_cutStart (s : State) (c sl : Nat) (th : Thread) : (s.setThread c sl th).cutStart = s.cutStart := rfl
@[simp] theorem State.setThread_saving (s : State) (c sl : Nat) (th : Thread) : (s.setThread c sl th).saving = s.saving := rfl
@[simp] theorem State.setThread_cutPending (s : State) (c sl : Nat) (th : Thread) : (s.setThread c sl th).cutPending = s.cutPending := rfl
@[simp] theorem State.setThread_markers (s : State) (c sl : Nat) (th : Thread) : (s.setThread c sl th).markers = s.markers := rfl
@[simp] theorem State.setThread_ewbHeld (s : State) (c sl : Nat) (th : Thread) : (s.setThread c sl th).ewbHeld = s.ewbHeld := rfl
@[simp] theorem State.setThread_ewbLate (s : State) (c sl : Nat) (th : Thread) : (s.setThread c sl th).ewbLate = s.ewbLate := rfl
@[simp] theorem State.setThread_hostWait (s : State) (c sl : Nat) (th : Thread) : (s.setThread c sl th).hostWait = s.hostWait := rfl
@[simp] theorem State.setThread_hostFilter (s : State) (c sl : Nat) (th : Thread) : (s.setThread c sl th).hostFilter = s.hostFilter := rfl
@[simp] theorem State.setThread_filterWait (s : State) (c sl : Nat) (th : Thread) : (s.setThread c sl th).filterWait = s.filterWait := rfl
@[simp] theorem State.setThread_hostReads (s : State) (c sl : Nat) (th : Thread) : (s.setThread c sl th).hostReads = s.hostReads := rfl
@[simp] theorem State.setThread_priGroups (s : State) (c sl : Nat) (th : Thread) : (s.setThread c sl th).priGroups = s.priGroups := rfl
@[simp] theorem State.setThread_priOff (s : State) (c sl : Nat) (th : Thread) : (s.setThread c sl th).priOff = s.priOff := rfl
@[simp] theorem State.setThread_priAlloc (s : State) (c sl : Nat) (th : Thread) : (s.setThread c sl th).priAlloc = s.priAlloc := rfl
@[simp] theorem State.setThread_linkSlots (s : State) (c sl : Nat) (th : Thread) : (s.setThread c sl th).linkSlots = s.linkSlots := rfl
@[simp] theorem State.setThread_boots (s : State) (c sl : Nat) (th : Thread) : (s.setThread c sl th).boots = s.boots := rfl
@[simp] theorem State.setThread_mailbox (s : State) (c sl : Nat) (th : Thread) : (s.setThread c sl th).mailbox = s.mailbox := rfl
@[simp] theorem State.setThread_reports (s : State) (c sl : Nat) (th : Thread) : (s.setThread c sl th).reports = s.reports := rfl
@[simp] theorem State.setThread_eol (s : State) (c sl : Nat) (th : Thread) : (s.setThread c sl th).eol = s.eol := rfl
@[simp] theorem State.setThread_throttled (s : State) (c sl : Nat) (th : Thread) : (s.setThread c sl th).throttled = s.throttled := rfl
@[simp] theorem State.setThread_snagPrev (s : State) (c sl : Nat) (th : Thread) : (s.setThread c sl th).snagPrev = s.snagPrev := rfl

@[simp] theorem State.modThread_cycle (s : State) (c sl : Nat) (f : Thread → Thread) : (s.modThread c sl f).cycle = s.cycle := rfl
@[simp] theorem State.modThread_agenda (s : State) (c sl : Nat) (f : Thread → Thread) : (s.modThread c sl f).agenda = s.agenda := rfl
@[simp] theorem State.modThread_todo (s : State) (c sl : Nat) (f : Thread → Thread) : (s.modThread c sl f).todo = s.todo := rfl
@[simp] theorem State.modThread_net (s : State) (c sl : Nat) (f : Thread → Thread) : (s.modThread c sl f).net = s.net := rfl
@[simp] theorem State.modThread_draws (s : State) (c sl : Nat) (f : Thread → Thread) : (s.modThread c sl f).draws = s.draws := rfl
@[simp] theorem State.modThread_ctx (s : State) (c sl : Nat) (f : Thread → Thread) : (s.modThread c sl f).ctx = s.ctx := rfl
@[simp] theorem State.modThread_subj (s : State) (c sl : Nat) (f : Thread → Thread) : (s.modThread c sl f).subj = s.subj := rfl
@[simp] theorem State.modThread_ports (s : State) (c sl : Nat) (f : Thread → Thread) : (s.modThread c sl f).ports = s.ports := rfl
@[simp] theorem State.modThread_spad (s : State) (c sl : Nat) (f : Thread → Thread) : (s.modThread c sl f).spad = s.spad := rfl
@[simp] theorem State.modThread_spadTag (s : State) (c sl : Nat) (f : Thread → Thread) : (s.modThread c sl f).spadTag = s.spadTag := rfl
@[simp] theorem State.modThread_hbm (s : State) (c sl : Nat) (f : Thread → Thread) : (s.modThread c sl f).hbm = s.hbm := rfl
@[simp] theorem State.modThread_hbmTag (s : State) (c sl : Nat) (f : Thread → Thread) : (s.modThread c sl f).hbmTag = s.hbmTag := rfl
@[simp] theorem State.modThread_host (s : State) (c sl : Nat) (f : Thread → Thread) : (s.modThread c sl f).host = s.host := rfl
@[simp] theorem State.modThread_istore (s : State) (c sl : Nat) (f : Thread → Thread) : (s.modThread c sl f).istore = s.istore := rfl
@[simp] theorem State.modThread_marks (s : State) (c sl : Nat) (f : Thread → Thread) : (s.modThread c sl f).marks = s.marks := rfl
@[simp] theorem State.modThread_devIdx (s : State) (c sl : Nat) (f : Thread → Thread) : (s.modThread c sl f).devIdx = s.devIdx := rfl
@[simp] theorem State.modThread_domTable (s : State) (c sl : Nat) (f : Thread → Thread) : (s.modThread c sl f).domTable = s.domTable := rfl
@[simp] theorem State.modThread_domains (s : State) (c sl : Nat) (f : Thread → Thread) : (s.modThread c sl f).domains = s.domains := rfl
@[simp] theorem State.modThread_wqs (s : State) (c sl : Nat) (f : Thread → Thread) : (s.modThread c sl f).wqs = s.wqs := rfl
@[simp] theorem State.modThread_tasks (s : State) (c sl : Nat) (f : Thread → Thread) : (s.modThread c sl f).tasks = s.tasks := rfl
@[simp] theorem State.modThread_deps (s : State) (c sl : Nat) (f : Thread → Thread) : (s.modThread c sl f).deps = s.deps := rfl
@[simp] theorem State.modThread_ages (s : State) (c sl : Nat) (f : Thread → Thread) : (s.modThread c sl f).ages = s.ages := rfl
@[simp] theorem State.modThread_requests (s : State) (c sl : Nat) (f : Thread → Thread) : (s.modThread c sl f).requests = s.requests := rfl
@[simp] theorem State.modThread_sysarg (s : State) (c sl : Nat) (f : Thread → Thread) : (s.modThread c sl f).sysarg = s.sysarg := rfl
@[simp] theorem State.modThread_sysq (s : State) (c sl : Nat) (f : Thread → Thread) : (s.modThread c sl f).sysq = s.sysq := rfl
@[simp] theorem State.modThread_sysstat (s : State) (c sl : Nat) (f : Thread → Thread) : (s.modThread c sl f).sysstat = s.sysstat := rfl
@[simp] theorem State.modThread_sealctl (s : State) (c sl : Nat) (f : Thread → Thread) : (s.modThread c sl f).sealctl = s.sealctl := rfl
@[simp] theorem State.modThread_undocfg (s : State) (c sl : Nat) (f : Thread → Thread) : (s.modThread c sl f).undocfg = s.undocfg := rfl
@[simp] theorem State.modThread_members (s : State) (c sl : Nat) (f : Thread → Thread) : (s.modThread c sl f).members = s.members := rfl
@[simp] theorem State.modThread_cutNo (s : State) (c sl : Nat) (f : Thread → Thread) : (s.modThread c sl f).cutNo = s.cutNo := rfl
@[simp] theorem State.modThread_sealedNo (s : State) (c sl : Nat) (f : Thread → Thread) : (s.modThread c sl f).sealedNo = s.sealedNo := rfl
@[simp] theorem State.modThread_seals (s : State) (c sl : Nat) (f : Thread → Thread) : (s.modThread c sl f).seals = s.seals := rfl
@[simp] theorem State.modThread_undo (s : State) (c sl : Nat) (f : Thread → Thread) : (s.modThread c sl f).undo = s.undo := rfl
@[simp] theorem State.modThread_logs (s : State) (c sl : Nat) (f : Thread → Thread) : (s.modThread c sl f).logs = s.logs := rfl
@[simp] theorem State.modThread_ewb (s : State) (c sl : Nat) (f : Thread → Thread) : (s.modThread c sl f).ewb = s.ewb := rfl
@[simp] theorem State.modThread_halted (s : State) (c sl : Nat) (f : Thread → Thread) : (s.modThread c sl f).halted = s.halted := rfl
@[simp] theorem State.modThread_msix (s : State) (c sl : Nat) (f : Thread → Thread) : (s.modThread c sl f).msix = s.msix := rfl
@[simp] theorem State.modThread_pri (s : State) (c sl : Nat) (f : Thread → Thread) : (s.modThread c sl f).pri = s.pri := rfl
@[simp] theorem State.modThread_portUp (s : State) (c sl : Nat) (f : Thread → Thread) : (s.modThread c sl f).portUp = s.portUp := rfl
@[simp] theorem State.modThread_bootstat (s : State) (c sl : Nat) (f : Thread → Thread) : (s.modThread c sl f).bootstat = s.bootstat := rfl
@[simp] theorem State.modThread_mgmt (s : State) (c sl : Nat) (f : Thread → Thread) : (s.modThread c sl f).mgmt = s.mgmt := rfl
@[simp] theorem State.modThread_pwrlim (s : State) (c sl : Nat) (f : Thread → Thread) : (s.modThread c sl f).pwrlim = s.pwrlim := rfl
@[simp] theorem State.modThread_cutWait (s : State) (c sl : Nat) (f : Thread → Thread) : (s.modThread c sl f).cutWait = s.cutWait := rfl
@[simp] theorem State.modThread_cutStart (s : State) (c sl : Nat) (f : Thread → Thread) : (s.modThread c sl f).cutStart = s.cutStart := rfl
@[simp] theorem State.modThread_saving (s : State) (c sl : Nat) (f : Thread → Thread) : (s.modThread c sl f).saving = s.saving := rfl
@[simp] theorem State.modThread_cutPending (s : State) (c sl : Nat) (f : Thread → Thread) : (s.modThread c sl f).cutPending = s.cutPending := rfl
@[simp] theorem State.modThread_markers (s : State) (c sl : Nat) (f : Thread → Thread) : (s.modThread c sl f).markers = s.markers := rfl
@[simp] theorem State.modThread_ewbHeld (s : State) (c sl : Nat) (f : Thread → Thread) : (s.modThread c sl f).ewbHeld = s.ewbHeld := rfl
@[simp] theorem State.modThread_ewbLate (s : State) (c sl : Nat) (f : Thread → Thread) : (s.modThread c sl f).ewbLate = s.ewbLate := rfl
@[simp] theorem State.modThread_hostWait (s : State) (c sl : Nat) (f : Thread → Thread) : (s.modThread c sl f).hostWait = s.hostWait := rfl
@[simp] theorem State.modThread_hostFilter (s : State) (c sl : Nat) (f : Thread → Thread) : (s.modThread c sl f).hostFilter = s.hostFilter := rfl
@[simp] theorem State.modThread_filterWait (s : State) (c sl : Nat) (f : Thread → Thread) : (s.modThread c sl f).filterWait = s.filterWait := rfl
@[simp] theorem State.modThread_hostReads (s : State) (c sl : Nat) (f : Thread → Thread) : (s.modThread c sl f).hostReads = s.hostReads := rfl
@[simp] theorem State.modThread_priGroups (s : State) (c sl : Nat) (f : Thread → Thread) : (s.modThread c sl f).priGroups = s.priGroups := rfl
@[simp] theorem State.modThread_priOff (s : State) (c sl : Nat) (f : Thread → Thread) : (s.modThread c sl f).priOff = s.priOff := rfl
@[simp] theorem State.modThread_priAlloc (s : State) (c sl : Nat) (f : Thread → Thread) : (s.modThread c sl f).priAlloc = s.priAlloc := rfl
@[simp] theorem State.modThread_linkSlots (s : State) (c sl : Nat) (f : Thread → Thread) : (s.modThread c sl f).linkSlots = s.linkSlots := rfl
@[simp] theorem State.modThread_boots (s : State) (c sl : Nat) (f : Thread → Thread) : (s.modThread c sl f).boots = s.boots := rfl
@[simp] theorem State.modThread_mailbox (s : State) (c sl : Nat) (f : Thread → Thread) : (s.modThread c sl f).mailbox = s.mailbox := rfl
@[simp] theorem State.modThread_reports (s : State) (c sl : Nat) (f : Thread → Thread) : (s.modThread c sl f).reports = s.reports := rfl
@[simp] theorem State.modThread_eol (s : State) (c sl : Nat) (f : Thread → Thread) : (s.modThread c sl f).eol = s.eol := rfl
@[simp] theorem State.modThread_throttled (s : State) (c sl : Nat) (f : Thread → Thread) : (s.modThread c sl f).throttled = s.throttled := rfl
@[simp] theorem State.modThread_snagPrev (s : State) (c sl : Nat) (f : Thread → Thread) : (s.modThread c sl f).snagPrev = s.snagPrev := rfl

@[simp] theorem State.dropThread_cycle (s : State) (c sl : Nat) : (s.dropThread c sl).cycle = s.cycle := rfl
@[simp] theorem State.dropThread_agenda (s : State) (c sl : Nat) : (s.dropThread c sl).agenda = s.agenda := rfl
@[simp] theorem State.dropThread_todo (s : State) (c sl : Nat) : (s.dropThread c sl).todo = s.todo := rfl
@[simp] theorem State.dropThread_net (s : State) (c sl : Nat) : (s.dropThread c sl).net = s.net := rfl
@[simp] theorem State.dropThread_draws (s : State) (c sl : Nat) : (s.dropThread c sl).draws = s.draws := rfl
@[simp] theorem State.dropThread_ctx (s : State) (c sl : Nat) : (s.dropThread c sl).ctx = s.ctx := rfl
@[simp] theorem State.dropThread_subj (s : State) (c sl : Nat) : (s.dropThread c sl).subj = s.subj := rfl
@[simp] theorem State.dropThread_ports (s : State) (c sl : Nat) : (s.dropThread c sl).ports = s.ports := rfl
@[simp] theorem State.dropThread_spad (s : State) (c sl : Nat) : (s.dropThread c sl).spad = s.spad := rfl
@[simp] theorem State.dropThread_spadTag (s : State) (c sl : Nat) : (s.dropThread c sl).spadTag = s.spadTag := rfl
@[simp] theorem State.dropThread_hbm (s : State) (c sl : Nat) : (s.dropThread c sl).hbm = s.hbm := rfl
@[simp] theorem State.dropThread_hbmTag (s : State) (c sl : Nat) : (s.dropThread c sl).hbmTag = s.hbmTag := rfl
@[simp] theorem State.dropThread_host (s : State) (c sl : Nat) : (s.dropThread c sl).host = s.host := rfl
@[simp] theorem State.dropThread_istore (s : State) (c sl : Nat) : (s.dropThread c sl).istore = s.istore := rfl
@[simp] theorem State.dropThread_marks (s : State) (c sl : Nat) : (s.dropThread c sl).marks = s.marks := rfl
@[simp] theorem State.dropThread_devIdx (s : State) (c sl : Nat) : (s.dropThread c sl).devIdx = s.devIdx := rfl
@[simp] theorem State.dropThread_domTable (s : State) (c sl : Nat) : (s.dropThread c sl).domTable = s.domTable := rfl
@[simp] theorem State.dropThread_domains (s : State) (c sl : Nat) : (s.dropThread c sl).domains = s.domains := rfl
@[simp] theorem State.dropThread_wqs (s : State) (c sl : Nat) : (s.dropThread c sl).wqs = s.wqs := rfl
@[simp] theorem State.dropThread_tasks (s : State) (c sl : Nat) : (s.dropThread c sl).tasks = s.tasks := rfl
@[simp] theorem State.dropThread_deps (s : State) (c sl : Nat) : (s.dropThread c sl).deps = s.deps := rfl
@[simp] theorem State.dropThread_ages (s : State) (c sl : Nat) : (s.dropThread c sl).ages = s.ages := rfl
@[simp] theorem State.dropThread_requests (s : State) (c sl : Nat) : (s.dropThread c sl).requests = s.requests := rfl
@[simp] theorem State.dropThread_sysarg (s : State) (c sl : Nat) : (s.dropThread c sl).sysarg = s.sysarg := rfl
@[simp] theorem State.dropThread_sysq (s : State) (c sl : Nat) : (s.dropThread c sl).sysq = s.sysq := rfl
@[simp] theorem State.dropThread_sysstat (s : State) (c sl : Nat) : (s.dropThread c sl).sysstat = s.sysstat := rfl
@[simp] theorem State.dropThread_sealctl (s : State) (c sl : Nat) : (s.dropThread c sl).sealctl = s.sealctl := rfl
@[simp] theorem State.dropThread_undocfg (s : State) (c sl : Nat) : (s.dropThread c sl).undocfg = s.undocfg := rfl
@[simp] theorem State.dropThread_members (s : State) (c sl : Nat) : (s.dropThread c sl).members = s.members := rfl
@[simp] theorem State.dropThread_cutNo (s : State) (c sl : Nat) : (s.dropThread c sl).cutNo = s.cutNo := rfl
@[simp] theorem State.dropThread_sealedNo (s : State) (c sl : Nat) : (s.dropThread c sl).sealedNo = s.sealedNo := rfl
@[simp] theorem State.dropThread_seals (s : State) (c sl : Nat) : (s.dropThread c sl).seals = s.seals := rfl
@[simp] theorem State.dropThread_undo (s : State) (c sl : Nat) : (s.dropThread c sl).undo = s.undo := rfl
@[simp] theorem State.dropThread_logs (s : State) (c sl : Nat) : (s.dropThread c sl).logs = s.logs := rfl
@[simp] theorem State.dropThread_ewb (s : State) (c sl : Nat) : (s.dropThread c sl).ewb = s.ewb := rfl
@[simp] theorem State.dropThread_halted (s : State) (c sl : Nat) : (s.dropThread c sl).halted = s.halted := rfl
@[simp] theorem State.dropThread_msix (s : State) (c sl : Nat) : (s.dropThread c sl).msix = s.msix := rfl
@[simp] theorem State.dropThread_pri (s : State) (c sl : Nat) : (s.dropThread c sl).pri = s.pri := rfl
@[simp] theorem State.dropThread_portUp (s : State) (c sl : Nat) : (s.dropThread c sl).portUp = s.portUp := rfl
@[simp] theorem State.dropThread_bootstat (s : State) (c sl : Nat) : (s.dropThread c sl).bootstat = s.bootstat := rfl
@[simp] theorem State.dropThread_mgmt (s : State) (c sl : Nat) : (s.dropThread c sl).mgmt = s.mgmt := rfl
@[simp] theorem State.dropThread_pwrlim (s : State) (c sl : Nat) : (s.dropThread c sl).pwrlim = s.pwrlim := rfl
@[simp] theorem State.dropThread_cutWait (s : State) (c sl : Nat) : (s.dropThread c sl).cutWait = s.cutWait := rfl
@[simp] theorem State.dropThread_cutStart (s : State) (c sl : Nat) : (s.dropThread c sl).cutStart = s.cutStart := rfl
@[simp] theorem State.dropThread_saving (s : State) (c sl : Nat) : (s.dropThread c sl).saving = s.saving := rfl
@[simp] theorem State.dropThread_cutPending (s : State) (c sl : Nat) : (s.dropThread c sl).cutPending = s.cutPending := rfl
@[simp] theorem State.dropThread_markers (s : State) (c sl : Nat) : (s.dropThread c sl).markers = s.markers := rfl
@[simp] theorem State.dropThread_ewbHeld (s : State) (c sl : Nat) : (s.dropThread c sl).ewbHeld = s.ewbHeld := rfl
@[simp] theorem State.dropThread_ewbLate (s : State) (c sl : Nat) : (s.dropThread c sl).ewbLate = s.ewbLate := rfl
@[simp] theorem State.dropThread_hostWait (s : State) (c sl : Nat) : (s.dropThread c sl).hostWait = s.hostWait := rfl
@[simp] theorem State.dropThread_hostFilter (s : State) (c sl : Nat) : (s.dropThread c sl).hostFilter = s.hostFilter := rfl
@[simp] theorem State.dropThread_filterWait (s : State) (c sl : Nat) : (s.dropThread c sl).filterWait = s.filterWait := rfl
@[simp] theorem State.dropThread_hostReads (s : State) (c sl : Nat) : (s.dropThread c sl).hostReads = s.hostReads := rfl
@[simp] theorem State.dropThread_priGroups (s : State) (c sl : Nat) : (s.dropThread c sl).priGroups = s.priGroups := rfl
@[simp] theorem State.dropThread_priOff (s : State) (c sl : Nat) : (s.dropThread c sl).priOff = s.priOff := rfl
@[simp] theorem State.dropThread_priAlloc (s : State) (c sl : Nat) : (s.dropThread c sl).priAlloc = s.priAlloc := rfl
@[simp] theorem State.dropThread_linkSlots (s : State) (c sl : Nat) : (s.dropThread c sl).linkSlots = s.linkSlots := rfl
@[simp] theorem State.dropThread_boots (s : State) (c sl : Nat) : (s.dropThread c sl).boots = s.boots := rfl
@[simp] theorem State.dropThread_mailbox (s : State) (c sl : Nat) : (s.dropThread c sl).mailbox = s.mailbox := rfl
@[simp] theorem State.dropThread_reports (s : State) (c sl : Nat) : (s.dropThread c sl).reports = s.reports := rfl
@[simp] theorem State.dropThread_eol (s : State) (c sl : Nat) : (s.dropThread c sl).eol = s.eol := rfl
@[simp] theorem State.dropThread_throttled (s : State) (c sl : Nat) : (s.dropThread c sl).throttled = s.throttled := rfl
@[simp] theorem State.dropThread_snagPrev (s : State) (c sl : Nat) : (s.dropThread c sl).snagPrev = s.snagPrev := rfl

@[simp] theorem State.modWho_cycle (s : State) (w : SlotRef) (f : Thread → Thread) : (s.modWho w f).cycle = s.cycle := rfl
@[simp] theorem State.modWho_agenda (s : State) (w : SlotRef) (f : Thread → Thread) : (s.modWho w f).agenda = s.agenda := rfl
@[simp] theorem State.modWho_todo (s : State) (w : SlotRef) (f : Thread → Thread) : (s.modWho w f).todo = s.todo := rfl
@[simp] theorem State.modWho_net (s : State) (w : SlotRef) (f : Thread → Thread) : (s.modWho w f).net = s.net := rfl
@[simp] theorem State.modWho_draws (s : State) (w : SlotRef) (f : Thread → Thread) : (s.modWho w f).draws = s.draws := rfl
@[simp] theorem State.modWho_ctx (s : State) (w : SlotRef) (f : Thread → Thread) : (s.modWho w f).ctx = s.ctx := rfl
@[simp] theorem State.modWho_subj (s : State) (w : SlotRef) (f : Thread → Thread) : (s.modWho w f).subj = s.subj := rfl
@[simp] theorem State.modWho_ports (s : State) (w : SlotRef) (f : Thread → Thread) : (s.modWho w f).ports = s.ports := rfl
@[simp] theorem State.modWho_spad (s : State) (w : SlotRef) (f : Thread → Thread) : (s.modWho w f).spad = s.spad := rfl
@[simp] theorem State.modWho_spadTag (s : State) (w : SlotRef) (f : Thread → Thread) : (s.modWho w f).spadTag = s.spadTag := rfl
@[simp] theorem State.modWho_hbm (s : State) (w : SlotRef) (f : Thread → Thread) : (s.modWho w f).hbm = s.hbm := rfl
@[simp] theorem State.modWho_hbmTag (s : State) (w : SlotRef) (f : Thread → Thread) : (s.modWho w f).hbmTag = s.hbmTag := rfl
@[simp] theorem State.modWho_host (s : State) (w : SlotRef) (f : Thread → Thread) : (s.modWho w f).host = s.host := rfl
@[simp] theorem State.modWho_istore (s : State) (w : SlotRef) (f : Thread → Thread) : (s.modWho w f).istore = s.istore := rfl
@[simp] theorem State.modWho_marks (s : State) (w : SlotRef) (f : Thread → Thread) : (s.modWho w f).marks = s.marks := rfl
@[simp] theorem State.modWho_devIdx (s : State) (w : SlotRef) (f : Thread → Thread) : (s.modWho w f).devIdx = s.devIdx := rfl
@[simp] theorem State.modWho_domTable (s : State) (w : SlotRef) (f : Thread → Thread) : (s.modWho w f).domTable = s.domTable := rfl
@[simp] theorem State.modWho_domains (s : State) (w : SlotRef) (f : Thread → Thread) : (s.modWho w f).domains = s.domains := rfl
@[simp] theorem State.modWho_wqs (s : State) (w : SlotRef) (f : Thread → Thread) : (s.modWho w f).wqs = s.wqs := rfl
@[simp] theorem State.modWho_tasks (s : State) (w : SlotRef) (f : Thread → Thread) : (s.modWho w f).tasks = s.tasks := rfl
@[simp] theorem State.modWho_deps (s : State) (w : SlotRef) (f : Thread → Thread) : (s.modWho w f).deps = s.deps := rfl
@[simp] theorem State.modWho_ages (s : State) (w : SlotRef) (f : Thread → Thread) : (s.modWho w f).ages = s.ages := rfl
@[simp] theorem State.modWho_requests (s : State) (w : SlotRef) (f : Thread → Thread) : (s.modWho w f).requests = s.requests := rfl
@[simp] theorem State.modWho_sysarg (s : State) (w : SlotRef) (f : Thread → Thread) : (s.modWho w f).sysarg = s.sysarg := rfl
@[simp] theorem State.modWho_sysq (s : State) (w : SlotRef) (f : Thread → Thread) : (s.modWho w f).sysq = s.sysq := rfl
@[simp] theorem State.modWho_sysstat (s : State) (w : SlotRef) (f : Thread → Thread) : (s.modWho w f).sysstat = s.sysstat := rfl
@[simp] theorem State.modWho_sealctl (s : State) (w : SlotRef) (f : Thread → Thread) : (s.modWho w f).sealctl = s.sealctl := rfl
@[simp] theorem State.modWho_undocfg (s : State) (w : SlotRef) (f : Thread → Thread) : (s.modWho w f).undocfg = s.undocfg := rfl
@[simp] theorem State.modWho_members (s : State) (w : SlotRef) (f : Thread → Thread) : (s.modWho w f).members = s.members := rfl
@[simp] theorem State.modWho_cutNo (s : State) (w : SlotRef) (f : Thread → Thread) : (s.modWho w f).cutNo = s.cutNo := rfl
@[simp] theorem State.modWho_sealedNo (s : State) (w : SlotRef) (f : Thread → Thread) : (s.modWho w f).sealedNo = s.sealedNo := rfl
@[simp] theorem State.modWho_seals (s : State) (w : SlotRef) (f : Thread → Thread) : (s.modWho w f).seals = s.seals := rfl
@[simp] theorem State.modWho_undo (s : State) (w : SlotRef) (f : Thread → Thread) : (s.modWho w f).undo = s.undo := rfl
@[simp] theorem State.modWho_logs (s : State) (w : SlotRef) (f : Thread → Thread) : (s.modWho w f).logs = s.logs := rfl
@[simp] theorem State.modWho_ewb (s : State) (w : SlotRef) (f : Thread → Thread) : (s.modWho w f).ewb = s.ewb := rfl
@[simp] theorem State.modWho_halted (s : State) (w : SlotRef) (f : Thread → Thread) : (s.modWho w f).halted = s.halted := rfl
@[simp] theorem State.modWho_msix (s : State) (w : SlotRef) (f : Thread → Thread) : (s.modWho w f).msix = s.msix := rfl
@[simp] theorem State.modWho_pri (s : State) (w : SlotRef) (f : Thread → Thread) : (s.modWho w f).pri = s.pri := rfl
@[simp] theorem State.modWho_portUp (s : State) (w : SlotRef) (f : Thread → Thread) : (s.modWho w f).portUp = s.portUp := rfl
@[simp] theorem State.modWho_bootstat (s : State) (w : SlotRef) (f : Thread → Thread) : (s.modWho w f).bootstat = s.bootstat := rfl
@[simp] theorem State.modWho_mgmt (s : State) (w : SlotRef) (f : Thread → Thread) : (s.modWho w f).mgmt = s.mgmt := rfl
@[simp] theorem State.modWho_pwrlim (s : State) (w : SlotRef) (f : Thread → Thread) : (s.modWho w f).pwrlim = s.pwrlim := rfl
@[simp] theorem State.modWho_cutWait (s : State) (w : SlotRef) (f : Thread → Thread) : (s.modWho w f).cutWait = s.cutWait := rfl
@[simp] theorem State.modWho_cutStart (s : State) (w : SlotRef) (f : Thread → Thread) : (s.modWho w f).cutStart = s.cutStart := rfl
@[simp] theorem State.modWho_saving (s : State) (w : SlotRef) (f : Thread → Thread) : (s.modWho w f).saving = s.saving := rfl
@[simp] theorem State.modWho_cutPending (s : State) (w : SlotRef) (f : Thread → Thread) : (s.modWho w f).cutPending = s.cutPending := rfl
@[simp] theorem State.modWho_markers (s : State) (w : SlotRef) (f : Thread → Thread) : (s.modWho w f).markers = s.markers := rfl
@[simp] theorem State.modWho_ewbHeld (s : State) (w : SlotRef) (f : Thread → Thread) : (s.modWho w f).ewbHeld = s.ewbHeld := rfl
@[simp] theorem State.modWho_ewbLate (s : State) (w : SlotRef) (f : Thread → Thread) : (s.modWho w f).ewbLate = s.ewbLate := rfl
@[simp] theorem State.modWho_hostWait (s : State) (w : SlotRef) (f : Thread → Thread) : (s.modWho w f).hostWait = s.hostWait := rfl
@[simp] theorem State.modWho_hostFilter (s : State) (w : SlotRef) (f : Thread → Thread) : (s.modWho w f).hostFilter = s.hostFilter := rfl
@[simp] theorem State.modWho_filterWait (s : State) (w : SlotRef) (f : Thread → Thread) : (s.modWho w f).filterWait = s.filterWait := rfl
@[simp] theorem State.modWho_hostReads (s : State) (w : SlotRef) (f : Thread → Thread) : (s.modWho w f).hostReads = s.hostReads := rfl
@[simp] theorem State.modWho_priGroups (s : State) (w : SlotRef) (f : Thread → Thread) : (s.modWho w f).priGroups = s.priGroups := rfl
@[simp] theorem State.modWho_priOff (s : State) (w : SlotRef) (f : Thread → Thread) : (s.modWho w f).priOff = s.priOff := rfl
@[simp] theorem State.modWho_priAlloc (s : State) (w : SlotRef) (f : Thread → Thread) : (s.modWho w f).priAlloc = s.priAlloc := rfl
@[simp] theorem State.modWho_linkSlots (s : State) (w : SlotRef) (f : Thread → Thread) : (s.modWho w f).linkSlots = s.linkSlots := rfl
@[simp] theorem State.modWho_boots (s : State) (w : SlotRef) (f : Thread → Thread) : (s.modWho w f).boots = s.boots := rfl
@[simp] theorem State.modWho_mailbox (s : State) (w : SlotRef) (f : Thread → Thread) : (s.modWho w f).mailbox = s.mailbox := rfl
@[simp] theorem State.modWho_reports (s : State) (w : SlotRef) (f : Thread → Thread) : (s.modWho w f).reports = s.reports := rfl
@[simp] theorem State.modWho_eol (s : State) (w : SlotRef) (f : Thread → Thread) : (s.modWho w f).eol = s.eol := rfl
@[simp] theorem State.modWho_throttled (s : State) (w : SlotRef) (f : Thread → Thread) : (s.modWho w f).throttled = s.throttled := rfl
@[simp] theorem State.modWho_snagPrev (s : State) (w : SlotRef) (f : Thread → Thread) : (s.modWho w f).snagPrev = s.snagPrev := rfl

@[simp] theorem State.modCur_cycle (s : State) (f : Thread → Thread) : (s.modCur f).cycle = s.cycle := rfl
@[simp] theorem State.modCur_agenda (s : State) (f : Thread → Thread) : (s.modCur f).agenda = s.agenda := rfl
@[simp] theorem State.modCur_todo (s : State) (f : Thread → Thread) : (s.modCur f).todo = s.todo := rfl
@[simp] theorem State.modCur_net (s : State) (f : Thread → Thread) : (s.modCur f).net = s.net := rfl
@[simp] theorem State.modCur_draws (s : State) (f : Thread → Thread) : (s.modCur f).draws = s.draws := rfl
@[simp] theorem State.modCur_ctx (s : State) (f : Thread → Thread) : (s.modCur f).ctx = s.ctx := rfl
@[simp] theorem State.modCur_subj (s : State) (f : Thread → Thread) : (s.modCur f).subj = s.subj := rfl
@[simp] theorem State.modCur_ports (s : State) (f : Thread → Thread) : (s.modCur f).ports = s.ports := rfl
@[simp] theorem State.modCur_spad (s : State) (f : Thread → Thread) : (s.modCur f).spad = s.spad := rfl
@[simp] theorem State.modCur_spadTag (s : State) (f : Thread → Thread) : (s.modCur f).spadTag = s.spadTag := rfl
@[simp] theorem State.modCur_hbm (s : State) (f : Thread → Thread) : (s.modCur f).hbm = s.hbm := rfl
@[simp] theorem State.modCur_hbmTag (s : State) (f : Thread → Thread) : (s.modCur f).hbmTag = s.hbmTag := rfl
@[simp] theorem State.modCur_host (s : State) (f : Thread → Thread) : (s.modCur f).host = s.host := rfl
@[simp] theorem State.modCur_istore (s : State) (f : Thread → Thread) : (s.modCur f).istore = s.istore := rfl
@[simp] theorem State.modCur_marks (s : State) (f : Thread → Thread) : (s.modCur f).marks = s.marks := rfl
@[simp] theorem State.modCur_devIdx (s : State) (f : Thread → Thread) : (s.modCur f).devIdx = s.devIdx := rfl
@[simp] theorem State.modCur_domTable (s : State) (f : Thread → Thread) : (s.modCur f).domTable = s.domTable := rfl
@[simp] theorem State.modCur_domains (s : State) (f : Thread → Thread) : (s.modCur f).domains = s.domains := rfl
@[simp] theorem State.modCur_wqs (s : State) (f : Thread → Thread) : (s.modCur f).wqs = s.wqs := rfl
@[simp] theorem State.modCur_tasks (s : State) (f : Thread → Thread) : (s.modCur f).tasks = s.tasks := rfl
@[simp] theorem State.modCur_deps (s : State) (f : Thread → Thread) : (s.modCur f).deps = s.deps := rfl
@[simp] theorem State.modCur_ages (s : State) (f : Thread → Thread) : (s.modCur f).ages = s.ages := rfl
@[simp] theorem State.modCur_requests (s : State) (f : Thread → Thread) : (s.modCur f).requests = s.requests := rfl
@[simp] theorem State.modCur_sysarg (s : State) (f : Thread → Thread) : (s.modCur f).sysarg = s.sysarg := rfl
@[simp] theorem State.modCur_sysq (s : State) (f : Thread → Thread) : (s.modCur f).sysq = s.sysq := rfl
@[simp] theorem State.modCur_sysstat (s : State) (f : Thread → Thread) : (s.modCur f).sysstat = s.sysstat := rfl
@[simp] theorem State.modCur_sealctl (s : State) (f : Thread → Thread) : (s.modCur f).sealctl = s.sealctl := rfl
@[simp] theorem State.modCur_undocfg (s : State) (f : Thread → Thread) : (s.modCur f).undocfg = s.undocfg := rfl
@[simp] theorem State.modCur_members (s : State) (f : Thread → Thread) : (s.modCur f).members = s.members := rfl
@[simp] theorem State.modCur_cutNo (s : State) (f : Thread → Thread) : (s.modCur f).cutNo = s.cutNo := rfl
@[simp] theorem State.modCur_sealedNo (s : State) (f : Thread → Thread) : (s.modCur f).sealedNo = s.sealedNo := rfl
@[simp] theorem State.modCur_seals (s : State) (f : Thread → Thread) : (s.modCur f).seals = s.seals := rfl
@[simp] theorem State.modCur_undo (s : State) (f : Thread → Thread) : (s.modCur f).undo = s.undo := rfl
@[simp] theorem State.modCur_logs (s : State) (f : Thread → Thread) : (s.modCur f).logs = s.logs := rfl
@[simp] theorem State.modCur_ewb (s : State) (f : Thread → Thread) : (s.modCur f).ewb = s.ewb := rfl
@[simp] theorem State.modCur_halted (s : State) (f : Thread → Thread) : (s.modCur f).halted = s.halted := rfl
@[simp] theorem State.modCur_msix (s : State) (f : Thread → Thread) : (s.modCur f).msix = s.msix := rfl
@[simp] theorem State.modCur_pri (s : State) (f : Thread → Thread) : (s.modCur f).pri = s.pri := rfl
@[simp] theorem State.modCur_portUp (s : State) (f : Thread → Thread) : (s.modCur f).portUp = s.portUp := rfl
@[simp] theorem State.modCur_bootstat (s : State) (f : Thread → Thread) : (s.modCur f).bootstat = s.bootstat := rfl
@[simp] theorem State.modCur_mgmt (s : State) (f : Thread → Thread) : (s.modCur f).mgmt = s.mgmt := rfl
@[simp] theorem State.modCur_pwrlim (s : State) (f : Thread → Thread) : (s.modCur f).pwrlim = s.pwrlim := rfl
@[simp] theorem State.modCur_cutWait (s : State) (f : Thread → Thread) : (s.modCur f).cutWait = s.cutWait := rfl
@[simp] theorem State.modCur_cutStart (s : State) (f : Thread → Thread) : (s.modCur f).cutStart = s.cutStart := rfl
@[simp] theorem State.modCur_saving (s : State) (f : Thread → Thread) : (s.modCur f).saving = s.saving := rfl
@[simp] theorem State.modCur_cutPending (s : State) (f : Thread → Thread) : (s.modCur f).cutPending = s.cutPending := rfl
@[simp] theorem State.modCur_markers (s : State) (f : Thread → Thread) : (s.modCur f).markers = s.markers := rfl
@[simp] theorem State.modCur_ewbHeld (s : State) (f : Thread → Thread) : (s.modCur f).ewbHeld = s.ewbHeld := rfl
@[simp] theorem State.modCur_ewbLate (s : State) (f : Thread → Thread) : (s.modCur f).ewbLate = s.ewbLate := rfl
@[simp] theorem State.modCur_hostWait (s : State) (f : Thread → Thread) : (s.modCur f).hostWait = s.hostWait := rfl
@[simp] theorem State.modCur_hostFilter (s : State) (f : Thread → Thread) : (s.modCur f).hostFilter = s.hostFilter := rfl
@[simp] theorem State.modCur_filterWait (s : State) (f : Thread → Thread) : (s.modCur f).filterWait = s.filterWait := rfl
@[simp] theorem State.modCur_hostReads (s : State) (f : Thread → Thread) : (s.modCur f).hostReads = s.hostReads := rfl
@[simp] theorem State.modCur_priGroups (s : State) (f : Thread → Thread) : (s.modCur f).priGroups = s.priGroups := rfl
@[simp] theorem State.modCur_priOff (s : State) (f : Thread → Thread) : (s.modCur f).priOff = s.priOff := rfl
@[simp] theorem State.modCur_priAlloc (s : State) (f : Thread → Thread) : (s.modCur f).priAlloc = s.priAlloc := rfl
@[simp] theorem State.modCur_linkSlots (s : State) (f : Thread → Thread) : (s.modCur f).linkSlots = s.linkSlots := rfl
@[simp] theorem State.modCur_boots (s : State) (f : Thread → Thread) : (s.modCur f).boots = s.boots := rfl
@[simp] theorem State.modCur_mailbox (s : State) (f : Thread → Thread) : (s.modCur f).mailbox = s.mailbox := rfl
@[simp] theorem State.modCur_reports (s : State) (f : Thread → Thread) : (s.modCur f).reports = s.reports := rfl
@[simp] theorem State.modCur_eol (s : State) (f : Thread → Thread) : (s.modCur f).eol = s.eol := rfl
@[simp] theorem State.modCur_throttled (s : State) (f : Thread → Thread) : (s.modCur f).throttled = s.throttled := rfl
@[simp] theorem State.modCur_snagPrev (s : State) (f : Thread → Thread) : (s.modCur f).snagPrev = s.snagPrev := rfl

@[simp] theorem State.modQueue_cycle (s : State) (c q : Nat) (f : Queue → Queue) : (s.modQueue c q f).cycle = s.cycle := rfl
@[simp] theorem State.modQueue_agenda (s : State) (c q : Nat) (f : Queue → Queue) : (s.modQueue c q f).agenda = s.agenda := rfl
@[simp] theorem State.modQueue_todo (s : State) (c q : Nat) (f : Queue → Queue) : (s.modQueue c q f).todo = s.todo := rfl
@[simp] theorem State.modQueue_net (s : State) (c q : Nat) (f : Queue → Queue) : (s.modQueue c q f).net = s.net := rfl
@[simp] theorem State.modQueue_draws (s : State) (c q : Nat) (f : Queue → Queue) : (s.modQueue c q f).draws = s.draws := rfl
@[simp] theorem State.modQueue_ctx (s : State) (c q : Nat) (f : Queue → Queue) : (s.modQueue c q f).ctx = s.ctx := rfl
@[simp] theorem State.modQueue_subj (s : State) (c q : Nat) (f : Queue → Queue) : (s.modQueue c q f).subj = s.subj := rfl
@[simp] theorem State.modQueue_ports (s : State) (c q : Nat) (f : Queue → Queue) : (s.modQueue c q f).ports = s.ports := rfl
@[simp] theorem State.modQueue_spad (s : State) (c q : Nat) (f : Queue → Queue) : (s.modQueue c q f).spad = s.spad := rfl
@[simp] theorem State.modQueue_spadTag (s : State) (c q : Nat) (f : Queue → Queue) : (s.modQueue c q f).spadTag = s.spadTag := rfl
@[simp] theorem State.modQueue_hbm (s : State) (c q : Nat) (f : Queue → Queue) : (s.modQueue c q f).hbm = s.hbm := rfl
@[simp] theorem State.modQueue_hbmTag (s : State) (c q : Nat) (f : Queue → Queue) : (s.modQueue c q f).hbmTag = s.hbmTag := rfl
@[simp] theorem State.modQueue_host (s : State) (c q : Nat) (f : Queue → Queue) : (s.modQueue c q f).host = s.host := rfl
@[simp] theorem State.modQueue_istore (s : State) (c q : Nat) (f : Queue → Queue) : (s.modQueue c q f).istore = s.istore := rfl
@[simp] theorem State.modQueue_marks (s : State) (c q : Nat) (f : Queue → Queue) : (s.modQueue c q f).marks = s.marks := rfl
@[simp] theorem State.modQueue_devIdx (s : State) (c q : Nat) (f : Queue → Queue) : (s.modQueue c q f).devIdx = s.devIdx := rfl
@[simp] theorem State.modQueue_domTable (s : State) (c q : Nat) (f : Queue → Queue) : (s.modQueue c q f).domTable = s.domTable := rfl
@[simp] theorem State.modQueue_domains (s : State) (c q : Nat) (f : Queue → Queue) : (s.modQueue c q f).domains = s.domains := rfl
@[simp] theorem State.modQueue_wqs (s : State) (c q : Nat) (f : Queue → Queue) : (s.modQueue c q f).wqs = s.wqs := rfl
@[simp] theorem State.modQueue_tasks (s : State) (c q : Nat) (f : Queue → Queue) : (s.modQueue c q f).tasks = s.tasks := rfl
@[simp] theorem State.modQueue_deps (s : State) (c q : Nat) (f : Queue → Queue) : (s.modQueue c q f).deps = s.deps := rfl
@[simp] theorem State.modQueue_ages (s : State) (c q : Nat) (f : Queue → Queue) : (s.modQueue c q f).ages = s.ages := rfl
@[simp] theorem State.modQueue_requests (s : State) (c q : Nat) (f : Queue → Queue) : (s.modQueue c q f).requests = s.requests := rfl
@[simp] theorem State.modQueue_sysarg (s : State) (c q : Nat) (f : Queue → Queue) : (s.modQueue c q f).sysarg = s.sysarg := rfl
@[simp] theorem State.modQueue_sysq (s : State) (c q : Nat) (f : Queue → Queue) : (s.modQueue c q f).sysq = s.sysq := rfl
@[simp] theorem State.modQueue_sysstat (s : State) (c q : Nat) (f : Queue → Queue) : (s.modQueue c q f).sysstat = s.sysstat := rfl
@[simp] theorem State.modQueue_sealctl (s : State) (c q : Nat) (f : Queue → Queue) : (s.modQueue c q f).sealctl = s.sealctl := rfl
@[simp] theorem State.modQueue_undocfg (s : State) (c q : Nat) (f : Queue → Queue) : (s.modQueue c q f).undocfg = s.undocfg := rfl
@[simp] theorem State.modQueue_members (s : State) (c q : Nat) (f : Queue → Queue) : (s.modQueue c q f).members = s.members := rfl
@[simp] theorem State.modQueue_cutNo (s : State) (c q : Nat) (f : Queue → Queue) : (s.modQueue c q f).cutNo = s.cutNo := rfl
@[simp] theorem State.modQueue_sealedNo (s : State) (c q : Nat) (f : Queue → Queue) : (s.modQueue c q f).sealedNo = s.sealedNo := rfl
@[simp] theorem State.modQueue_seals (s : State) (c q : Nat) (f : Queue → Queue) : (s.modQueue c q f).seals = s.seals := rfl
@[simp] theorem State.modQueue_undo (s : State) (c q : Nat) (f : Queue → Queue) : (s.modQueue c q f).undo = s.undo := rfl
@[simp] theorem State.modQueue_logs (s : State) (c q : Nat) (f : Queue → Queue) : (s.modQueue c q f).logs = s.logs := rfl
@[simp] theorem State.modQueue_ewb (s : State) (c q : Nat) (f : Queue → Queue) : (s.modQueue c q f).ewb = s.ewb := rfl
@[simp] theorem State.modQueue_halted (s : State) (c q : Nat) (f : Queue → Queue) : (s.modQueue c q f).halted = s.halted := rfl
@[simp] theorem State.modQueue_msix (s : State) (c q : Nat) (f : Queue → Queue) : (s.modQueue c q f).msix = s.msix := rfl
@[simp] theorem State.modQueue_pri (s : State) (c q : Nat) (f : Queue → Queue) : (s.modQueue c q f).pri = s.pri := rfl
@[simp] theorem State.modQueue_portUp (s : State) (c q : Nat) (f : Queue → Queue) : (s.modQueue c q f).portUp = s.portUp := rfl
@[simp] theorem State.modQueue_bootstat (s : State) (c q : Nat) (f : Queue → Queue) : (s.modQueue c q f).bootstat = s.bootstat := rfl
@[simp] theorem State.modQueue_mgmt (s : State) (c q : Nat) (f : Queue → Queue) : (s.modQueue c q f).mgmt = s.mgmt := rfl
@[simp] theorem State.modQueue_pwrlim (s : State) (c q : Nat) (f : Queue → Queue) : (s.modQueue c q f).pwrlim = s.pwrlim := rfl
@[simp] theorem State.modQueue_cutWait (s : State) (c q : Nat) (f : Queue → Queue) : (s.modQueue c q f).cutWait = s.cutWait := rfl
@[simp] theorem State.modQueue_cutStart (s : State) (c q : Nat) (f : Queue → Queue) : (s.modQueue c q f).cutStart = s.cutStart := rfl
@[simp] theorem State.modQueue_saving (s : State) (c q : Nat) (f : Queue → Queue) : (s.modQueue c q f).saving = s.saving := rfl
@[simp] theorem State.modQueue_cutPending (s : State) (c q : Nat) (f : Queue → Queue) : (s.modQueue c q f).cutPending = s.cutPending := rfl
@[simp] theorem State.modQueue_markers (s : State) (c q : Nat) (f : Queue → Queue) : (s.modQueue c q f).markers = s.markers := rfl
@[simp] theorem State.modQueue_ewbHeld (s : State) (c q : Nat) (f : Queue → Queue) : (s.modQueue c q f).ewbHeld = s.ewbHeld := rfl
@[simp] theorem State.modQueue_ewbLate (s : State) (c q : Nat) (f : Queue → Queue) : (s.modQueue c q f).ewbLate = s.ewbLate := rfl
@[simp] theorem State.modQueue_hostWait (s : State) (c q : Nat) (f : Queue → Queue) : (s.modQueue c q f).hostWait = s.hostWait := rfl
@[simp] theorem State.modQueue_hostFilter (s : State) (c q : Nat) (f : Queue → Queue) : (s.modQueue c q f).hostFilter = s.hostFilter := rfl
@[simp] theorem State.modQueue_filterWait (s : State) (c q : Nat) (f : Queue → Queue) : (s.modQueue c q f).filterWait = s.filterWait := rfl
@[simp] theorem State.modQueue_hostReads (s : State) (c q : Nat) (f : Queue → Queue) : (s.modQueue c q f).hostReads = s.hostReads := rfl
@[simp] theorem State.modQueue_priGroups (s : State) (c q : Nat) (f : Queue → Queue) : (s.modQueue c q f).priGroups = s.priGroups := rfl
@[simp] theorem State.modQueue_priOff (s : State) (c q : Nat) (f : Queue → Queue) : (s.modQueue c q f).priOff = s.priOff := rfl
@[simp] theorem State.modQueue_priAlloc (s : State) (c q : Nat) (f : Queue → Queue) : (s.modQueue c q f).priAlloc = s.priAlloc := rfl
@[simp] theorem State.modQueue_linkSlots (s : State) (c q : Nat) (f : Queue → Queue) : (s.modQueue c q f).linkSlots = s.linkSlots := rfl
@[simp] theorem State.modQueue_boots (s : State) (c q : Nat) (f : Queue → Queue) : (s.modQueue c q f).boots = s.boots := rfl
@[simp] theorem State.modQueue_mailbox (s : State) (c q : Nat) (f : Queue → Queue) : (s.modQueue c q f).mailbox = s.mailbox := rfl
@[simp] theorem State.modQueue_reports (s : State) (c q : Nat) (f : Queue → Queue) : (s.modQueue c q f).reports = s.reports := rfl
@[simp] theorem State.modQueue_eol (s : State) (c q : Nat) (f : Queue → Queue) : (s.modQueue c q f).eol = s.eol := rfl
@[simp] theorem State.modQueue_throttled (s : State) (c q : Nat) (f : Queue → Queue) : (s.modQueue c q f).throttled = s.throttled := rfl
@[simp] theorem State.modQueue_snagPrev (s : State) (c q : Nat) (f : Queue → Queue) : (s.modQueue c q f).snagPrev = s.snagPrev := rfl

@[simp] theorem State.modPort_cycle (s : State) (p : Nat) (f : Port → Port) : (s.modPort p f).cycle = s.cycle := rfl
@[simp] theorem State.modPort_agenda (s : State) (p : Nat) (f : Port → Port) : (s.modPort p f).agenda = s.agenda := rfl
@[simp] theorem State.modPort_todo (s : State) (p : Nat) (f : Port → Port) : (s.modPort p f).todo = s.todo := rfl
@[simp] theorem State.modPort_net (s : State) (p : Nat) (f : Port → Port) : (s.modPort p f).net = s.net := rfl
@[simp] theorem State.modPort_draws (s : State) (p : Nat) (f : Port → Port) : (s.modPort p f).draws = s.draws := rfl
@[simp] theorem State.modPort_ctx (s : State) (p : Nat) (f : Port → Port) : (s.modPort p f).ctx = s.ctx := rfl
@[simp] theorem State.modPort_subj (s : State) (p : Nat) (f : Port → Port) : (s.modPort p f).subj = s.subj := rfl
@[simp] theorem State.modPort_cores (s : State) (p : Nat) (f : Port → Port) : (s.modPort p f).cores = s.cores := rfl
@[simp] theorem State.modPort_spad (s : State) (p : Nat) (f : Port → Port) : (s.modPort p f).spad = s.spad := rfl
@[simp] theorem State.modPort_spadTag (s : State) (p : Nat) (f : Port → Port) : (s.modPort p f).spadTag = s.spadTag := rfl
@[simp] theorem State.modPort_hbm (s : State) (p : Nat) (f : Port → Port) : (s.modPort p f).hbm = s.hbm := rfl
@[simp] theorem State.modPort_hbmTag (s : State) (p : Nat) (f : Port → Port) : (s.modPort p f).hbmTag = s.hbmTag := rfl
@[simp] theorem State.modPort_host (s : State) (p : Nat) (f : Port → Port) : (s.modPort p f).host = s.host := rfl
@[simp] theorem State.modPort_istore (s : State) (p : Nat) (f : Port → Port) : (s.modPort p f).istore = s.istore := rfl
@[simp] theorem State.modPort_marks (s : State) (p : Nat) (f : Port → Port) : (s.modPort p f).marks = s.marks := rfl
@[simp] theorem State.modPort_devIdx (s : State) (p : Nat) (f : Port → Port) : (s.modPort p f).devIdx = s.devIdx := rfl
@[simp] theorem State.modPort_domTable (s : State) (p : Nat) (f : Port → Port) : (s.modPort p f).domTable = s.domTable := rfl
@[simp] theorem State.modPort_domains (s : State) (p : Nat) (f : Port → Port) : (s.modPort p f).domains = s.domains := rfl
@[simp] theorem State.modPort_wqs (s : State) (p : Nat) (f : Port → Port) : (s.modPort p f).wqs = s.wqs := rfl
@[simp] theorem State.modPort_tasks (s : State) (p : Nat) (f : Port → Port) : (s.modPort p f).tasks = s.tasks := rfl
@[simp] theorem State.modPort_deps (s : State) (p : Nat) (f : Port → Port) : (s.modPort p f).deps = s.deps := rfl
@[simp] theorem State.modPort_ages (s : State) (p : Nat) (f : Port → Port) : (s.modPort p f).ages = s.ages := rfl
@[simp] theorem State.modPort_requests (s : State) (p : Nat) (f : Port → Port) : (s.modPort p f).requests = s.requests := rfl
@[simp] theorem State.modPort_sysarg (s : State) (p : Nat) (f : Port → Port) : (s.modPort p f).sysarg = s.sysarg := rfl
@[simp] theorem State.modPort_sysq (s : State) (p : Nat) (f : Port → Port) : (s.modPort p f).sysq = s.sysq := rfl
@[simp] theorem State.modPort_sysstat (s : State) (p : Nat) (f : Port → Port) : (s.modPort p f).sysstat = s.sysstat := rfl
@[simp] theorem State.modPort_sealctl (s : State) (p : Nat) (f : Port → Port) : (s.modPort p f).sealctl = s.sealctl := rfl
@[simp] theorem State.modPort_undocfg (s : State) (p : Nat) (f : Port → Port) : (s.modPort p f).undocfg = s.undocfg := rfl
@[simp] theorem State.modPort_members (s : State) (p : Nat) (f : Port → Port) : (s.modPort p f).members = s.members := rfl
@[simp] theorem State.modPort_cutNo (s : State) (p : Nat) (f : Port → Port) : (s.modPort p f).cutNo = s.cutNo := rfl
@[simp] theorem State.modPort_sealedNo (s : State) (p : Nat) (f : Port → Port) : (s.modPort p f).sealedNo = s.sealedNo := rfl
@[simp] theorem State.modPort_seals (s : State) (p : Nat) (f : Port → Port) : (s.modPort p f).seals = s.seals := rfl
@[simp] theorem State.modPort_undo (s : State) (p : Nat) (f : Port → Port) : (s.modPort p f).undo = s.undo := rfl
@[simp] theorem State.modPort_logs (s : State) (p : Nat) (f : Port → Port) : (s.modPort p f).logs = s.logs := rfl
@[simp] theorem State.modPort_ewb (s : State) (p : Nat) (f : Port → Port) : (s.modPort p f).ewb = s.ewb := rfl
@[simp] theorem State.modPort_halted (s : State) (p : Nat) (f : Port → Port) : (s.modPort p f).halted = s.halted := rfl
@[simp] theorem State.modPort_msix (s : State) (p : Nat) (f : Port → Port) : (s.modPort p f).msix = s.msix := rfl
@[simp] theorem State.modPort_pri (s : State) (p : Nat) (f : Port → Port) : (s.modPort p f).pri = s.pri := rfl
@[simp] theorem State.modPort_portUp (s : State) (p : Nat) (f : Port → Port) : (s.modPort p f).portUp = s.portUp := rfl
@[simp] theorem State.modPort_bootstat (s : State) (p : Nat) (f : Port → Port) : (s.modPort p f).bootstat = s.bootstat := rfl
@[simp] theorem State.modPort_mgmt (s : State) (p : Nat) (f : Port → Port) : (s.modPort p f).mgmt = s.mgmt := rfl
@[simp] theorem State.modPort_pwrlim (s : State) (p : Nat) (f : Port → Port) : (s.modPort p f).pwrlim = s.pwrlim := rfl
@[simp] theorem State.modPort_cutWait (s : State) (p : Nat) (f : Port → Port) : (s.modPort p f).cutWait = s.cutWait := rfl
@[simp] theorem State.modPort_cutStart (s : State) (p : Nat) (f : Port → Port) : (s.modPort p f).cutStart = s.cutStart := rfl
@[simp] theorem State.modPort_saving (s : State) (p : Nat) (f : Port → Port) : (s.modPort p f).saving = s.saving := rfl
@[simp] theorem State.modPort_cutPending (s : State) (p : Nat) (f : Port → Port) : (s.modPort p f).cutPending = s.cutPending := rfl
@[simp] theorem State.modPort_markers (s : State) (p : Nat) (f : Port → Port) : (s.modPort p f).markers = s.markers := rfl
@[simp] theorem State.modPort_ewbHeld (s : State) (p : Nat) (f : Port → Port) : (s.modPort p f).ewbHeld = s.ewbHeld := rfl
@[simp] theorem State.modPort_ewbLate (s : State) (p : Nat) (f : Port → Port) : (s.modPort p f).ewbLate = s.ewbLate := rfl
@[simp] theorem State.modPort_hostWait (s : State) (p : Nat) (f : Port → Port) : (s.modPort p f).hostWait = s.hostWait := rfl
@[simp] theorem State.modPort_hostFilter (s : State) (p : Nat) (f : Port → Port) : (s.modPort p f).hostFilter = s.hostFilter := rfl
@[simp] theorem State.modPort_filterWait (s : State) (p : Nat) (f : Port → Port) : (s.modPort p f).filterWait = s.filterWait := rfl
@[simp] theorem State.modPort_hostReads (s : State) (p : Nat) (f : Port → Port) : (s.modPort p f).hostReads = s.hostReads := rfl
@[simp] theorem State.modPort_priGroups (s : State) (p : Nat) (f : Port → Port) : (s.modPort p f).priGroups = s.priGroups := rfl
@[simp] theorem State.modPort_priOff (s : State) (p : Nat) (f : Port → Port) : (s.modPort p f).priOff = s.priOff := rfl
@[simp] theorem State.modPort_priAlloc (s : State) (p : Nat) (f : Port → Port) : (s.modPort p f).priAlloc = s.priAlloc := rfl
@[simp] theorem State.modPort_linkSlots (s : State) (p : Nat) (f : Port → Port) : (s.modPort p f).linkSlots = s.linkSlots := rfl
@[simp] theorem State.modPort_boots (s : State) (p : Nat) (f : Port → Port) : (s.modPort p f).boots = s.boots := rfl
@[simp] theorem State.modPort_mailbox (s : State) (p : Nat) (f : Port → Port) : (s.modPort p f).mailbox = s.mailbox := rfl
@[simp] theorem State.modPort_reports (s : State) (p : Nat) (f : Port → Port) : (s.modPort p f).reports = s.reports := rfl
@[simp] theorem State.modPort_eol (s : State) (p : Nat) (f : Port → Port) : (s.modPort p f).eol = s.eol := rfl
@[simp] theorem State.modPort_throttled (s : State) (p : Nat) (f : Port → Port) : (s.modPort p f).throttled = s.throttled := rfl
@[simp] theorem State.modPort_snagPrev (s : State) (p : Nat) (f : Port → Port) : (s.modPort p f).snagPrev = s.snagPrev := rfl

@[simp] theorem State.modTask_cycle (s : State) (n : Nat) (f : Task → Task) : (s.modTask n f).cycle = s.cycle := rfl
@[simp] theorem State.modTask_agenda (s : State) (n : Nat) (f : Task → Task) : (s.modTask n f).agenda = s.agenda := rfl
@[simp] theorem State.modTask_todo (s : State) (n : Nat) (f : Task → Task) : (s.modTask n f).todo = s.todo := rfl
@[simp] theorem State.modTask_net (s : State) (n : Nat) (f : Task → Task) : (s.modTask n f).net = s.net := rfl
@[simp] theorem State.modTask_draws (s : State) (n : Nat) (f : Task → Task) : (s.modTask n f).draws = s.draws := rfl
@[simp] theorem State.modTask_ctx (s : State) (n : Nat) (f : Task → Task) : (s.modTask n f).ctx = s.ctx := rfl
@[simp] theorem State.modTask_subj (s : State) (n : Nat) (f : Task → Task) : (s.modTask n f).subj = s.subj := rfl
@[simp] theorem State.modTask_cores (s : State) (n : Nat) (f : Task → Task) : (s.modTask n f).cores = s.cores := rfl
@[simp] theorem State.modTask_ports (s : State) (n : Nat) (f : Task → Task) : (s.modTask n f).ports = s.ports := rfl
@[simp] theorem State.modTask_spad (s : State) (n : Nat) (f : Task → Task) : (s.modTask n f).spad = s.spad := rfl
@[simp] theorem State.modTask_spadTag (s : State) (n : Nat) (f : Task → Task) : (s.modTask n f).spadTag = s.spadTag := rfl
@[simp] theorem State.modTask_hbm (s : State) (n : Nat) (f : Task → Task) : (s.modTask n f).hbm = s.hbm := rfl
@[simp] theorem State.modTask_hbmTag (s : State) (n : Nat) (f : Task → Task) : (s.modTask n f).hbmTag = s.hbmTag := rfl
@[simp] theorem State.modTask_host (s : State) (n : Nat) (f : Task → Task) : (s.modTask n f).host = s.host := rfl
@[simp] theorem State.modTask_istore (s : State) (n : Nat) (f : Task → Task) : (s.modTask n f).istore = s.istore := rfl
@[simp] theorem State.modTask_marks (s : State) (n : Nat) (f : Task → Task) : (s.modTask n f).marks = s.marks := rfl
@[simp] theorem State.modTask_devIdx (s : State) (n : Nat) (f : Task → Task) : (s.modTask n f).devIdx = s.devIdx := rfl
@[simp] theorem State.modTask_domTable (s : State) (n : Nat) (f : Task → Task) : (s.modTask n f).domTable = s.domTable := rfl
@[simp] theorem State.modTask_domains (s : State) (n : Nat) (f : Task → Task) : (s.modTask n f).domains = s.domains := rfl
@[simp] theorem State.modTask_wqs (s : State) (n : Nat) (f : Task → Task) : (s.modTask n f).wqs = s.wqs := rfl
@[simp] theorem State.modTask_deps (s : State) (n : Nat) (f : Task → Task) : (s.modTask n f).deps = s.deps := rfl
@[simp] theorem State.modTask_ages (s : State) (n : Nat) (f : Task → Task) : (s.modTask n f).ages = s.ages := rfl
@[simp] theorem State.modTask_requests (s : State) (n : Nat) (f : Task → Task) : (s.modTask n f).requests = s.requests := rfl
@[simp] theorem State.modTask_sysarg (s : State) (n : Nat) (f : Task → Task) : (s.modTask n f).sysarg = s.sysarg := rfl
@[simp] theorem State.modTask_sysq (s : State) (n : Nat) (f : Task → Task) : (s.modTask n f).sysq = s.sysq := rfl
@[simp] theorem State.modTask_sysstat (s : State) (n : Nat) (f : Task → Task) : (s.modTask n f).sysstat = s.sysstat := rfl
@[simp] theorem State.modTask_sealctl (s : State) (n : Nat) (f : Task → Task) : (s.modTask n f).sealctl = s.sealctl := rfl
@[simp] theorem State.modTask_undocfg (s : State) (n : Nat) (f : Task → Task) : (s.modTask n f).undocfg = s.undocfg := rfl
@[simp] theorem State.modTask_members (s : State) (n : Nat) (f : Task → Task) : (s.modTask n f).members = s.members := rfl
@[simp] theorem State.modTask_cutNo (s : State) (n : Nat) (f : Task → Task) : (s.modTask n f).cutNo = s.cutNo := rfl
@[simp] theorem State.modTask_sealedNo (s : State) (n : Nat) (f : Task → Task) : (s.modTask n f).sealedNo = s.sealedNo := rfl
@[simp] theorem State.modTask_seals (s : State) (n : Nat) (f : Task → Task) : (s.modTask n f).seals = s.seals := rfl
@[simp] theorem State.modTask_undo (s : State) (n : Nat) (f : Task → Task) : (s.modTask n f).undo = s.undo := rfl
@[simp] theorem State.modTask_logs (s : State) (n : Nat) (f : Task → Task) : (s.modTask n f).logs = s.logs := rfl
@[simp] theorem State.modTask_ewb (s : State) (n : Nat) (f : Task → Task) : (s.modTask n f).ewb = s.ewb := rfl
@[simp] theorem State.modTask_halted (s : State) (n : Nat) (f : Task → Task) : (s.modTask n f).halted = s.halted := rfl
@[simp] theorem State.modTask_msix (s : State) (n : Nat) (f : Task → Task) : (s.modTask n f).msix = s.msix := rfl
@[simp] theorem State.modTask_pri (s : State) (n : Nat) (f : Task → Task) : (s.modTask n f).pri = s.pri := rfl
@[simp] theorem State.modTask_portUp (s : State) (n : Nat) (f : Task → Task) : (s.modTask n f).portUp = s.portUp := rfl
@[simp] theorem State.modTask_bootstat (s : State) (n : Nat) (f : Task → Task) : (s.modTask n f).bootstat = s.bootstat := rfl
@[simp] theorem State.modTask_mgmt (s : State) (n : Nat) (f : Task → Task) : (s.modTask n f).mgmt = s.mgmt := rfl
@[simp] theorem State.modTask_pwrlim (s : State) (n : Nat) (f : Task → Task) : (s.modTask n f).pwrlim = s.pwrlim := rfl
@[simp] theorem State.modTask_cutWait (s : State) (n : Nat) (f : Task → Task) : (s.modTask n f).cutWait = s.cutWait := rfl
@[simp] theorem State.modTask_cutStart (s : State) (n : Nat) (f : Task → Task) : (s.modTask n f).cutStart = s.cutStart := rfl
@[simp] theorem State.modTask_saving (s : State) (n : Nat) (f : Task → Task) : (s.modTask n f).saving = s.saving := rfl
@[simp] theorem State.modTask_cutPending (s : State) (n : Nat) (f : Task → Task) : (s.modTask n f).cutPending = s.cutPending := rfl
@[simp] theorem State.modTask_markers (s : State) (n : Nat) (f : Task → Task) : (s.modTask n f).markers = s.markers := rfl
@[simp] theorem State.modTask_ewbHeld (s : State) (n : Nat) (f : Task → Task) : (s.modTask n f).ewbHeld = s.ewbHeld := rfl
@[simp] theorem State.modTask_ewbLate (s : State) (n : Nat) (f : Task → Task) : (s.modTask n f).ewbLate = s.ewbLate := rfl
@[simp] theorem State.modTask_hostWait (s : State) (n : Nat) (f : Task → Task) : (s.modTask n f).hostWait = s.hostWait := rfl
@[simp] theorem State.modTask_hostFilter (s : State) (n : Nat) (f : Task → Task) : (s.modTask n f).hostFilter = s.hostFilter := rfl
@[simp] theorem State.modTask_filterWait (s : State) (n : Nat) (f : Task → Task) : (s.modTask n f).filterWait = s.filterWait := rfl
@[simp] theorem State.modTask_hostReads (s : State) (n : Nat) (f : Task → Task) : (s.modTask n f).hostReads = s.hostReads := rfl
@[simp] theorem State.modTask_priGroups (s : State) (n : Nat) (f : Task → Task) : (s.modTask n f).priGroups = s.priGroups := rfl
@[simp] theorem State.modTask_priOff (s : State) (n : Nat) (f : Task → Task) : (s.modTask n f).priOff = s.priOff := rfl
@[simp] theorem State.modTask_priAlloc (s : State) (n : Nat) (f : Task → Task) : (s.modTask n f).priAlloc = s.priAlloc := rfl
@[simp] theorem State.modTask_linkSlots (s : State) (n : Nat) (f : Task → Task) : (s.modTask n f).linkSlots = s.linkSlots := rfl
@[simp] theorem State.modTask_boots (s : State) (n : Nat) (f : Task → Task) : (s.modTask n f).boots = s.boots := rfl
@[simp] theorem State.modTask_mailbox (s : State) (n : Nat) (f : Task → Task) : (s.modTask n f).mailbox = s.mailbox := rfl
@[simp] theorem State.modTask_reports (s : State) (n : Nat) (f : Task → Task) : (s.modTask n f).reports = s.reports := rfl
@[simp] theorem State.modTask_eol (s : State) (n : Nat) (f : Task → Task) : (s.modTask n f).eol = s.eol := rfl
@[simp] theorem State.modTask_throttled (s : State) (n : Nat) (f : Task → Task) : (s.modTask n f).throttled = s.throttled := rfl
@[simp] theorem State.modTask_snagPrev (s : State) (n : Nat) (f : Task → Task) : (s.modTask n f).snagPrev = s.snagPrev := rfl

@[simp] theorem State.at_cycle (s : State) (n : Nat) (e : Ev) : (s.at n e).cycle = s.cycle := rfl
@[simp] theorem State.at_todo (s : State) (n : Nat) (e : Ev) : (s.at n e).todo = s.todo := rfl
@[simp] theorem State.at_net (s : State) (n : Nat) (e : Ev) : (s.at n e).net = s.net := rfl
@[simp] theorem State.at_draws (s : State) (n : Nat) (e : Ev) : (s.at n e).draws = s.draws := rfl
@[simp] theorem State.at_ctx (s : State) (n : Nat) (e : Ev) : (s.at n e).ctx = s.ctx := rfl
@[simp] theorem State.at_subj (s : State) (n : Nat) (e : Ev) : (s.at n e).subj = s.subj := rfl
@[simp] theorem State.at_cores (s : State) (n : Nat) (e : Ev) : (s.at n e).cores = s.cores := rfl
@[simp] theorem State.at_ports (s : State) (n : Nat) (e : Ev) : (s.at n e).ports = s.ports := rfl
@[simp] theorem State.at_spad (s : State) (n : Nat) (e : Ev) : (s.at n e).spad = s.spad := rfl
@[simp] theorem State.at_spadTag (s : State) (n : Nat) (e : Ev) : (s.at n e).spadTag = s.spadTag := rfl
@[simp] theorem State.at_hbm (s : State) (n : Nat) (e : Ev) : (s.at n e).hbm = s.hbm := rfl
@[simp] theorem State.at_hbmTag (s : State) (n : Nat) (e : Ev) : (s.at n e).hbmTag = s.hbmTag := rfl
@[simp] theorem State.at_host (s : State) (n : Nat) (e : Ev) : (s.at n e).host = s.host := rfl
@[simp] theorem State.at_istore (s : State) (n : Nat) (e : Ev) : (s.at n e).istore = s.istore := rfl
@[simp] theorem State.at_marks (s : State) (n : Nat) (e : Ev) : (s.at n e).marks = s.marks := rfl
@[simp] theorem State.at_devIdx (s : State) (n : Nat) (e : Ev) : (s.at n e).devIdx = s.devIdx := rfl
@[simp] theorem State.at_domTable (s : State) (n : Nat) (e : Ev) : (s.at n e).domTable = s.domTable := rfl
@[simp] theorem State.at_domains (s : State) (n : Nat) (e : Ev) : (s.at n e).domains = s.domains := rfl
@[simp] theorem State.at_wqs (s : State) (n : Nat) (e : Ev) : (s.at n e).wqs = s.wqs := rfl
@[simp] theorem State.at_tasks (s : State) (n : Nat) (e : Ev) : (s.at n e).tasks = s.tasks := rfl
@[simp] theorem State.at_deps (s : State) (n : Nat) (e : Ev) : (s.at n e).deps = s.deps := rfl
@[simp] theorem State.at_ages (s : State) (n : Nat) (e : Ev) : (s.at n e).ages = s.ages := rfl
@[simp] theorem State.at_requests (s : State) (n : Nat) (e : Ev) : (s.at n e).requests = s.requests := rfl
@[simp] theorem State.at_sysarg (s : State) (n : Nat) (e : Ev) : (s.at n e).sysarg = s.sysarg := rfl
@[simp] theorem State.at_sysq (s : State) (n : Nat) (e : Ev) : (s.at n e).sysq = s.sysq := rfl
@[simp] theorem State.at_sysstat (s : State) (n : Nat) (e : Ev) : (s.at n e).sysstat = s.sysstat := rfl
@[simp] theorem State.at_sealctl (s : State) (n : Nat) (e : Ev) : (s.at n e).sealctl = s.sealctl := rfl
@[simp] theorem State.at_undocfg (s : State) (n : Nat) (e : Ev) : (s.at n e).undocfg = s.undocfg := rfl
@[simp] theorem State.at_members (s : State) (n : Nat) (e : Ev) : (s.at n e).members = s.members := rfl
@[simp] theorem State.at_cutNo (s : State) (n : Nat) (e : Ev) : (s.at n e).cutNo = s.cutNo := rfl
@[simp] theorem State.at_sealedNo (s : State) (n : Nat) (e : Ev) : (s.at n e).sealedNo = s.sealedNo := rfl
@[simp] theorem State.at_seals (s : State) (n : Nat) (e : Ev) : (s.at n e).seals = s.seals := rfl
@[simp] theorem State.at_undo (s : State) (n : Nat) (e : Ev) : (s.at n e).undo = s.undo := rfl
@[simp] theorem State.at_logs (s : State) (n : Nat) (e : Ev) : (s.at n e).logs = s.logs := rfl
@[simp] theorem State.at_ewb (s : State) (n : Nat) (e : Ev) : (s.at n e).ewb = s.ewb := rfl
@[simp] theorem State.at_halted (s : State) (n : Nat) (e : Ev) : (s.at n e).halted = s.halted := rfl
@[simp] theorem State.at_msix (s : State) (n : Nat) (e : Ev) : (s.at n e).msix = s.msix := rfl
@[simp] theorem State.at_pri (s : State) (n : Nat) (e : Ev) : (s.at n e).pri = s.pri := rfl
@[simp] theorem State.at_portUp (s : State) (n : Nat) (e : Ev) : (s.at n e).portUp = s.portUp := rfl
@[simp] theorem State.at_bootstat (s : State) (n : Nat) (e : Ev) : (s.at n e).bootstat = s.bootstat := rfl
@[simp] theorem State.at_mgmt (s : State) (n : Nat) (e : Ev) : (s.at n e).mgmt = s.mgmt := rfl
@[simp] theorem State.at_pwrlim (s : State) (n : Nat) (e : Ev) : (s.at n e).pwrlim = s.pwrlim := rfl
@[simp] theorem State.at_cutWait (s : State) (n : Nat) (e : Ev) : (s.at n e).cutWait = s.cutWait := rfl
@[simp] theorem State.at_cutStart (s : State) (n : Nat) (e : Ev) : (s.at n e).cutStart = s.cutStart := rfl
@[simp] theorem State.at_saving (s : State) (n : Nat) (e : Ev) : (s.at n e).saving = s.saving := rfl
@[simp] theorem State.at_cutPending (s : State) (n : Nat) (e : Ev) : (s.at n e).cutPending = s.cutPending := rfl
@[simp] theorem State.at_markers (s : State) (n : Nat) (e : Ev) : (s.at n e).markers = s.markers := rfl
@[simp] theorem State.at_ewbHeld (s : State) (n : Nat) (e : Ev) : (s.at n e).ewbHeld = s.ewbHeld := rfl
@[simp] theorem State.at_ewbLate (s : State) (n : Nat) (e : Ev) : (s.at n e).ewbLate = s.ewbLate := rfl
@[simp] theorem State.at_hostWait (s : State) (n : Nat) (e : Ev) : (s.at n e).hostWait = s.hostWait := rfl
@[simp] theorem State.at_hostFilter (s : State) (n : Nat) (e : Ev) : (s.at n e).hostFilter = s.hostFilter := rfl
@[simp] theorem State.at_filterWait (s : State) (n : Nat) (e : Ev) : (s.at n e).filterWait = s.filterWait := rfl
@[simp] theorem State.at_hostReads (s : State) (n : Nat) (e : Ev) : (s.at n e).hostReads = s.hostReads := rfl
@[simp] theorem State.at_priGroups (s : State) (n : Nat) (e : Ev) : (s.at n e).priGroups = s.priGroups := rfl
@[simp] theorem State.at_priOff (s : State) (n : Nat) (e : Ev) : (s.at n e).priOff = s.priOff := rfl
@[simp] theorem State.at_priAlloc (s : State) (n : Nat) (e : Ev) : (s.at n e).priAlloc = s.priAlloc := rfl
@[simp] theorem State.at_linkSlots (s : State) (n : Nat) (e : Ev) : (s.at n e).linkSlots = s.linkSlots := rfl
@[simp] theorem State.at_boots (s : State) (n : Nat) (e : Ev) : (s.at n e).boots = s.boots := rfl
@[simp] theorem State.at_mailbox (s : State) (n : Nat) (e : Ev) : (s.at n e).mailbox = s.mailbox := rfl
@[simp] theorem State.at_reports (s : State) (n : Nat) (e : Ev) : (s.at n e).reports = s.reports := rfl
@[simp] theorem State.at_eol (s : State) (n : Nat) (e : Ev) : (s.at n e).eol = s.eol := rfl
@[simp] theorem State.at_throttled (s : State) (n : Nat) (e : Ev) : (s.at n e).throttled = s.throttled := rfl
@[simp] theorem State.at_snagPrev (s : State) (n : Nat) (e : Ev) : (s.at n e).snagPrev = s.snagPrev := rfl

@[simp] theorem State.after_cycle (s : State) (n : Nat) (i : Instr) (x : Subj) : (s.after n i x).cycle = s.cycle := rfl
@[simp] theorem State.after_todo (s : State) (n : Nat) (i : Instr) (x : Subj) : (s.after n i x).todo = s.todo := rfl
@[simp] theorem State.after_net (s : State) (n : Nat) (i : Instr) (x : Subj) : (s.after n i x).net = s.net := rfl
@[simp] theorem State.after_draws (s : State) (n : Nat) (i : Instr) (x : Subj) : (s.after n i x).draws = s.draws := rfl
@[simp] theorem State.after_ctx (s : State) (n : Nat) (i : Instr) (x : Subj) : (s.after n i x).ctx = s.ctx := rfl
@[simp] theorem State.after_subj (s : State) (n : Nat) (i : Instr) (x : Subj) : (s.after n i x).subj = s.subj := rfl
@[simp] theorem State.after_cores (s : State) (n : Nat) (i : Instr) (x : Subj) : (s.after n i x).cores = s.cores := rfl
@[simp] theorem State.after_ports (s : State) (n : Nat) (i : Instr) (x : Subj) : (s.after n i x).ports = s.ports := rfl
@[simp] theorem State.after_spad (s : State) (n : Nat) (i : Instr) (x : Subj) : (s.after n i x).spad = s.spad := rfl
@[simp] theorem State.after_spadTag (s : State) (n : Nat) (i : Instr) (x : Subj) : (s.after n i x).spadTag = s.spadTag := rfl
@[simp] theorem State.after_hbm (s : State) (n : Nat) (i : Instr) (x : Subj) : (s.after n i x).hbm = s.hbm := rfl
@[simp] theorem State.after_hbmTag (s : State) (n : Nat) (i : Instr) (x : Subj) : (s.after n i x).hbmTag = s.hbmTag := rfl
@[simp] theorem State.after_host (s : State) (n : Nat) (i : Instr) (x : Subj) : (s.after n i x).host = s.host := rfl
@[simp] theorem State.after_istore (s : State) (n : Nat) (i : Instr) (x : Subj) : (s.after n i x).istore = s.istore := rfl
@[simp] theorem State.after_marks (s : State) (n : Nat) (i : Instr) (x : Subj) : (s.after n i x).marks = s.marks := rfl
@[simp] theorem State.after_devIdx (s : State) (n : Nat) (i : Instr) (x : Subj) : (s.after n i x).devIdx = s.devIdx := rfl
@[simp] theorem State.after_domTable (s : State) (n : Nat) (i : Instr) (x : Subj) : (s.after n i x).domTable = s.domTable := rfl
@[simp] theorem State.after_domains (s : State) (n : Nat) (i : Instr) (x : Subj) : (s.after n i x).domains = s.domains := rfl
@[simp] theorem State.after_wqs (s : State) (n : Nat) (i : Instr) (x : Subj) : (s.after n i x).wqs = s.wqs := rfl
@[simp] theorem State.after_tasks (s : State) (n : Nat) (i : Instr) (x : Subj) : (s.after n i x).tasks = s.tasks := rfl
@[simp] theorem State.after_deps (s : State) (n : Nat) (i : Instr) (x : Subj) : (s.after n i x).deps = s.deps := rfl
@[simp] theorem State.after_ages (s : State) (n : Nat) (i : Instr) (x : Subj) : (s.after n i x).ages = s.ages := rfl
@[simp] theorem State.after_requests (s : State) (n : Nat) (i : Instr) (x : Subj) : (s.after n i x).requests = s.requests := rfl
@[simp] theorem State.after_sysarg (s : State) (n : Nat) (i : Instr) (x : Subj) : (s.after n i x).sysarg = s.sysarg := rfl
@[simp] theorem State.after_sysq (s : State) (n : Nat) (i : Instr) (x : Subj) : (s.after n i x).sysq = s.sysq := rfl
@[simp] theorem State.after_sysstat (s : State) (n : Nat) (i : Instr) (x : Subj) : (s.after n i x).sysstat = s.sysstat := rfl
@[simp] theorem State.after_sealctl (s : State) (n : Nat) (i : Instr) (x : Subj) : (s.after n i x).sealctl = s.sealctl := rfl
@[simp] theorem State.after_undocfg (s : State) (n : Nat) (i : Instr) (x : Subj) : (s.after n i x).undocfg = s.undocfg := rfl
@[simp] theorem State.after_members (s : State) (n : Nat) (i : Instr) (x : Subj) : (s.after n i x).members = s.members := rfl
@[simp] theorem State.after_cutNo (s : State) (n : Nat) (i : Instr) (x : Subj) : (s.after n i x).cutNo = s.cutNo := rfl
@[simp] theorem State.after_sealedNo (s : State) (n : Nat) (i : Instr) (x : Subj) : (s.after n i x).sealedNo = s.sealedNo := rfl
@[simp] theorem State.after_seals (s : State) (n : Nat) (i : Instr) (x : Subj) : (s.after n i x).seals = s.seals := rfl
@[simp] theorem State.after_undo (s : State) (n : Nat) (i : Instr) (x : Subj) : (s.after n i x).undo = s.undo := rfl
@[simp] theorem State.after_logs (s : State) (n : Nat) (i : Instr) (x : Subj) : (s.after n i x).logs = s.logs := rfl
@[simp] theorem State.after_ewb (s : State) (n : Nat) (i : Instr) (x : Subj) : (s.after n i x).ewb = s.ewb := rfl
@[simp] theorem State.after_halted (s : State) (n : Nat) (i : Instr) (x : Subj) : (s.after n i x).halted = s.halted := rfl
@[simp] theorem State.after_msix (s : State) (n : Nat) (i : Instr) (x : Subj) : (s.after n i x).msix = s.msix := rfl
@[simp] theorem State.after_pri (s : State) (n : Nat) (i : Instr) (x : Subj) : (s.after n i x).pri = s.pri := rfl
@[simp] theorem State.after_portUp (s : State) (n : Nat) (i : Instr) (x : Subj) : (s.after n i x).portUp = s.portUp := rfl
@[simp] theorem State.after_bootstat (s : State) (n : Nat) (i : Instr) (x : Subj) : (s.after n i x).bootstat = s.bootstat := rfl
@[simp] theorem State.after_mgmt (s : State) (n : Nat) (i : Instr) (x : Subj) : (s.after n i x).mgmt = s.mgmt := rfl
@[simp] theorem State.after_pwrlim (s : State) (n : Nat) (i : Instr) (x : Subj) : (s.after n i x).pwrlim = s.pwrlim := rfl
@[simp] theorem State.after_cutWait (s : State) (n : Nat) (i : Instr) (x : Subj) : (s.after n i x).cutWait = s.cutWait := rfl
@[simp] theorem State.after_cutStart (s : State) (n : Nat) (i : Instr) (x : Subj) : (s.after n i x).cutStart = s.cutStart := rfl
@[simp] theorem State.after_saving (s : State) (n : Nat) (i : Instr) (x : Subj) : (s.after n i x).saving = s.saving := rfl
@[simp] theorem State.after_cutPending (s : State) (n : Nat) (i : Instr) (x : Subj) : (s.after n i x).cutPending = s.cutPending := rfl
@[simp] theorem State.after_markers (s : State) (n : Nat) (i : Instr) (x : Subj) : (s.after n i x).markers = s.markers := rfl
@[simp] theorem State.after_ewbHeld (s : State) (n : Nat) (i : Instr) (x : Subj) : (s.after n i x).ewbHeld = s.ewbHeld := rfl
@[simp] theorem State.after_ewbLate (s : State) (n : Nat) (i : Instr) (x : Subj) : (s.after n i x).ewbLate = s.ewbLate := rfl
@[simp] theorem State.after_hostWait (s : State) (n : Nat) (i : Instr) (x : Subj) : (s.after n i x).hostWait = s.hostWait := rfl
@[simp] theorem State.after_hostFilter (s : State) (n : Nat) (i : Instr) (x : Subj) : (s.after n i x).hostFilter = s.hostFilter := rfl
@[simp] theorem State.after_filterWait (s : State) (n : Nat) (i : Instr) (x : Subj) : (s.after n i x).filterWait = s.filterWait := rfl
@[simp] theorem State.after_hostReads (s : State) (n : Nat) (i : Instr) (x : Subj) : (s.after n i x).hostReads = s.hostReads := rfl
@[simp] theorem State.after_priGroups (s : State) (n : Nat) (i : Instr) (x : Subj) : (s.after n i x).priGroups = s.priGroups := rfl
@[simp] theorem State.after_priOff (s : State) (n : Nat) (i : Instr) (x : Subj) : (s.after n i x).priOff = s.priOff := rfl
@[simp] theorem State.after_priAlloc (s : State) (n : Nat) (i : Instr) (x : Subj) : (s.after n i x).priAlloc = s.priAlloc := rfl
@[simp] theorem State.after_linkSlots (s : State) (n : Nat) (i : Instr) (x : Subj) : (s.after n i x).linkSlots = s.linkSlots := rfl
@[simp] theorem State.after_boots (s : State) (n : Nat) (i : Instr) (x : Subj) : (s.after n i x).boots = s.boots := rfl
@[simp] theorem State.after_mailbox (s : State) (n : Nat) (i : Instr) (x : Subj) : (s.after n i x).mailbox = s.mailbox := rfl
@[simp] theorem State.after_reports (s : State) (n : Nat) (i : Instr) (x : Subj) : (s.after n i x).reports = s.reports := rfl
@[simp] theorem State.after_eol (s : State) (n : Nat) (i : Instr) (x : Subj) : (s.after n i x).eol = s.eol := rfl
@[simp] theorem State.after_throttled (s : State) (n : Nat) (i : Instr) (x : Subj) : (s.after n i x).throttled = s.throttled := rfl
@[simp] theorem State.after_snagPrev (s : State) (n : Nat) (i : Instr) (x : Subj) : (s.after n i x).snagPrev = s.snagPrev := rfl

@[simp] theorem State.send_cycle (s : State) (a b : Nat) (i : Instr) (x : Subj) : (s.send a b i x).cycle = s.cycle := rfl
@[simp] theorem State.send_agenda (s : State) (a b : Nat) (i : Instr) (x : Subj) : (s.send a b i x).agenda = s.agenda := rfl
@[simp] theorem State.send_todo (s : State) (a b : Nat) (i : Instr) (x : Subj) : (s.send a b i x).todo = s.todo := rfl
@[simp] theorem State.send_draws (s : State) (a b : Nat) (i : Instr) (x : Subj) : (s.send a b i x).draws = s.draws := rfl
@[simp] theorem State.send_ctx (s : State) (a b : Nat) (i : Instr) (x : Subj) : (s.send a b i x).ctx = s.ctx := rfl
@[simp] theorem State.send_subj (s : State) (a b : Nat) (i : Instr) (x : Subj) : (s.send a b i x).subj = s.subj := rfl
@[simp] theorem State.send_cores (s : State) (a b : Nat) (i : Instr) (x : Subj) : (s.send a b i x).cores = s.cores := rfl
@[simp] theorem State.send_ports (s : State) (a b : Nat) (i : Instr) (x : Subj) : (s.send a b i x).ports = s.ports := rfl
@[simp] theorem State.send_spad (s : State) (a b : Nat) (i : Instr) (x : Subj) : (s.send a b i x).spad = s.spad := rfl
@[simp] theorem State.send_spadTag (s : State) (a b : Nat) (i : Instr) (x : Subj) : (s.send a b i x).spadTag = s.spadTag := rfl
@[simp] theorem State.send_hbm (s : State) (a b : Nat) (i : Instr) (x : Subj) : (s.send a b i x).hbm = s.hbm := rfl
@[simp] theorem State.send_hbmTag (s : State) (a b : Nat) (i : Instr) (x : Subj) : (s.send a b i x).hbmTag = s.hbmTag := rfl
@[simp] theorem State.send_host (s : State) (a b : Nat) (i : Instr) (x : Subj) : (s.send a b i x).host = s.host := rfl
@[simp] theorem State.send_istore (s : State) (a b : Nat) (i : Instr) (x : Subj) : (s.send a b i x).istore = s.istore := rfl
@[simp] theorem State.send_marks (s : State) (a b : Nat) (i : Instr) (x : Subj) : (s.send a b i x).marks = s.marks := rfl
@[simp] theorem State.send_devIdx (s : State) (a b : Nat) (i : Instr) (x : Subj) : (s.send a b i x).devIdx = s.devIdx := rfl
@[simp] theorem State.send_domTable (s : State) (a b : Nat) (i : Instr) (x : Subj) : (s.send a b i x).domTable = s.domTable := rfl
@[simp] theorem State.send_domains (s : State) (a b : Nat) (i : Instr) (x : Subj) : (s.send a b i x).domains = s.domains := rfl
@[simp] theorem State.send_wqs (s : State) (a b : Nat) (i : Instr) (x : Subj) : (s.send a b i x).wqs = s.wqs := rfl
@[simp] theorem State.send_tasks (s : State) (a b : Nat) (i : Instr) (x : Subj) : (s.send a b i x).tasks = s.tasks := rfl
@[simp] theorem State.send_deps (s : State) (a b : Nat) (i : Instr) (x : Subj) : (s.send a b i x).deps = s.deps := rfl
@[simp] theorem State.send_ages (s : State) (a b : Nat) (i : Instr) (x : Subj) : (s.send a b i x).ages = s.ages := rfl
@[simp] theorem State.send_requests (s : State) (a b : Nat) (i : Instr) (x : Subj) : (s.send a b i x).requests = s.requests := rfl
@[simp] theorem State.send_sysarg (s : State) (a b : Nat) (i : Instr) (x : Subj) : (s.send a b i x).sysarg = s.sysarg := rfl
@[simp] theorem State.send_sysq (s : State) (a b : Nat) (i : Instr) (x : Subj) : (s.send a b i x).sysq = s.sysq := rfl
@[simp] theorem State.send_sysstat (s : State) (a b : Nat) (i : Instr) (x : Subj) : (s.send a b i x).sysstat = s.sysstat := rfl
@[simp] theorem State.send_sealctl (s : State) (a b : Nat) (i : Instr) (x : Subj) : (s.send a b i x).sealctl = s.sealctl := rfl
@[simp] theorem State.send_undocfg (s : State) (a b : Nat) (i : Instr) (x : Subj) : (s.send a b i x).undocfg = s.undocfg := rfl
@[simp] theorem State.send_members (s : State) (a b : Nat) (i : Instr) (x : Subj) : (s.send a b i x).members = s.members := rfl
@[simp] theorem State.send_cutNo (s : State) (a b : Nat) (i : Instr) (x : Subj) : (s.send a b i x).cutNo = s.cutNo := rfl
@[simp] theorem State.send_sealedNo (s : State) (a b : Nat) (i : Instr) (x : Subj) : (s.send a b i x).sealedNo = s.sealedNo := rfl
@[simp] theorem State.send_seals (s : State) (a b : Nat) (i : Instr) (x : Subj) : (s.send a b i x).seals = s.seals := rfl
@[simp] theorem State.send_undo (s : State) (a b : Nat) (i : Instr) (x : Subj) : (s.send a b i x).undo = s.undo := rfl
@[simp] theorem State.send_logs (s : State) (a b : Nat) (i : Instr) (x : Subj) : (s.send a b i x).logs = s.logs := rfl
@[simp] theorem State.send_ewb (s : State) (a b : Nat) (i : Instr) (x : Subj) : (s.send a b i x).ewb = s.ewb := rfl
@[simp] theorem State.send_halted (s : State) (a b : Nat) (i : Instr) (x : Subj) : (s.send a b i x).halted = s.halted := rfl
@[simp] theorem State.send_msix (s : State) (a b : Nat) (i : Instr) (x : Subj) : (s.send a b i x).msix = s.msix := rfl
@[simp] theorem State.send_pri (s : State) (a b : Nat) (i : Instr) (x : Subj) : (s.send a b i x).pri = s.pri := rfl
@[simp] theorem State.send_portUp (s : State) (a b : Nat) (i : Instr) (x : Subj) : (s.send a b i x).portUp = s.portUp := rfl
@[simp] theorem State.send_bootstat (s : State) (a b : Nat) (i : Instr) (x : Subj) : (s.send a b i x).bootstat = s.bootstat := rfl
@[simp] theorem State.send_mgmt (s : State) (a b : Nat) (i : Instr) (x : Subj) : (s.send a b i x).mgmt = s.mgmt := rfl
@[simp] theorem State.send_pwrlim (s : State) (a b : Nat) (i : Instr) (x : Subj) : (s.send a b i x).pwrlim = s.pwrlim := rfl
@[simp] theorem State.send_cutWait (s : State) (a b : Nat) (i : Instr) (x : Subj) : (s.send a b i x).cutWait = s.cutWait := rfl
@[simp] theorem State.send_cutStart (s : State) (a b : Nat) (i : Instr) (x : Subj) : (s.send a b i x).cutStart = s.cutStart := rfl
@[simp] theorem State.send_saving (s : State) (a b : Nat) (i : Instr) (x : Subj) : (s.send a b i x).saving = s.saving := rfl
@[simp] theorem State.send_cutPending (s : State) (a b : Nat) (i : Instr) (x : Subj) : (s.send a b i x).cutPending = s.cutPending := rfl
@[simp] theorem State.send_markers (s : State) (a b : Nat) (i : Instr) (x : Subj) : (s.send a b i x).markers = s.markers := rfl
@[simp] theorem State.send_ewbHeld (s : State) (a b : Nat) (i : Instr) (x : Subj) : (s.send a b i x).ewbHeld = s.ewbHeld := rfl
@[simp] theorem State.send_ewbLate (s : State) (a b : Nat) (i : Instr) (x : Subj) : (s.send a b i x).ewbLate = s.ewbLate := rfl
@[simp] theorem State.send_hostWait (s : State) (a b : Nat) (i : Instr) (x : Subj) : (s.send a b i x).hostWait = s.hostWait := rfl
@[simp] theorem State.send_hostFilter (s : State) (a b : Nat) (i : Instr) (x : Subj) : (s.send a b i x).hostFilter = s.hostFilter := rfl
@[simp] theorem State.send_filterWait (s : State) (a b : Nat) (i : Instr) (x : Subj) : (s.send a b i x).filterWait = s.filterWait := rfl
@[simp] theorem State.send_hostReads (s : State) (a b : Nat) (i : Instr) (x : Subj) : (s.send a b i x).hostReads = s.hostReads := rfl
@[simp] theorem State.send_priGroups (s : State) (a b : Nat) (i : Instr) (x : Subj) : (s.send a b i x).priGroups = s.priGroups := rfl
@[simp] theorem State.send_priOff (s : State) (a b : Nat) (i : Instr) (x : Subj) : (s.send a b i x).priOff = s.priOff := rfl
@[simp] theorem State.send_priAlloc (s : State) (a b : Nat) (i : Instr) (x : Subj) : (s.send a b i x).priAlloc = s.priAlloc := rfl
@[simp] theorem State.send_linkSlots (s : State) (a b : Nat) (i : Instr) (x : Subj) : (s.send a b i x).linkSlots = s.linkSlots := rfl
@[simp] theorem State.send_boots (s : State) (a b : Nat) (i : Instr) (x : Subj) : (s.send a b i x).boots = s.boots := rfl
@[simp] theorem State.send_mailbox (s : State) (a b : Nat) (i : Instr) (x : Subj) : (s.send a b i x).mailbox = s.mailbox := rfl
@[simp] theorem State.send_reports (s : State) (a b : Nat) (i : Instr) (x : Subj) : (s.send a b i x).reports = s.reports := rfl
@[simp] theorem State.send_eol (s : State) (a b : Nat) (i : Instr) (x : Subj) : (s.send a b i x).eol = s.eol := rfl
@[simp] theorem State.send_throttled (s : State) (a b : Nat) (i : Instr) (x : Subj) : (s.send a b i x).throttled = s.throttled := rfl
@[simp] theorem State.send_snagPrev (s : State) (a b : Nat) (i : Instr) (x : Subj) : (s.send a b i x).snagPrev = s.snagPrev := rfl

@[simp] theorem State.setMark_cycle (s : State) (c g : Nat) (m : Mark) : (s.setMark c g m).cycle = s.cycle := rfl
@[simp] theorem State.setMark_agenda (s : State) (c g : Nat) (m : Mark) : (s.setMark c g m).agenda = s.agenda := rfl
@[simp] theorem State.setMark_todo (s : State) (c g : Nat) (m : Mark) : (s.setMark c g m).todo = s.todo := rfl
@[simp] theorem State.setMark_net (s : State) (c g : Nat) (m : Mark) : (s.setMark c g m).net = s.net := rfl
@[simp] theorem State.setMark_draws (s : State) (c g : Nat) (m : Mark) : (s.setMark c g m).draws = s.draws := rfl
@[simp] theorem State.setMark_ctx (s : State) (c g : Nat) (m : Mark) : (s.setMark c g m).ctx = s.ctx := rfl
@[simp] theorem State.setMark_subj (s : State) (c g : Nat) (m : Mark) : (s.setMark c g m).subj = s.subj := rfl
@[simp] theorem State.setMark_cores (s : State) (c g : Nat) (m : Mark) : (s.setMark c g m).cores = s.cores := rfl
@[simp] theorem State.setMark_ports (s : State) (c g : Nat) (m : Mark) : (s.setMark c g m).ports = s.ports := rfl
@[simp] theorem State.setMark_spad (s : State) (c g : Nat) (m : Mark) : (s.setMark c g m).spad = s.spad := rfl
@[simp] theorem State.setMark_spadTag (s : State) (c g : Nat) (m : Mark) : (s.setMark c g m).spadTag = s.spadTag := rfl
@[simp] theorem State.setMark_hbm (s : State) (c g : Nat) (m : Mark) : (s.setMark c g m).hbm = s.hbm := rfl
@[simp] theorem State.setMark_hbmTag (s : State) (c g : Nat) (m : Mark) : (s.setMark c g m).hbmTag = s.hbmTag := rfl
@[simp] theorem State.setMark_host (s : State) (c g : Nat) (m : Mark) : (s.setMark c g m).host = s.host := rfl
@[simp] theorem State.setMark_istore (s : State) (c g : Nat) (m : Mark) : (s.setMark c g m).istore = s.istore := rfl
@[simp] theorem State.setMark_devIdx (s : State) (c g : Nat) (m : Mark) : (s.setMark c g m).devIdx = s.devIdx := rfl
@[simp] theorem State.setMark_domTable (s : State) (c g : Nat) (m : Mark) : (s.setMark c g m).domTable = s.domTable := rfl
@[simp] theorem State.setMark_domains (s : State) (c g : Nat) (m : Mark) : (s.setMark c g m).domains = s.domains := rfl
@[simp] theorem State.setMark_wqs (s : State) (c g : Nat) (m : Mark) : (s.setMark c g m).wqs = s.wqs := rfl
@[simp] theorem State.setMark_tasks (s : State) (c g : Nat) (m : Mark) : (s.setMark c g m).tasks = s.tasks := rfl
@[simp] theorem State.setMark_deps (s : State) (c g : Nat) (m : Mark) : (s.setMark c g m).deps = s.deps := rfl
@[simp] theorem State.setMark_ages (s : State) (c g : Nat) (m : Mark) : (s.setMark c g m).ages = s.ages := rfl
@[simp] theorem State.setMark_requests (s : State) (c g : Nat) (m : Mark) : (s.setMark c g m).requests = s.requests := rfl
@[simp] theorem State.setMark_sysarg (s : State) (c g : Nat) (m : Mark) : (s.setMark c g m).sysarg = s.sysarg := rfl
@[simp] theorem State.setMark_sysq (s : State) (c g : Nat) (m : Mark) : (s.setMark c g m).sysq = s.sysq := rfl
@[simp] theorem State.setMark_sysstat (s : State) (c g : Nat) (m : Mark) : (s.setMark c g m).sysstat = s.sysstat := rfl
@[simp] theorem State.setMark_sealctl (s : State) (c g : Nat) (m : Mark) : (s.setMark c g m).sealctl = s.sealctl := rfl
@[simp] theorem State.setMark_undocfg (s : State) (c g : Nat) (m : Mark) : (s.setMark c g m).undocfg = s.undocfg := rfl
@[simp] theorem State.setMark_members (s : State) (c g : Nat) (m : Mark) : (s.setMark c g m).members = s.members := rfl
@[simp] theorem State.setMark_cutNo (s : State) (c g : Nat) (m : Mark) : (s.setMark c g m).cutNo = s.cutNo := rfl
@[simp] theorem State.setMark_sealedNo (s : State) (c g : Nat) (m : Mark) : (s.setMark c g m).sealedNo = s.sealedNo := rfl
@[simp] theorem State.setMark_seals (s : State) (c g : Nat) (m : Mark) : (s.setMark c g m).seals = s.seals := rfl
@[simp] theorem State.setMark_undo (s : State) (c g : Nat) (m : Mark) : (s.setMark c g m).undo = s.undo := rfl
@[simp] theorem State.setMark_logs (s : State) (c g : Nat) (m : Mark) : (s.setMark c g m).logs = s.logs := rfl
@[simp] theorem State.setMark_ewb (s : State) (c g : Nat) (m : Mark) : (s.setMark c g m).ewb = s.ewb := rfl
@[simp] theorem State.setMark_halted (s : State) (c g : Nat) (m : Mark) : (s.setMark c g m).halted = s.halted := rfl
@[simp] theorem State.setMark_msix (s : State) (c g : Nat) (m : Mark) : (s.setMark c g m).msix = s.msix := rfl
@[simp] theorem State.setMark_pri (s : State) (c g : Nat) (m : Mark) : (s.setMark c g m).pri = s.pri := rfl
@[simp] theorem State.setMark_portUp (s : State) (c g : Nat) (m : Mark) : (s.setMark c g m).portUp = s.portUp := rfl
@[simp] theorem State.setMark_bootstat (s : State) (c g : Nat) (m : Mark) : (s.setMark c g m).bootstat = s.bootstat := rfl
@[simp] theorem State.setMark_mgmt (s : State) (c g : Nat) (m : Mark) : (s.setMark c g m).mgmt = s.mgmt := rfl
@[simp] theorem State.setMark_pwrlim (s : State) (c g : Nat) (m : Mark) : (s.setMark c g m).pwrlim = s.pwrlim := rfl
@[simp] theorem State.setMark_cutWait (s : State) (c g : Nat) (m : Mark) : (s.setMark c g m).cutWait = s.cutWait := rfl
@[simp] theorem State.setMark_cutStart (s : State) (c g : Nat) (m : Mark) : (s.setMark c g m).cutStart = s.cutStart := rfl
@[simp] theorem State.setMark_saving (s : State) (c g : Nat) (m : Mark) : (s.setMark c g m).saving = s.saving := rfl
@[simp] theorem State.setMark_cutPending (s : State) (c g : Nat) (m : Mark) : (s.setMark c g m).cutPending = s.cutPending := rfl
@[simp] theorem State.setMark_markers (s : State) (c g : Nat) (m : Mark) : (s.setMark c g m).markers = s.markers := rfl
@[simp] theorem State.setMark_ewbHeld (s : State) (c g : Nat) (m : Mark) : (s.setMark c g m).ewbHeld = s.ewbHeld := rfl
@[simp] theorem State.setMark_ewbLate (s : State) (c g : Nat) (m : Mark) : (s.setMark c g m).ewbLate = s.ewbLate := rfl
@[simp] theorem State.setMark_hostWait (s : State) (c g : Nat) (m : Mark) : (s.setMark c g m).hostWait = s.hostWait := rfl
@[simp] theorem State.setMark_hostFilter (s : State) (c g : Nat) (m : Mark) : (s.setMark c g m).hostFilter = s.hostFilter := rfl
@[simp] theorem State.setMark_filterWait (s : State) (c g : Nat) (m : Mark) : (s.setMark c g m).filterWait = s.filterWait := rfl
@[simp] theorem State.setMark_hostReads (s : State) (c g : Nat) (m : Mark) : (s.setMark c g m).hostReads = s.hostReads := rfl
@[simp] theorem State.setMark_priGroups (s : State) (c g : Nat) (m : Mark) : (s.setMark c g m).priGroups = s.priGroups := rfl
@[simp] theorem State.setMark_priOff (s : State) (c g : Nat) (m : Mark) : (s.setMark c g m).priOff = s.priOff := rfl
@[simp] theorem State.setMark_priAlloc (s : State) (c g : Nat) (m : Mark) : (s.setMark c g m).priAlloc = s.priAlloc := rfl
@[simp] theorem State.setMark_linkSlots (s : State) (c g : Nat) (m : Mark) : (s.setMark c g m).linkSlots = s.linkSlots := rfl
@[simp] theorem State.setMark_boots (s : State) (c g : Nat) (m : Mark) : (s.setMark c g m).boots = s.boots := rfl
@[simp] theorem State.setMark_mailbox (s : State) (c g : Nat) (m : Mark) : (s.setMark c g m).mailbox = s.mailbox := rfl
@[simp] theorem State.setMark_reports (s : State) (c g : Nat) (m : Mark) : (s.setMark c g m).reports = s.reports := rfl
@[simp] theorem State.setMark_eol (s : State) (c g : Nat) (m : Mark) : (s.setMark c g m).eol = s.eol := rfl
@[simp] theorem State.setMark_throttled (s : State) (c g : Nat) (m : Mark) : (s.setMark c g m).throttled = s.throttled := rfl
@[simp] theorem State.setMark_snagPrev (s : State) (c g : Nat) (m : Mark) : (s.setMark c g m).snagPrev = s.snagPrev := rfl

@[simp] theorem State.onWord_cycle (s : State) (a : Bool) : (s.onWord a).cycle = s.cycle := rfl
@[simp] theorem State.onWord_agenda (s : State) (a : Bool) : (s.onWord a).agenda = s.agenda := rfl
@[simp] theorem State.onWord_todo (s : State) (a : Bool) : (s.onWord a).todo = s.todo := rfl
@[simp] theorem State.onWord_net (s : State) (a : Bool) : (s.onWord a).net = s.net := rfl
@[simp] theorem State.onWord_draws (s : State) (a : Bool) : (s.onWord a).draws = s.draws := rfl
@[simp] theorem State.onWord_subj (s : State) (a : Bool) : (s.onWord a).subj = s.subj := rfl
@[simp] theorem State.onWord_cores (s : State) (a : Bool) : (s.onWord a).cores = s.cores := rfl
@[simp] theorem State.onWord_ports (s : State) (a : Bool) : (s.onWord a).ports = s.ports := rfl
@[simp] theorem State.onWord_spad (s : State) (a : Bool) : (s.onWord a).spad = s.spad := rfl
@[simp] theorem State.onWord_spadTag (s : State) (a : Bool) : (s.onWord a).spadTag = s.spadTag := rfl
@[simp] theorem State.onWord_hbm (s : State) (a : Bool) : (s.onWord a).hbm = s.hbm := rfl
@[simp] theorem State.onWord_hbmTag (s : State) (a : Bool) : (s.onWord a).hbmTag = s.hbmTag := rfl
@[simp] theorem State.onWord_host (s : State) (a : Bool) : (s.onWord a).host = s.host := rfl
@[simp] theorem State.onWord_istore (s : State) (a : Bool) : (s.onWord a).istore = s.istore := rfl
@[simp] theorem State.onWord_marks (s : State) (a : Bool) : (s.onWord a).marks = s.marks := rfl
@[simp] theorem State.onWord_devIdx (s : State) (a : Bool) : (s.onWord a).devIdx = s.devIdx := rfl
@[simp] theorem State.onWord_domTable (s : State) (a : Bool) : (s.onWord a).domTable = s.domTable := rfl
@[simp] theorem State.onWord_domains (s : State) (a : Bool) : (s.onWord a).domains = s.domains := rfl
@[simp] theorem State.onWord_wqs (s : State) (a : Bool) : (s.onWord a).wqs = s.wqs := rfl
@[simp] theorem State.onWord_tasks (s : State) (a : Bool) : (s.onWord a).tasks = s.tasks := rfl
@[simp] theorem State.onWord_deps (s : State) (a : Bool) : (s.onWord a).deps = s.deps := rfl
@[simp] theorem State.onWord_ages (s : State) (a : Bool) : (s.onWord a).ages = s.ages := rfl
@[simp] theorem State.onWord_requests (s : State) (a : Bool) : (s.onWord a).requests = s.requests := rfl
@[simp] theorem State.onWord_sysarg (s : State) (a : Bool) : (s.onWord a).sysarg = s.sysarg := rfl
@[simp] theorem State.onWord_sysq (s : State) (a : Bool) : (s.onWord a).sysq = s.sysq := rfl
@[simp] theorem State.onWord_sysstat (s : State) (a : Bool) : (s.onWord a).sysstat = s.sysstat := rfl
@[simp] theorem State.onWord_sealctl (s : State) (a : Bool) : (s.onWord a).sealctl = s.sealctl := rfl
@[simp] theorem State.onWord_undocfg (s : State) (a : Bool) : (s.onWord a).undocfg = s.undocfg := rfl
@[simp] theorem State.onWord_members (s : State) (a : Bool) : (s.onWord a).members = s.members := rfl
@[simp] theorem State.onWord_cutNo (s : State) (a : Bool) : (s.onWord a).cutNo = s.cutNo := rfl
@[simp] theorem State.onWord_sealedNo (s : State) (a : Bool) : (s.onWord a).sealedNo = s.sealedNo := rfl
@[simp] theorem State.onWord_seals (s : State) (a : Bool) : (s.onWord a).seals = s.seals := rfl
@[simp] theorem State.onWord_undo (s : State) (a : Bool) : (s.onWord a).undo = s.undo := rfl
@[simp] theorem State.onWord_logs (s : State) (a : Bool) : (s.onWord a).logs = s.logs := rfl
@[simp] theorem State.onWord_ewb (s : State) (a : Bool) : (s.onWord a).ewb = s.ewb := rfl
@[simp] theorem State.onWord_halted (s : State) (a : Bool) : (s.onWord a).halted = s.halted := rfl
@[simp] theorem State.onWord_msix (s : State) (a : Bool) : (s.onWord a).msix = s.msix := rfl
@[simp] theorem State.onWord_pri (s : State) (a : Bool) : (s.onWord a).pri = s.pri := rfl
@[simp] theorem State.onWord_portUp (s : State) (a : Bool) : (s.onWord a).portUp = s.portUp := rfl
@[simp] theorem State.onWord_bootstat (s : State) (a : Bool) : (s.onWord a).bootstat = s.bootstat := rfl
@[simp] theorem State.onWord_mgmt (s : State) (a : Bool) : (s.onWord a).mgmt = s.mgmt := rfl
@[simp] theorem State.onWord_pwrlim (s : State) (a : Bool) : (s.onWord a).pwrlim = s.pwrlim := rfl
@[simp] theorem State.onWord_cutWait (s : State) (a : Bool) : (s.onWord a).cutWait = s.cutWait := rfl
@[simp] theorem State.onWord_cutStart (s : State) (a : Bool) : (s.onWord a).cutStart = s.cutStart := rfl
@[simp] theorem State.onWord_saving (s : State) (a : Bool) : (s.onWord a).saving = s.saving := rfl
@[simp] theorem State.onWord_cutPending (s : State) (a : Bool) : (s.onWord a).cutPending = s.cutPending := rfl
@[simp] theorem State.onWord_markers (s : State) (a : Bool) : (s.onWord a).markers = s.markers := rfl
@[simp] theorem State.onWord_ewbHeld (s : State) (a : Bool) : (s.onWord a).ewbHeld = s.ewbHeld := rfl
@[simp] theorem State.onWord_ewbLate (s : State) (a : Bool) : (s.onWord a).ewbLate = s.ewbLate := rfl
@[simp] theorem State.onWord_hostWait (s : State) (a : Bool) : (s.onWord a).hostWait = s.hostWait := rfl
@[simp] theorem State.onWord_hostFilter (s : State) (a : Bool) : (s.onWord a).hostFilter = s.hostFilter := rfl
@[simp] theorem State.onWord_filterWait (s : State) (a : Bool) : (s.onWord a).filterWait = s.filterWait := rfl
@[simp] theorem State.onWord_hostReads (s : State) (a : Bool) : (s.onWord a).hostReads = s.hostReads := rfl
@[simp] theorem State.onWord_priGroups (s : State) (a : Bool) : (s.onWord a).priGroups = s.priGroups := rfl
@[simp] theorem State.onWord_priOff (s : State) (a : Bool) : (s.onWord a).priOff = s.priOff := rfl
@[simp] theorem State.onWord_priAlloc (s : State) (a : Bool) : (s.onWord a).priAlloc = s.priAlloc := rfl
@[simp] theorem State.onWord_linkSlots (s : State) (a : Bool) : (s.onWord a).linkSlots = s.linkSlots := rfl
@[simp] theorem State.onWord_boots (s : State) (a : Bool) : (s.onWord a).boots = s.boots := rfl
@[simp] theorem State.onWord_mailbox (s : State) (a : Bool) : (s.onWord a).mailbox = s.mailbox := rfl
@[simp] theorem State.onWord_reports (s : State) (a : Bool) : (s.onWord a).reports = s.reports := rfl
@[simp] theorem State.onWord_eol (s : State) (a : Bool) : (s.onWord a).eol = s.eol := rfl
@[simp] theorem State.onWord_throttled (s : State) (a : Bool) : (s.onWord a).throttled = s.throttled := rfl
@[simp] theorem State.onWord_snagPrev (s : State) (a : Bool) : (s.onWord a).snagPrev = s.snagPrev := rfl

@[simp] theorem State.park_cycle (s : State) (c sl : Nat) (p : Park) : (s.park c sl p).cycle = s.cycle := rfl
@[simp] theorem State.park_agenda (s : State) (c sl : Nat) (p : Park) : (s.park c sl p).agenda = s.agenda := rfl
@[simp] theorem State.park_todo (s : State) (c sl : Nat) (p : Park) : (s.park c sl p).todo = s.todo := rfl
@[simp] theorem State.park_net (s : State) (c sl : Nat) (p : Park) : (s.park c sl p).net = s.net := rfl
@[simp] theorem State.park_draws (s : State) (c sl : Nat) (p : Park) : (s.park c sl p).draws = s.draws := rfl
@[simp] theorem State.park_ctx (s : State) (c sl : Nat) (p : Park) : (s.park c sl p).ctx = s.ctx := rfl
@[simp] theorem State.park_subj (s : State) (c sl : Nat) (p : Park) : (s.park c sl p).subj = s.subj := rfl
@[simp] theorem State.park_ports (s : State) (c sl : Nat) (p : Park) : (s.park c sl p).ports = s.ports := rfl
@[simp] theorem State.park_spad (s : State) (c sl : Nat) (p : Park) : (s.park c sl p).spad = s.spad := rfl
@[simp] theorem State.park_spadTag (s : State) (c sl : Nat) (p : Park) : (s.park c sl p).spadTag = s.spadTag := rfl
@[simp] theorem State.park_hbm (s : State) (c sl : Nat) (p : Park) : (s.park c sl p).hbm = s.hbm := rfl
@[simp] theorem State.park_hbmTag (s : State) (c sl : Nat) (p : Park) : (s.park c sl p).hbmTag = s.hbmTag := rfl
@[simp] theorem State.park_host (s : State) (c sl : Nat) (p : Park) : (s.park c sl p).host = s.host := rfl
@[simp] theorem State.park_istore (s : State) (c sl : Nat) (p : Park) : (s.park c sl p).istore = s.istore := rfl
@[simp] theorem State.park_marks (s : State) (c sl : Nat) (p : Park) : (s.park c sl p).marks = s.marks := rfl
@[simp] theorem State.park_devIdx (s : State) (c sl : Nat) (p : Park) : (s.park c sl p).devIdx = s.devIdx := rfl
@[simp] theorem State.park_domTable (s : State) (c sl : Nat) (p : Park) : (s.park c sl p).domTable = s.domTable := rfl
@[simp] theorem State.park_domains (s : State) (c sl : Nat) (p : Park) : (s.park c sl p).domains = s.domains := rfl
@[simp] theorem State.park_wqs (s : State) (c sl : Nat) (p : Park) : (s.park c sl p).wqs = s.wqs := rfl
@[simp] theorem State.park_tasks (s : State) (c sl : Nat) (p : Park) : (s.park c sl p).tasks = s.tasks := rfl
@[simp] theorem State.park_deps (s : State) (c sl : Nat) (p : Park) : (s.park c sl p).deps = s.deps := rfl
@[simp] theorem State.park_ages (s : State) (c sl : Nat) (p : Park) : (s.park c sl p).ages = s.ages := rfl
@[simp] theorem State.park_requests (s : State) (c sl : Nat) (p : Park) : (s.park c sl p).requests = s.requests := rfl
@[simp] theorem State.park_sysarg (s : State) (c sl : Nat) (p : Park) : (s.park c sl p).sysarg = s.sysarg := rfl
@[simp] theorem State.park_sysq (s : State) (c sl : Nat) (p : Park) : (s.park c sl p).sysq = s.sysq := rfl
@[simp] theorem State.park_sysstat (s : State) (c sl : Nat) (p : Park) : (s.park c sl p).sysstat = s.sysstat := rfl
@[simp] theorem State.park_sealctl (s : State) (c sl : Nat) (p : Park) : (s.park c sl p).sealctl = s.sealctl := rfl
@[simp] theorem State.park_undocfg (s : State) (c sl : Nat) (p : Park) : (s.park c sl p).undocfg = s.undocfg := rfl
@[simp] theorem State.park_members (s : State) (c sl : Nat) (p : Park) : (s.park c sl p).members = s.members := rfl
@[simp] theorem State.park_cutNo (s : State) (c sl : Nat) (p : Park) : (s.park c sl p).cutNo = s.cutNo := rfl
@[simp] theorem State.park_sealedNo (s : State) (c sl : Nat) (p : Park) : (s.park c sl p).sealedNo = s.sealedNo := rfl
@[simp] theorem State.park_seals (s : State) (c sl : Nat) (p : Park) : (s.park c sl p).seals = s.seals := rfl
@[simp] theorem State.park_undo (s : State) (c sl : Nat) (p : Park) : (s.park c sl p).undo = s.undo := rfl
@[simp] theorem State.park_logs (s : State) (c sl : Nat) (p : Park) : (s.park c sl p).logs = s.logs := rfl
@[simp] theorem State.park_ewb (s : State) (c sl : Nat) (p : Park) : (s.park c sl p).ewb = s.ewb := rfl
@[simp] theorem State.park_halted (s : State) (c sl : Nat) (p : Park) : (s.park c sl p).halted = s.halted := rfl
@[simp] theorem State.park_msix (s : State) (c sl : Nat) (p : Park) : (s.park c sl p).msix = s.msix := rfl
@[simp] theorem State.park_pri (s : State) (c sl : Nat) (p : Park) : (s.park c sl p).pri = s.pri := rfl
@[simp] theorem State.park_portUp (s : State) (c sl : Nat) (p : Park) : (s.park c sl p).portUp = s.portUp := rfl
@[simp] theorem State.park_bootstat (s : State) (c sl : Nat) (p : Park) : (s.park c sl p).bootstat = s.bootstat := rfl
@[simp] theorem State.park_mgmt (s : State) (c sl : Nat) (p : Park) : (s.park c sl p).mgmt = s.mgmt := rfl
@[simp] theorem State.park_pwrlim (s : State) (c sl : Nat) (p : Park) : (s.park c sl p).pwrlim = s.pwrlim := rfl
@[simp] theorem State.park_cutWait (s : State) (c sl : Nat) (p : Park) : (s.park c sl p).cutWait = s.cutWait := rfl
@[simp] theorem State.park_cutStart (s : State) (c sl : Nat) (p : Park) : (s.park c sl p).cutStart = s.cutStart := rfl
@[simp] theorem State.park_saving (s : State) (c sl : Nat) (p : Park) : (s.park c sl p).saving = s.saving := rfl
@[simp] theorem State.park_cutPending (s : State) (c sl : Nat) (p : Park) : (s.park c sl p).cutPending = s.cutPending := rfl
@[simp] theorem State.park_markers (s : State) (c sl : Nat) (p : Park) : (s.park c sl p).markers = s.markers := rfl
@[simp] theorem State.park_ewbHeld (s : State) (c sl : Nat) (p : Park) : (s.park c sl p).ewbHeld = s.ewbHeld := rfl
@[simp] theorem State.park_ewbLate (s : State) (c sl : Nat) (p : Park) : (s.park c sl p).ewbLate = s.ewbLate := rfl
@[simp] theorem State.park_hostWait (s : State) (c sl : Nat) (p : Park) : (s.park c sl p).hostWait = s.hostWait := rfl
@[simp] theorem State.park_hostFilter (s : State) (c sl : Nat) (p : Park) : (s.park c sl p).hostFilter = s.hostFilter := rfl
@[simp] theorem State.park_filterWait (s : State) (c sl : Nat) (p : Park) : (s.park c sl p).filterWait = s.filterWait := rfl
@[simp] theorem State.park_hostReads (s : State) (c sl : Nat) (p : Park) : (s.park c sl p).hostReads = s.hostReads := rfl
@[simp] theorem State.park_priGroups (s : State) (c sl : Nat) (p : Park) : (s.park c sl p).priGroups = s.priGroups := rfl
@[simp] theorem State.park_priOff (s : State) (c sl : Nat) (p : Park) : (s.park c sl p).priOff = s.priOff := rfl
@[simp] theorem State.park_priAlloc (s : State) (c sl : Nat) (p : Park) : (s.park c sl p).priAlloc = s.priAlloc := rfl
@[simp] theorem State.park_linkSlots (s : State) (c sl : Nat) (p : Park) : (s.park c sl p).linkSlots = s.linkSlots := rfl
@[simp] theorem State.park_boots (s : State) (c sl : Nat) (p : Park) : (s.park c sl p).boots = s.boots := rfl
@[simp] theorem State.park_mailbox (s : State) (c sl : Nat) (p : Park) : (s.park c sl p).mailbox = s.mailbox := rfl
@[simp] theorem State.park_reports (s : State) (c sl : Nat) (p : Park) : (s.park c sl p).reports = s.reports := rfl
@[simp] theorem State.park_eol (s : State) (c sl : Nat) (p : Park) : (s.park c sl p).eol = s.eol := rfl
@[simp] theorem State.park_throttled (s : State) (c sl : Nat) (p : Park) : (s.park c sl p).throttled = s.throttled := rfl
@[simp] theorem State.park_snagPrev (s : State) (c sl : Nat) (p : Park) : (s.park c sl p).snagPrev = s.snagPrev := rfl

end Sys2Proof.Machine
end

