-- ==== Sys2Proof/Laws/Tables.lean ====
section
/-! SUPPORT. Tables, vectors, cores and threads read after they are written. -/

namespace Sys2Proof.Machine

/-! Tables. -/

@[simp] theorem tget_tset_same {α : Type} (t : Table α) (k : Nat) (v : α) : tget (tset t k v) k = some v := by
  induction t with
  | nil => simp [tset, tget]
  | cons e r ih =>
    simp only [tset]
    split
    · have h : e.1 ≠ k := by omega
      simpa [tget, h] using ih
    · split <;> simp [tget]

@[simp] theorem tget_tset_ne {α : Type} (t : Table α) (k j : Nat) (v : α) (h : j ≠ k) : tget (tset t k v) j = tget t j := by
  have hk : ¬ k = j := fun e => h e.symm
  induction t with
  | nil => simp [tset, tget, hk]
  | cons e r ih =>
    simp only [tset]
    split
    · by_cases he : e.1 = j
      · simp [tget, he]
      · simpa [tget, he] using ih
    · split
      · rename_i he
        have he' : ¬ e.1 = j := by omega
        simp [tget, hk, he']
      · simp [tget, hk]

@[simp] theorem tget_tmod_same {α : Type} (t : Table α) (k : Nat) (f : α → α) : tget (tmod t k f) k = (tget t k).map f := by
  induction t with
  | nil => rfl
  | cons e r ih =>
    by_cases he : e.1 = k
    · simp [tmod, tget, he]
    · simpa [tmod, tget, he] using ih

@[simp] theorem tget_tmod_ne {α : Type} (t : Table α) (k j : Nat) (f : α → α) (h : j ≠ k) :
    tget (tmod t k f) j = tget t j := by
  induction t with
  | nil => rfl
  | cons e r ih =>
    by_cases he : e.1 = k
    · have hj : ¬ k = j := fun x => h x.symm
      simpa [tmod, tget, he, hj] using ih
    · by_cases hj : e.1 = j
      · simp [tmod, tget, hj, h]
      · simpa [tmod, tget, he, hj] using ih

@[simp] theorem tget_tdel_same {α : Type} (t : Table α) (k : Nat) : tget (tdel t k) k = none := by
  simp [tget, tdel]

@[simp] theorem tget_tdel_ne {α : Type} (t : Table α) (k j : Nat) (h : j ≠ k) : tget (tdel t k) j = tget t j := by
  induction t with
  | nil => rfl
  | cons e r ih =>
    by_cases he : e.1 = k
    · have hj : ¬ k = j := fun x => h x.symm
      simpa [tdel, tget, he, hj] using ih
    · by_cases hj : e.1 = j
      · simp [tdel, tget, hj, h]
      · simpa [tdel, tget, he, hj] using ih

/-! Vectors. -/

@[simp] theorem vget_vset_same {α : Type} {n : Nat} (d : α) (v : Vector α n) (i : Nat) (x : α) (h : i < n) :
    vget d (vset v i x) i = x := by
  simp [vget, vset, h]

@[simp] theorem vget_vset_ne {α : Type} {n : Nat} (d : α) (v : Vector α n) (i j : Nat) (x : α) (h : i ≠ j) :
    vget d (vset v i x) j = vget d v j := by
  simp [vget, vset, h]

/-! Cores. -/

@[simp] theorem State.coreAt_setCore_same (s : State) (c : Nat) (k : Core) : (s.setCore c k).coreAt c = k := by
  simp [State.coreAt, State.setCore]

@[simp] theorem State.coreAt_setCore_ne (s : State) (c j : Nat) (k : Core) (h : j ≠ c) :
    (s.setCore c k).coreAt j = s.coreAt j := by
  simp [State.coreAt, State.setCore, h]

@[simp] theorem State.coreAt_modCore_same (s : State) (c : Nat) (f : Core → Core) :
    (s.modCore c f).coreAt c = f (s.coreAt c) := by
  simp [State.modCore]

@[simp] theorem State.coreAt_modCore_ne (s : State) (c j : Nat) (f : Core → Core) (h : j ≠ c) :
    (s.modCore c f).coreAt j = s.coreAt j := by
  simp [State.modCore, h]

@[simp] theorem State.coreAt_at (s : State) (n : Nat) (e : Ev) (c : Nat) : (s.at n e).coreAt c = s.coreAt c := rfl
@[simp] theorem State.coreAt_after (s : State) (n : Nat) (i : Instr) (x : Subj) (c : Nat) :
    (s.after n i x).coreAt c = s.coreAt c := rfl
@[simp] theorem State.coreAt_send (s : State) (a b : Nat) (i : Instr) (x : Subj) (c : Nat) :
    (s.send a b i x).coreAt c = s.coreAt c := rfl
@[simp] theorem State.coreAt_onWord (s : State) (a : Bool) (c : Nat) : (s.onWord a).coreAt c = s.coreAt c := rfl
@[simp] theorem State.coreAt_modPort (s : State) (p : Nat) (f : Port → Port) (c : Nat) :
    (s.modPort p f).coreAt c = s.coreAt c := rfl
@[simp] theorem State.coreAt_modTask (s : State) (n : Nat) (f : Task → Task) (c : Nat) :
    (s.modTask n f).coreAt c = s.coreAt c := rfl

/-- A core applied a function to differs from the core before only at that core. -/
theorem State.coreAt_modCore (s : State) (c j : Nat) (f : Core → Core) :
    (s.modCore c f).coreAt j = if j = c then f (s.coreAt c) else s.coreAt j := by
  by_cases h : j = c
  · subst h; simp
  · simp [h]

/-! Threads. -/

@[simp] theorem State.threadAt_modCore_keep (s : State) (c j sl : Nat) (f : Core → Core)
    (h : (f (s.coreAt c)).threads = (s.coreAt c).threads) : (s.modCore c f).threadAt j sl = s.threadAt j sl := by
  by_cases hj : j = c
  · subst hj; simp [State.threadAt, h]
  · simp [State.threadAt, hj]

@[simp] theorem State.threadAt_at (s : State) (n : Nat) (e : Ev) (c sl : Nat) : (s.at n e).threadAt c sl = s.threadAt c sl :=
  rfl
@[simp] theorem State.threadAt_after (s : State) (n : Nat) (i : Instr) (x : Subj) (c sl : Nat) :
    (s.after n i x).threadAt c sl = s.threadAt c sl := rfl
@[simp] theorem State.threadAt_send (s : State) (a b : Nat) (i : Instr) (x : Subj) (c sl : Nat) :
    (s.send a b i x).threadAt c sl = s.threadAt c sl := rfl
@[simp] theorem State.threadAt_onWord (s : State) (a : Bool) (c sl : Nat) : (s.onWord a).threadAt c sl = s.threadAt c sl :=
  rfl
@[simp] theorem State.threadAt_modQueue (s : State) (j q : Nat) (f : Queue → Queue) (c sl : Nat) :
    (s.modQueue j q f).threadAt c sl = s.threadAt c sl := by
  unfold State.modQueue; simp

/-- The thread of a slot after a function was applied to it. -/
theorem State.threadAt_modThread (s : State) (c sl d sm : Nat) (f : Thread → Thread) :
    (s.modThread c sl f).threadAt d sm = if d = c ∧ sm = sl then (s.threadAt c sl).map f else s.threadAt d sm := by
  unfold State.threadAt State.modThread
  by_cases h : d = c
  · subst h
    by_cases h2 : sm = sl
    · subst h2; simp
    · simp [h2]
  · simp [h]

@[simp] theorem State.threadAt_modThread_same (s : State) (c sl : Nat) (f : Thread → Thread) :
    (s.modThread c sl f).threadAt c sl = (s.threadAt c sl).map f := by
  simp [State.threadAt_modThread]

theorem State.threadAt_modThread_ne (s : State) (c sl d sm : Nat) (f : Thread → Thread) (h : ¬(d = c ∧ sm = sl)) :
    (s.modThread c sl f).threadAt d sm = s.threadAt d sm := by
  simp [State.threadAt_modThread, h]

@[simp] theorem State.threadAt_setThread_same (s : State) (c sl : Nat) (t : Thread) :
    (s.setThread c sl t).threadAt c sl = some t := by
  simp [State.threadAt, State.setThread]

@[simp] theorem State.threadAt_dropThread_same (s : State) (c sl : Nat) : (s.dropThread c sl).threadAt c sl = none := by
  simp [State.threadAt, State.dropThread]

end Sys2Proof.Machine
end

