-- ==== Sys2Proof/Laws/Issue.lean ====
section
/-! SUPPORT. A word of a bundle (R23, R45): what `runWord` does in each way, once, for every instruction of a bundle. -/

namespace Sys2Proof.Machine

@[simp] theorem State.onWord_mode (s : State) (a : Bool) : (s.onWord a).ctx.mode = s.ctx.mode := rfl
@[simp] theorem State.onWord_core (s : State) (a : Bool) : (s.onWord a).ctx.core = s.ctx.core := rfl
@[simp] theorem State.onWord_slot (s : State) (a : Bool) : (s.onWord a).ctx.slot = s.ctx.slot := rfl
@[simp] theorem State.onWord_pre (s : State) (a : Bool) : (s.onWord a).ctx.pre = s.ctx.pre := rfl
@[simp] theorem State.onWord_pc (s : State) (a : Bool) : (s.onWord a).ctx.org.pc = s.ctx.org.pc := rfl
@[simp] theorem State.onWord_cur (s : State) (a : Bool) : (s.onWord a).cur = s.cur := rfl
@[simp] theorem State.onWord_curCore (s : State) (a : Bool) : (s.onWord a).curCore = s.curCore := rfl

/-- While both words act, they read the thread as it was at issue (R46). -/
theorem State.view_of_commit {s : State} (h : s.ctx.mode = .commit) : s.view = s.ctx.pre := by simp [State.view, h]

theorem State.view_onWord {s : State} (h : s.ctx.mode = .commit) (a : Bool) : (s.onWord a).view = s.ctx.pre := by
  simp [State.view, h]

@[simp] theorem State.popsBefore_onWord (s : State) (a : Bool) (b : List (BitVec 5)) (q : Nat) :
    (s.onWord a).popsBefore b q = s.popsBefore b q := rfl
@[simp] theorem State.seenQueue_onWord (s : State) (a : Bool) (q : Nat) : (s.onWord a).seenQueue q = s.seenQueue q := rfl

/-- A source field reads the same whichever word names it. -/
theorem State.sval_onWord {s : State} (h : s.ctx.mode = .commit) (a : Bool) (c : BitVec 5) (b : List (BitVec 5)) :
    (s.onWord a).sval c b = s.sval c b := by
  simp [State.sval, State.view_onWord h, State.view_of_commit h]

theorem State.sval4_onWord {s : State} (h : s.ctx.mode = .commit) (a : Bool) (c : BitVec 4) :
    (s.onWord a).sval4 c = s.sval4 c := by
  simp [State.sval4, State.view_onWord h, State.view_of_commit h]

/-! Addresses and their checks do not depend on the word. -/

/-- The check of R15 depends on the core's placement tables alone. -/
theorem State.r15_congr {s t : State} {c : Nat} (h1 : ∀ d, s.devOk c d = t.devOk c d)
    (h2 : ∀ d, s.coreOk c d = t.coreOk c d) (a : Word) : s.r15 c a = t.r15 c a := by
  unfold State.r15
  rw [h1, h2]
/-- So does the home of an address. -/
theorem State.homeOf_congr {s t : State} {c : Nat} (h1 : ∀ d, s.ownDev c d = t.ownDev c d)
    (h2 : s.coreAt c = t.coreAt c) (a : Word) : s.homeOf c a = t.homeOf c a := by
  unfold State.homeOf
  simp only [h1, h2]
@[simp] theorem State.r15_onWord (s : State) (w : Bool) (c : Nat) (a : Word) : (s.onWord w).r15 c a = s.r15 c a :=
  State.r15_congr (fun _ => rfl) (fun _ => rfl) a
@[simp] theorem State.r15Span_onWord (s : State) (w : Bool) (c : Nat) (a : Word) (n : Nat) :
    (s.onWord w).r15Span c a n = s.r15Span c a n := by
  simp only [State.r15Span, State.r15_onWord]
@[simp] theorem State.homeOf_onWord (s : State) (w : Bool) (c : Nat) (a : Word) :
    (s.onWord w).homeOf c a = s.homeOf c a := State.homeOf_congr (fun _ => rfl) rfl a
/-- The checks of R127 depend on R15 alone. -/
theorem State.segCheck_congr {s t : State} (h : s.r15Span s.ctx.core = t.r15Span t.ctx.core) (g : Seg) (off : Int) (n : Nat)
    (r w : Bool) (al : Nat) : s.segCheck g off n r w al = t.segCheck g off n r w al := by
  unfold State.segCheck
  rw [h]
@[simp] theorem State.segCheck_onWord (s : State) (b : Bool) (g : Seg) (off : Int) (n : Nat) (r w : Bool) (al : Nat) :
    (s.onWord b).segCheck g off n r w al = s.segCheck g off n r w al :=
  State.segCheck_congr (funext fun a => funext fun k => State.r15Span_onWord s b _ a k) g off n r w al
theorem State.check_onWord {s : State} (h : s.ctx.mode = .commit) (b : Bool) (m : MemRef) (n : Nat) (r w : Bool) (al : Nat) :
    (s.onWord b).check m n r w al = s.check m n r w al := by
  simp only [State.check, State.segCheck_onWord, State.view_onWord h, State.view_of_commit h]
theorem State.refCM_onWord {s : State} (h : s.ctx.mode = .commit) (b : Bool) (sg : BitVec 3) (ix : Bool) (idx : BitVec 4)
    (l : Lit) (k : Nat) : (s.onWord b).refCM sg ix idx l k = s.refCM sg ix idx l k := by
  simp only [State.refCM, State.sval4_onWord h]
theorem State.refR_onWord {s : State} (h : s.ctx.mode = .commit) (b : Bool) (m : MemR) (l : List (BitVec 5)) :
    (s.onWord b).refR m l = s.refR m l := by
  simp only [State.refR, State.sval_onWord h]

theorem cur_isNone_of {s : State} (h : s.cur.isSome = true) : s.cur.isNone = false := by
  cases hc : s.cur <;> simp_all

/-! What a word pops. -/

@[simp] theorem State.popAll_nil (s : State) : s.popAll [] = s := rfl
@[simp] theorem scalarAcc_pops (src : List (BitVec 5)) (dst : List (BitVec 5 × Option Nat)) (rd : List RegDst)
    (wr : List (RegDst × Option Nat)) : (scalarAcc src dst rd wr).pops = popsOf src := rfl
@[simp] theorem popsOf_nil : popsOf [] = [] := rfl

/-- A word that issues performs its effect and removes the entries it pops. -/
theorem runWord_issues {s : State} {neg : Bool} {grd : BitVec 3} (h : s.Issues neg grd) (aWord : Bool) (stall : Nat)
    (w : WordSpec) : runWord aWord neg grd stall w s = .next (w.perform (s.onWord aWord)) := by
  have h3 : (s.onWord aWord).ctx.mode = .commit := h.mode
  unfold runWord
  simp only [cur_isNone_of h.here, h3, Bool.false_eq_true, if_false, State.view_onWord h.mode, h.guard, if_true]

/-- A word of an issuing bundle whose guard is false does nothing. -/
theorem runWord_skips {s : State} {neg : Bool} {grd : BitVec 3} (hm : s.ctx.mode = .commit) (hc : s.cur.isSome = true)
    (hg : s.ctx.pre.guard neg grd = false) (aWord : Bool) (stall : Nat) (w : WordSpec) :
    runWord aWord neg grd stall w s = .next (s.onWord aWord) := by
  unfold runWord
  simp [cur_isNone_of hc, hm, State.view_onWord hm, hg]

/-- What an issuing word can answer: nothing done, or its effect. -/
theorem runWord_commit_cases {s t : State} {neg aWord : Bool} {grd : BitVec 3} {stall : Nat} {w : WordSpec}
    (hm : s.ctx.mode = .commit) (h : runWord aWord neg grd stall w s = .next t) :
    t = s.onWord aWord ∨ t = w.perform (s.onWord aWord) := by
  have h3 : (s.onWord aWord).ctx.mode = .commit := hm
  unfold runWord at h
  split at h
  · cases h
  · simp only [h3] at h
    split at h
    · exact .inr (Host.Outcome.next.inj h).symm
    · exact .inl (Host.Outcome.next.inj h).symm

/-- A word stops only where its slot is empty. -/
theorem runWord_answers (s : State) (neg aWord : Bool) (grd : BitVec 3) (stall : Nat) (w : WordSpec)
    (h : s.cur.isSome = true) : ∃ t, runWord aWord neg grd stall w s = .next t := by
  unfold runWord
  simp only [cur_isNone_of h, Bool.false_eq_true, if_false]
  split
  · exact ⟨_, rfl⟩
  · split <;> exact ⟨_, rfl⟩
  · split <;> exact ⟨_, rfl⟩
  · exact ⟨_, rfl⟩
  · split <;> exact ⟨_, rfl⟩

end Sys2Proof.Machine
end

