-- ==== Sys2Proof/Laws/Channel.lean ====
section
/-! SUPPORT. Eyelets (R194–R221): what reading one gives after one is changed, and what sending on a channel of one peer
does. -/

namespace Sys2Proof.Machine

@[simp] theorem State.eyAt_modEy_same (s : State) (c e : Nat) (f : Eyelet → Eyelet) (h : e < 16) :
    (s.modEy c e f).eyAt c e = f (s.eyAt c e) := by
  simp [State.eyAt, State.modEy, Core.ey, h]
theorem State.eyAt_modEy_ne (s : State) (c e k i : Nat) (f : Eyelet → Eyelet) (h : ¬(k = c ∧ i = e)) :
    (s.modEy c e f).eyAt k i = s.eyAt k i := by
  unfold State.modEy State.eyAt
  by_cases hk : k = c
  · subst hk
    have : e ≠ i := fun hi => h ⟨rfl, hi.symm⟩
    simp [Core.ey, this]
  · simp [hk]
@[simp] theorem State.eyAt_send (s : State) (a b : Nat) (i : Instr) (x : Subj) (c e : Nat) :
    (s.send a b i x).eyAt c e = s.eyAt c e := rfl
@[simp] theorem State.eyAt_onWord (s : State) (a : Bool) (c e : Nat) : (s.onWord a).eyAt c e = s.eyAt c e := rfl
@[simp] theorem State.net_modEy (s : State) (c e : Nat) (f : Eyelet → Eyelet) : (s.modEy c e f).net = s.net := rfl
@[simp] theorem State.net_modCur (s : State) (f : Thread → Thread) : (s.modCur f).net = s.net := rfl
@[simp] theorem State.locNode_modEy (s : State) (c e : Nat) (f : Eyelet → Eyelet) (l : EyLoc) :
    (s.modEy c e f).locNode l = s.locNode l := rfl
@[simp] theorem State.ownLoc_modEy (s : State) (c e k i : Nat) (f : Eyelet → Eyelet) :
    (s.modEy c e f).ownLoc k i = s.ownLoc k i := rfl
@[simp] theorem State.eyAt_freeLinks (s : State) (c e k i : Nat) : (s.freeLinks c e).eyAt k i = s.eyAt k i := rfl
@[simp] theorem State.net_freeLinks (s : State) (c e : Nat) : (s.freeLinks c e).net = s.net := rfl

/-- A core's interval is not changed with its eyelets. -/
@[simp] theorem State.rinOf_modEy (s : State) (c e n : Nat) (f : Eyelet → Eyelet) : (s.modEy c e f).rinOf n = s.rinOf n := by
  have (k : Nat) : ((s.modEy c e f).coreAt k).rinCur = (s.coreAt k).rinCur := by
    unfold State.modEy
    by_cases hk : k = c
    · subst hk; simp
    · simp [hk]
  unfold State.rinOf
  simp only [this]
  rfl

/-- Releasing what is held by an eyelet changes no eyelet. -/
@[simp] theorem State.eyAt_releaseHold (s : State) (c e k i : Nat) : (s.releaseHold c e).eyAt k i = s.eyAt k i := by
  unfold State.releaseHold State.eyAt
  by_cases hk : k = c
  · subst hk; simp [Core.ey]
  · simp [hk]
@[simp] theorem State.net_releaseHold (s : State) (c e : Nat) : (s.releaseHold c e).net = s.net := rfl

/-- Leaving a connection with an empty ring, no peer of which is moving, sends nothing. -/
theorem State.unbindEy_of_empty {s : State} {c e : Nat} (h : (s.eyAt c e).ring = [])
    (ht : (s.eyAt c e).members.filter (·.transit) = []) :
    s.unbindEy c e = (s.freeLinks c e).modEy c e Eyelet.unbind := by
  simp [State.unbindEy, State.keepTransit, h, ht]

/-- A message of an eyelet with one peer that is not moving (R201). -/
theorem State.chanSend_one {s : State} {c e : Nat} {p : Member} (h : (s.eyAt c e).members = [p]) (ht : p.transit = false)
    (m : ChMsg) : s.chanSend c e m =
      (s.send c (s.locNode p.loc) (.channelMessageArrival (s.ownLoc c e) p.loc p.connid m)).modEy c e fun y =>
        { y with sent := true, members := y.members.map fun p => { p with allow := p.allow - 1 } } := by
  simp [State.chanSend, h, State.toMember, ht]

/-- STATE moves on where NEXT is no end state (R210). -/
theorem State.chanNext_on {s : State} {c e w : Nat}
    (h : stKind (((s.eyAt c e).lace.map (·.image)).getD []) (trNext w) ≠ 7) :
    s.chanNext c e w = s.modEy c e fun y => { y with state := trNext w } := by
  simp [State.chanNext, h]

/-- Two changes that agree on the eyelet make the same state. -/
theorem State.modEy_congr {s : State} {c e : Nat} {f g : Eyelet → Eyelet} (h : f (s.eyAt c e) = g (s.eyAt c e)) :
    s.modEy c e f = s.modEy c e g := by
  simp only [State.modEy, State.modCore]
  congr 2
  show vset _ e (f (s.eyAt c e)) = vset _ e (g (s.eyAt c e))
  rw [h]
/-- Without a held request there is nothing to refuse (R207). -/
theorem State.refuseHeld_of_none {s : State} {c e : Nat} (h : (s.eyAt c e).held = none) : s.refuseHeld c e = s := by
  unfold State.refuseHeld
  rw [h]
/-- A thread stays where it is while an eyelet changes. -/
@[simp] theorem State.who_modEy (s : State) (c e : Nat) (f : Eyelet → Eyelet) (w : SlotRef) :
    (s.modEy c e f).who w = s.who w := by
  unfold State.who State.modEy
  rw [State.threadAt_modCore_keep]
  rfl

end Sys2Proof.Machine
end

