-- ==== Sys2Proof/Laws/Fields.lean ====
section
/-! SUPPORT. Reading a field back from the fields a word is put together from (R22): what `fieldOf` and `bitOf` give of
`put` and `putB`. -/

namespace Sys2Proof

theorem fieldOf_or (a b : BitVec 32) (lo n : Nat) : fieldOf (a ||| b) lo n = fieldOf a lo n ||| fieldOf b lo n := by
  unfold fieldOf; ext i; simp
theorem bitOf_or (a b : BitVec 32) (i : Nat) : bitOf (a ||| b) i = (bitOf a i || bitOf b i) := by
  unfold bitOf; simp
theorem fieldOf_put_low {m : Nat} (v : BitVec m) (k lo n : Nat) (h : k + m ≤ lo) : fieldOf (put v k) lo n = 0 := by
  unfold fieldOf put; apply BitVec.eq_of_getLsbD_eq; intro i hi
  simp [hi]; intros
  exact BitVec.getLsbD_of_ge _ _ (by omega)
theorem fieldOf_put_high {m : Nat} (v : BitVec m) (k lo n : Nat) (h : lo + n ≤ k) : fieldOf (put v k) lo n = 0 := by
  unfold fieldOf put; apply BitVec.eq_of_getLsbD_eq; intro i hi
  simp [hi]; intros; omega
theorem fieldOf_put_at {m : Nat} (v : BitVec m) (k n : Nat) (h : k + m ≤ 32) : fieldOf (put v k) k n = v.setWidth n := by
  unfold fieldOf put; apply BitVec.eq_of_getLsbD_eq; intro i hi
  simp [hi]
  by_cases h3 : i < m
  · simp [show k + i < 32 by omega, show i < 32 by omega]
  · simp [BitVec.getLsbD_of_ge v i (by omega)]
theorem bitOf_put_out {m : Nat} (v : BitVec m) (k i : Nat) (h : i < k ∨ k + m ≤ i) : bitOf (put v k) i = false := by
  unfold bitOf put
  rcases h with h | h
  · simp [h]
  · simp; intros; exact BitVec.getLsbD_of_ge _ _ (by omega)
theorem putB_getLsbD (b : Bool) (k i : Nat) (hk : k < 32) : (putB b k).getLsbD i = (b && decide (i = k)) := by
  unfold putB; cases b
  · simp
  · simp [BitVec.getLsbD_shiftLeft]
    by_cases h : i = k
    · subst h; simp [hk]
    · simp [h]; intro h1 h2; omega
theorem bitOf_putB (b : Bool) (k i : Nat) (hk : k < 32) : bitOf (putB b k) i = (b && decide (i = k)) := putB_getLsbD b k i hk
theorem fieldOf_putB_out (b : Bool) (k lo n : Nat) (hk : k < 32) (h : k < lo ∨ lo + n ≤ k) : fieldOf (putB b k) lo n = 0 := by
  unfold fieldOf; apply BitVec.eq_of_getLsbD_eq; intro i hi
  simp [hi, putB_getLsbD b k _ hk]; intros; omega
theorem fieldOf_zero (lo n : Nat) : fieldOf 0 lo n = 0 := by unfold fieldOf; simp

end Sys2Proof
end

