-- ==== Sys2Proof/Laws/Memory.lean ====
section
/-! SUPPORT. Sparse memories: every write keeps the canonical form, a byte reads as it was last written, and a write leaves
every other byte alone. -/

namespace Sys2Proof.Machine

/-! The canonical form. -/

theorem Memory.wf_nil : Memory.wf [] = true := rfl

/-- The form below a bound, without the Bool. -/
theorem Memory.go_cons (b : Option Nat) (c : Host.Cell) (r : Memory) :
    Memory.wf.go b (c :: r) = true ↔ (∀ a, b = some a → a < c.1) ∧ c.2 ≠ 0 ∧ Memory.wf.go (some c.1) r = true := by
  cases b <;> simp [Memory.wf.go, and_assoc]

theorem Memory.go_weaken (r : Memory) (a b : Nat) (h : Memory.wf.go (some a) r = true) (hb : b ≤ a) :
    Memory.wf.go (some b) r = true := by
  cases r with
  | nil => rfl
  | cons c r =>
    rw [Memory.go_cons] at h ⊢
    refine ⟨fun x hx => ?_, h.2⟩
    cases hx
    have := h.1 a rfl
    omega

theorem Memory.go_none (r : Memory) (b : Option Nat) (h : Memory.wf.go b r = true) : Memory.wf.go none r = true := by
  cases r with
  | nil => rfl
  | cons c r =>
    rw [Memory.go_cons] at h ⊢
    exact ⟨fun _ hx => by simp at hx, h.2⟩

theorem mset_go (m : Memory) : ∀ (b : Option Nat) (k : Nat) (v : Byte), Memory.wf.go b m = true →
    (∀ a, b = some a → a < k) → Memory.wf.go b (mset m k v) = true := by
  induction m with
  | nil =>
    intro b k v _ hk
    simp only [mset]
    split
    · rfl
    · rw [Memory.go_cons]; exact ⟨hk, by assumption, rfl⟩
  | cons c r ih =>
    intro b k v h hk
    rw [Memory.go_cons] at h
    simp only [mset]
    split
    · rename_i hlt
      rw [Memory.go_cons]
      exact ⟨h.1, h.2.1, ih _ _ _ h.2.2 (fun a ha => by cases ha; exact hlt)⟩
    · split
      · rename_i he
        split
        · cases b with
          | none => exact Memory.go_none _ _ h.2.2
          | some a => exact Memory.go_weaken _ _ _ h.2.2 (by have := hk a rfl; omega)
        · rw [Memory.go_cons]
          refine ⟨hk, by assumption, ?_⟩
          show Memory.wf.go (some k) r = true
          rw [← he]; exact h.2.2
      · split
        · rw [Memory.go_cons]; exact h
        · rw [Memory.go_cons]
          refine ⟨hk, by assumption, ?_⟩
          rw [Memory.go_cons]
          refine ⟨fun a ha => ?_, h.2⟩
          cases ha
          show k < c.1
          omega

/-- Writing a byte keeps the canonical form. -/
theorem mset_wf {m : Memory} (h : Memory.wf m = true) (k : Nat) (v : Byte) : Memory.wf (mset m k v) = true :=
  mset_go m none k v h (fun _ ha => by cases ha)

/-- Writing bytes keeps the canonical form. -/
theorem mwrite_wf (bs : List Byte) : ∀ {m : Memory} (k : Nat), Memory.wf m = true → Memory.wf (mwrite m k bs) = true := by
  induction bs with
  | nil => intro m k h; exact h
  | cons b bs ih => intro m k h; exact ih _ (mset_wf h _ _)

/-- Writing bytes one by one keeps the canonical form. -/
theorem foldl_mset_wf {α : Type} (f : α → Nat) (g : α → Byte) (l : List α) : ∀ {m : Memory}, Memory.wf m = true →
    Memory.wf (l.foldl (fun (m : Memory) x => mset m (f x) (g x)) m) = true := by
  induction l with
  | nil => intro m h; exact h
  | cons b bs ih => intro m h; exact ih (mset_wf h _ _)

/-- Dropping entries keeps the canonical form. -/
theorem filter_go (p : Host.Cell → Bool) (m : Memory) : ∀ b, Memory.wf.go b m = true →
    Memory.wf.go b (m.filter p) = true := by
  induction m with
  | nil => intro b h; exact h
  | cons c r ih =>
    intro b h
    rw [Memory.go_cons] at h
    by_cases hp : p c = true
    · rw [List.filter_cons_of_pos hp, Memory.go_cons]
      exact ⟨h.1, h.2.1, ih _ h.2.2⟩
    · rw [List.filter_cons_of_neg hp]
      cases b with
      | none => exact Memory.go_none _ _ (ih _ h.2.2)
      | some a => exact Memory.go_weaken _ _ _ (ih _ h.2.2) (by have := h.1 a rfl; omega)

theorem filter_wf (p : Host.Cell → Bool) {m : Memory} (h : Memory.wf m = true) : Memory.wf (m.filter p) = true :=
  filter_go p m none h

/-! Reads after writes. -/

theorem mget_cons (c : Host.Cell) (r : Memory) (j : Nat) : mget (c :: r) j = if c.1 = j then c.2 else mget r j := by
  by_cases h : c.1 = j <;> simp [mget, h]

theorem mget_below (m : Memory) : ∀ (b j : Nat), Memory.wf.go (some b) m = true → j ≤ b → mget m j = 0 := by
  induction m with
  | nil => intro b j _ _; rfl
  | cons c r ih =>
    intro b j h hj
    rw [Memory.go_cons] at h
    have hb := h.1 b rfl
    rw [mget_cons, if_neg (by omega)]
    exact ih c.1 j h.2.2 (by omega)

theorem mget_mset_go (m : Memory) : ∀ (b : Option Nat) (k : Nat) (v : Byte) (j : Nat), Memory.wf.go b m = true →
    mget (mset m k v) j = if j = k then v else mget m j := by
  induction m with
  | nil =>
    intro b k v j _
    simp only [mset]
    split
    · rename_i hv; split <;> simp [mget, hv]
    · rw [mget_cons]
      by_cases hj : j = k
      · simp [hj]
      · simp [hj, Ne.symm hj]
  | cons c r ih =>
    intro b k v j h
    rw [Memory.go_cons] at h
    simp only [mset]
    split
    · rename_i hlt
      rw [mget_cons, mget_cons, ih _ _ _ _ h.2.2]
      by_cases hj : j = k
      · subst hj; simp [show ¬ c.1 = j by omega]
      · simp [hj]
    · split
      · rename_i he
        by_cases hj : j = k
        · subst hj
          split
          · rename_i hv
            rw [if_pos rfl, hv]
            exact mget_below r c.1 j h.2.2 (by omega)
          · rw [mget_cons]; simp
        · have hc : ¬ c.1 = j := by omega
          split
          · simp [mget_cons, hc]
          · rw [mget_cons, mget_cons]; simp [hc, Ne.symm hj]
      · rename_i hn he
        by_cases hj : j = k
        · subst hj
          split
          · rename_i hv
            rw [if_pos rfl, hv, mget_cons, if_neg he]
            exact mget_below r c.1 j h.2.2 (by omega)
          · simp [mget_cons]
        · split
          · simp
          · rw [mget_cons]; simp [Ne.symm hj]

/-- A byte reads as it was last written, and a write leaves every other byte alone. -/
theorem mget_mset {m : Memory} (h : Memory.wf m = true) (k : Nat) (v : Byte) (j : Nat) :
    mget (mset m k v) j = if j = k then v else mget m j := mget_mset_go m none k v j h

/-- The same of a run of bytes. -/
theorem mget_mwrite (bs : List Byte) : ∀ {m : Memory} (k j : Nat), Memory.wf m = true →
    mget (mwrite m k bs) j = if k ≤ j ∧ j < k + bs.length then bs.getD (j - k) 0 else mget m j := by
  induction bs with
  | nil => intro m k j _; rw [if_neg (by simp)]; rfl
  | cons b bs ih =>
    intro m k j h
    show mget (mwrite (mset m k b) (k + 1) bs) j = _
    rw [ih _ _ (mset_wf h _ _), mget_mset h]
    simp only [List.length_cons]
    by_cases h1 : j = k
    · subst h1
      rw [if_neg (by omega), if_pos rfl, if_pos (by omega)]
      simp
    · by_cases h2 : k + 1 ≤ j ∧ j < k + 1 + bs.length
      · rw [if_pos h2, if_pos (by omega)]
        obtain ⟨d, rfl⟩ : ∃ d, j = k + 1 + d := ⟨j - (k + 1), by omega⟩
        rw [show k + 1 + d - (k + 1) = d by omega, show k + 1 + d - k = d + 1 by omega]
        simp
      · rw [if_neg h2, if_neg h1, if_neg (by omega)]

/-- Bytes read where they were just written. -/
theorem mread_mwrite {m : Memory} (h : Memory.wf m = true) (k : Nat) (bs : List Byte) :
    mread (mwrite m k bs) k bs.length = bs := by
  apply List.ext_getElem
  · simp [mread]
  · intro i h1 h2
    simp only [mread, List.getElem_map, List.getElem_range]
    rw [mget_mwrite bs k _ h, if_pos (by omega)]
    simp [h2]

/-- Bytes read outside what was written. -/
theorem mread_mwrite_ne {m : Memory} (h : Memory.wf m = true) (k : Nat) (bs : List Byte) (j n : Nat)
    (hd : j + n ≤ k ∨ k + bs.length ≤ j) : mread (mwrite m k bs) j n = mread m j n := by
  apply List.map_congr_left
  intro i hi
  rw [List.mem_range] at hi
  rw [mget_mwrite bs k _ h, if_neg (by omega)]

/-! Little-endian numbers (R1). -/

theorem toLE_length (n : Nat) : ∀ v, (toLE n v).length = n := by
  induction n with
  | zero => intro v; rfl
  | succ n ih => intro v; simp [toLE, ih]

theorem leNat_toLE (n : Nat) : ∀ v, leNat (toLE n v) = v % 256 ^ n := by
  induction n with
  | zero => intro v; simp [toLE, leNat, Nat.mod_one]
  | succ n ih =>
    intro v
    simp only [toLE, leNat, ih, BitVec.toNat_ofNat]
    rw [show 256 ^ (n + 1) = 256 * 256 ^ n from by rw [Nat.pow_succ, Nat.mul_comm], Nat.mod_mul]

end Sys2Proof.Machine
end

