-- ==== Sys2Proof/Laws/PerInstr.lean ====
section
/-! SUPPORT. What is said of every instruction as syntax, one lemma per constructor. -/

namespace Sys2Proof.Laws.HasWord

/-- An instruction has an encoding exactly if it is a word of a bundle (R21, R22), the encoding is an A-word exactly if
the instruction is one, and an A-word has no literal (R34). -/
def Statement (i : Instr) : Prop :=
  (encode i).isSome = (Machine.headOf i).isSome ∧
    ∀ e, encode i = some e → e.aWord = Machine.isAWord i ∧ (e.aWord = true → e.lit = none)

theorem of_some {i : Instr} {e : Enc} (h : encode i = some e) (h1 : (Machine.headOf i).isSome = true)
    (h2 : e.aWord = Machine.isAWord i) (h3 : e.aWord = true → e.lit = none) : Statement i :=
  ⟨by rw [h, h1]; rfl, fun _ hx => by rw [h] at hx; cases hx; exact ⟨h2, h3⟩⟩

theorem of_none {i : Instr} (h : encode i = none) (h1 : (Machine.headOf i).isSome = false) : Statement i :=
  ⟨by rw [h, h1]; rfl, fun _ hx => by rw [h] at hx; cases hx⟩

theorem nopC (h : CHead) : Statement (.nopC h) := of_some rfl rfl rfl fun h => nomatch h
theorem br (h : CHead) (d : Disp) : Statement (.br h d) := by cases d <;> exact of_some rfl rfl rfl fun h => nomatch h
theorem call (h : CHead) (d : Disp) : Statement (.call h d) := by cases d <;> exact of_some rfl rfl rfl fun h => nomatch h
theorem ret (h : CHead) : Statement (.ret h) := of_some rfl rfl rfl fun h => nomatch h
theorem jr (h : CHead) (a : BitVec 5) : Statement (.jr h a) := of_some rfl rfl rfl fun h => nomatch h
theorem loop (h : CHead) (cnt : BitVec 4) (d : BitVec 14) : Statement (.loop h cnt d) := of_some rfl rfl rfl fun h => nomatch h
theorem yield (h : CHead) : Statement (.yield h) := of_some rfl rfl rfl fun h => nomatch h
theorem halt (h : CHead) : Statement (.halt h) := of_some rfl rfl rfl fun h => nomatch h
theorem ld (h : CHead) (m : CM) : Statement (.ld h m) := of_some rfl rfl rfl fun h => nomatch h
theorem st (h : CHead) (m : CM) : Statement (.st h m) := of_some rfl rfl rfl fun h => nomatch h
theorem ldv (h : CHead) (m : CV) : Statement (.ldv h m) := of_some rfl rfl rfl fun h => nomatch h
theorem stv (h : CHead) (m : CV) : Statement (.stv h m) := of_some rfl rfl rfl fun h => nomatch h
theorem ldp (h : CHead) (m : CP) : Statement (.ldp h m) := of_some rfl rfl rfl fun h => nomatch h
theorem segld (h : CHead) (m : CSeg) : Statement (.segld h m) := of_some rfl rfl rfl fun h => nomatch h
theorem segst (h : CHead) (m : CSeg) : Statement (.segst h m) := of_some rfl rfl rfl fun h => nomatch h
theorem tagset (h : CHead) (a : BitVec 5) (m : MemR) : Statement (.tagset h a m) := of_some rfl rfl rfl fun h => nomatch h
theorem tagget (h : CHead) (a : BitVec 5) (m : MemR) : Statement (.tagget h a m) := of_some rfl rfl rfl fun h => nomatch h
theorem tlook (h : CHead) (a b : BitVec 5) : Statement (.tlook h a b) := of_some rfl rfl rfl fun h => nomatch h
theorem tfill (h : CHead) (a b c : BitVec 5) : Statement (.tfill h a b c) := of_some rfl rfl rfl fun h => nomatch h
theorem hsift (h : CHead) (m : MemR) (c : BitVec 5) : Statement (.hsift h m c) := of_some rfl rfl rfl fun h => nomatch h
theorem waitd (h : CHead) (n : BitVec 2) : Statement (.waitd h n) := of_some rfl rfl rfl fun h => nomatch h
theorem tcfg (h : CHead) (t : BitVec 3) (b : BitVec 5) : Statement (.tcfg h t b) := of_some rfl rfl rfl fun h => nomatch h
theorem tld (h : CHead) (t : BitVec 3) (m : MemR) : Statement (.tld h t m) := of_some rfl rfl rfl fun h => nomatch h
theorem tst (h : CHead) (t : BitVec 3) (m : MemR) : Statement (.tst h t m) := of_some rfl rfl rfl fun h => nomatch h
theorem tsave (h : CHead) (t : BitVec 3) (m : MemR) : Statement (.tsave h t m) := of_some rfl rfl rfl fun h => nomatch h
theorem trest (h : CHead) (t : BitVec 3) (m : MemR) : Statement (.trest h t m) := of_some rfl rfl rfl fun h => nomatch h
theorem tcmd (h : CHead) (a b c : BitVec 5) : Statement (.tcmd h a b c) := of_some rfl rfl rfl fun h => nomatch h
theorem elace (h : CHead) (e : BitVec 4) (m : MemR) : Statement (.elace h e m) := of_some rfl rfl rfl fun h => nomatch h
theorem econn (h : CHead) (e : BitVec 4) (b : BitVec 5) : Statement (.econn h e b) := of_some rfl rfl rfl fun h => nomatch h
theorem elisten (h : CHead) (e : BitVec 4) : Statement (.elisten h e) := of_some rfl rfl rfl fun h => nomatch h
theorem eaccept (h : CHead) (e : BitVec 4) (b : BitVec 5) : Statement (.eaccept h e b) := of_some rfl rfl rfl fun h => nomatch h
theorem egrant (h : CHead) (a b : BitVec 5) : Statement (.egrant h a b) := of_some rfl rfl rfl fun h => nomatch h
theorem eclose (h : CHead) (e : BitVec 4) : Statement (.eclose h e) := of_some rfl rfl rfl fun h => nomatch h
theorem estat (h : CHead) (a : BitVec 5) (e : BitVec 4) : Statement (.estat h a e) := of_some rfl rfl rfl fun h => nomatch h
theorem eslot (h : CHead) (a b : BitVec 5) : Statement (.eslot h a b) := of_some rfl rfl rfl fun h => nomatch h
theorem esend (h : CHead) (m : CE) : Statement (.esend h m) := of_some rfl rfl rfl fun h => nomatch h
theorem erecv (h : CHead) (m : CE) : Statement (.erecv h m) := of_some rfl rfl rfl fun h => nomatch h
theorem esel (h : CHead) (e : BitVec 4) (n : BitVec 2) : Statement (.esel h e n) := of_some rfl rfl rfl fun h => nomatch h
theorem eoffer (h : CHead) (e : BitVec 4) (b : BitVec 5) : Statement (.eoffer h e b) := of_some rfl rfl rfl fun h => nomatch h
theorem ealt (h : CHead) (a b : BitVec 5) : Statement (.ealt h a b) := of_some rfl rfl rfl fun h => nomatch h
theorem edeleg (h : CHead) (e : BitVec 4) (b : BitVec 5) : Statement (.edeleg h e b) := of_some rfl rfl rfl fun h => nomatch h
theorem ecatch (h : CHead) (e : BitVec 4) (b : BitVec 5) : Statement (.ecatch h e b) := of_some rfl rfl rfl fun h => nomatch h
theorem route (h : CHead) (a b : BitVec 5) : Statement (.route h a b) := of_some rfl rfl rfl fun h => nomatch h
theorem qcfg (h : CHead) (q : BitVec 4) (b : BitVec 5) : Statement (.qcfg h q b) := of_some rfl rfl rfl fun h => nomatch h
theorem spawn (h : CHead) (a b c : BitVec 5) : Statement (.spawn h a b c) := of_some rfl rfl rfl fun h => nomatch h
theorem wake (h : CHead) (a : BitVec 5) : Statement (.wake h a) := of_some rfl rfl rfl fun h => nomatch h
theorem marm (h : CHead) (n : BitVec 2) (m : MemR) : Statement (.marm h n m) := of_some rfl rfl rfl fun h => nomatch h
theorem mwait (h : CHead) (a b : BitVec 5) : Statement (.mwait h a b) := of_some rfl rfl rfl fun h => nomatch h
theorem mdisarm (h : CHead) (n : BitVec 2) : Statement (.mdisarm h n) := of_some rfl rfl rfl fun h => nomatch h
theorem barinit (h : CHead) (m : MemR) (c : BitVec 5) : Statement (.barinit h m c) := of_some rfl rfl rfl fun h => nomatch h
theorem bararr (h : CHead) (m : MemR) : Statement (.bararr h m) := of_some rfl rfl rfl fun h => nomatch h
theorem barwait (h : CHead) (a : BitVec 5) (m : MemR) (pd : BitVec 3) : Statement (.barwait h a m pd) := of_some rfl rfl rfl fun h => nomatch h
theorem gld (h : CHead) (m : CM) : Statement (.gld h m) := of_some rfl rfl rfl fun h => nomatch h
theorem gst (h : CHead) (m : CMS) : Statement (.gst h m) := of_some rfl rfl rfl fun h => nomatch h
theorem gstc (h : CHead) (m : CG) : Statement (.gstc h m) := of_some rfl rfl rfl fun h => nomatch h
theorem gatom (h : CHead) (m : CA) : Statement (.gatom h m) := of_some rfl rfl rfl fun h => nomatch h
theorem gred (h : CHead) (m : CARed) : Statement (.gred h m) := of_some rfl rfl rfl fun h => nomatch h
theorem amsg (h : CHead) (a : BitVec 5) (sg : BitVec 3) (lit : BitVec 32) : Statement (.amsg h a sg lit) := of_some rfl rfl rfl fun h => nomatch h
theorem frd (h : CHead) (a : BitVec 5) (m : MemR) : Statement (.frd h a m) := of_some rfl rfl rfl fun h => nomatch h
theorem copy (h : CHead) (y : CY) (len : CopyLen) : Statement (.copy h y len) := of_some rfl rfl rfl fun h => nomatch h
theorem copyg (h : CHead) (y : CY) (lst cnt : BitVec 4) (rowb : BitVec 16) : Statement (.copyg h y lst cnt rowb) := of_some rfl rfl rfl fun h => nomatch h
theorem cpref (h : CHead) (m : MemR) (c : BitVec 5) : Statement (.cpref h m c) := of_some rfl rfl rfl fun h => nomatch h
theorem fence (h : CHead) (scope : BitVec 2) : Statement (.fence h scope) := of_some rfl rfl rfl fun h => nomatch h
theorem travel (h : CHead) (m : MemR) : Statement (.travel h m) := of_some rfl rfl rfl fun h => nomatch h
theorem tspawn (h : CHead) (m : MemR) (c : BitVec 5) : Statement (.tspawn h m c) := of_some rfl rfl rfl fun h => nomatch h
theorem tseg (h : CHead) (a : BitVec 5) : Statement (.tseg h a) := of_some rfl rfl rfl fun h => nomatch h
theorem fork (h : CHead) (a b : BitVec 5) : Statement (.fork h a b) := of_some rfl rfl rfl fun h => nomatch h
theorem join (h : CHead) (a : BitVec 5) : Statement (.join h a) := of_some rfl rfl rfl fun h => nomatch h
theorem launch (h : CHead) (m : MemR) : Statement (.launch h m) := of_some rfl rfl rfl fun h => nomatch h
theorem grow (h : CHead) (a : BitVec 5) : Statement (.grow h a) := of_some rfl rfl rfl fun h => nomatch h
theorem commit (h : CHead) : Statement (.commit h) := of_some rfl rfl rfl fun h => nomatch h
theorem done (h : CHead) : Statement (.done h) := of_some rfl rfl rfl fun h => nomatch h
theorem sealCut (h : CHead) : Statement (.sealCut h) := of_some rfl rfl rfl fun h => nomatch h
theorem sealw (h : CHead) : Statement (.sealw h) := of_some rfl rfl rfl fun h => nomatch h
theorem rin (h : CHead) (a : BitVec 5) : Statement (.rin h a) := of_some rfl rfl rfl fun h => nomatch h
theorem xsync (h : CHead) : Statement (.xsync h) := of_some rfl rfl rfl fun h => nomatch h
theorem crd (h : CHead) (a : BitVec 5) (r : BitVec 12) : Statement (.crd h a r) := of_some rfl rfl rfl fun h => nomatch h
theorem cwr (h : CHead) (a : BitVec 5) (r : BitVec 12) : Statement (.cwr h a r) := of_some rfl rfl rfl fun h => nomatch h
theorem trap (h : CHead) (imm : BitVec 12) : Statement (.trap h imm) := of_some rfl rfl rfl fun h => nomatch h
theorem syscall (h : CHead) (imm : BitVec 12) : Statement (.syscall h imm) := of_some rfl rfl rfl fun h => nomatch h
theorem brk (h : CHead) (imm : BitVec 12) : Statement (.brk h imm) := of_some rfl rfl rfl fun h => nomatch h
theorem iload (h : CHead) (m : MemR) (c : BitVec 5) : Statement (.iload h m c) := of_some rfl rfl rfl fun h => nomatch h
theorem eret (h : CHead) : Statement (.eret h) := of_some rfl rfl rfl fun h => nomatch h
theorem nopA (h : AHead) : Statement (.nopA h) := of_some rfl rfl rfl fun _ => rfl
theorem add (h : AHead) (o : AR) : Statement (.add h o) := of_some rfl rfl rfl fun _ => rfl
theorem sub (h : AHead) (o : AR) : Statement (.sub h o) := of_some rfl rfl rfl fun _ => rfl
theorem mul (h : AHead) (o : AR) : Statement (.mul h o) := of_some rfl rfl rfl fun _ => rfl
theorem mulh (h : AHead) (o : AR) : Statement (.mulh h o) := of_some rfl rfl rfl fun _ => rfl
theorem mulhn (h : AHead) (o : AR) : Statement (.mulhn h o) := of_some rfl rfl rfl fun _ => rfl
theorem div (h : AHead) (o : AR) : Statement (.div h o) := of_some rfl rfl rfl fun _ => rfl
theorem divn (h : AHead) (o : AR) : Statement (.divn h o) := of_some rfl rfl rfl fun _ => rfl
theorem rem (h : AHead) (o : AR) : Statement (.rem h o) := of_some rfl rfl rfl fun _ => rfl
theorem remn (h : AHead) (o : AR) : Statement (.remn h o) := of_some rfl rfl rfl fun _ => rfl
theorem and (h : AHead) (o : AR) : Statement (.and h o) := of_some rfl rfl rfl fun _ => rfl
theorem or (h : AHead) (o : AR) : Statement (.or h o) := of_some rfl rfl rfl fun _ => rfl
theorem xor (h : AHead) (o : AR) : Statement (.xor h o) := of_some rfl rfl rfl fun _ => rfl
theorem andn (h : AHead) (o : AR) : Statement (.andn h o) := of_some rfl rfl rfl fun _ => rfl
theorem shl (h : AHead) (o : AR) : Statement (.shl h o) := of_some rfl rfl rfl fun _ => rfl
theorem shr (h : AHead) (o : AR) : Statement (.shr h o) := of_some rfl rfl rfl fun _ => rfl
theorem sra (h : AHead) (o : AR) : Statement (.sra h o) := of_some rfl rfl rfl fun _ => rfl
theorem rot (h : AHead) (o : AR) : Statement (.rot h o) := of_some rfl rfl rfl fun _ => rfl
theorem clz (h : AHead) (o : AU) : Statement (.clz h o) := of_some rfl rfl rfl fun _ => rfl
theorem ctz (h : AHead) (o : AU) : Statement (.ctz h o) := of_some rfl rfl rfl fun _ => rfl
theorem popc (h : AHead) (o : AU) : Statement (.popc h o) := of_some rfl rfl rfl fun _ => rfl
theorem min (h : AHead) (o : AR) : Statement (.min h o) := of_some rfl rfl rfl fun _ => rfl
theorem max (h : AHead) (o : AR) : Statement (.max h o) := of_some rfl rfl rfl fun _ => rfl
theorem minn (h : AHead) (o : AR) : Statement (.minn h o) := of_some rfl rfl rfl fun _ => rfl
theorem maxn (h : AHead) (o : AR) : Statement (.maxn h o) := of_some rfl rfl rfl fun _ => rfl
theorem mov (h : AHead) (o : AU) : Statement (.mov h o) := of_some rfl rfl rfl fun _ => rfl
theorem sext8 (h : AHead) (o : AU) : Statement (.sext8 h o) := of_some rfl rfl rfl fun _ => rfl
theorem sext16 (h : AHead) (o : AU) : Statement (.sext16 h o) := of_some rfl rfl rfl fun _ => rfl
theorem sext32 (h : AHead) (o : AU) : Statement (.sext32 h o) := of_some rfl rfl rfl fun _ => rfl
theorem zext8 (h : AHead) (o : AU) : Statement (.zext8 h o) := of_some rfl rfl rfl fun _ => rfl
theorem zext16 (h : AHead) (o : AU) : Statement (.zext16 h o) := of_some rfl rfl rfl fun _ => rfl
theorem zext32 (h : AHead) (o : AU) : Statement (.zext32 h o) := of_some rfl rfl rfl fun _ => rfl
theorem lea (h : AHead) (o : AR) (k : BitVec 2) : Statement (.lea h o k) := of_some rfl rfl rfl fun _ => rfl
theorem sel (h : AHead) (o : AR) (k : BitVec 3) : Statement (.sel h o k) := of_some rfl rfl rfl fun _ => rfl
theorem addi (h : AHead) (d a : BitVec 5) (imm : BitVec 12) : Statement (.addi h d a imm) := of_some rfl rfl rfl fun _ => rfl
theorem movImm (h : AHead) (d : BitVec 5) (imm : BitVec 17) : Statement (.movImm h d imm) := of_some rfl rfl rfl fun _ => rfl
theorem movK (h : AHead) (d : BitVec 4) (k : BitVec 2) (imm : BitVec 16) : Statement (.movK h d k imm) := of_some rfl rfl rfl fun _ => rfl
theorem bfx (h : AHead) (o : AF) : Statement (.bfx h o) := of_some rfl rfl rfl fun _ => rfl
theorem bfi (h : AHead) (o : AF) : Statement (.bfi h o) := of_some rfl rfl rfl fun _ => rfl
theorem cmp (h : AHead) (pt pf : BitVec 3) (a b : BitVec 5) (cc : BitVec 4) : Statement (.cmp h pt pf a b cc) := of_some rfl rfl rfl fun _ => rfl
theorem cmpi (h : AHead) (pt pf : BitVec 3) (a : BitVec 5) (cc : BitVec 4) (imm : BitVec 7) : Statement (.cmpi h pt pf a cc imm) := of_some rfl rfl rfl fun _ => rfl
theorem pand (h : AHead) (o : AP) : Statement (.pand h o) := of_some rfl rfl rfl fun _ => rfl
theorem por (h : AHead) (o : AP) : Statement (.por h o) := of_some rfl rfl rfl fun _ => rfl
theorem pxor (h : AHead) (o : AP) : Statement (.pxor h o) := of_some rfl rfl rfl fun _ => rfl
theorem pmov (h : AHead) (pd pa : BitVec 3) (na : Bool) : Statement (.pmov h pd pa na) := of_some rfl rfl rfl fun _ => rfl
theorem fadd (h : AHead) (o : AFP) : Statement (.fadd h o) := of_some rfl rfl rfl fun _ => rfl
theorem fsub (h : AHead) (o : AFP) : Statement (.fsub h o) := of_some rfl rfl rfl fun _ => rfl
theorem fmul (h : AHead) (o : AFP) : Statement (.fmul h o) := of_some rfl rfl rfl fun _ => rfl
theorem fma (h : AHead) (o : AFP) : Statement (.fma h o) := of_some rfl rfl rfl fun _ => rfl
theorem fmin (h : AHead) (o : AFS) : Statement (.fmin h o) := of_some rfl rfl rfl fun _ => rfl
theorem fmax (h : AHead) (o : AFS) : Statement (.fmax h o) := of_some rfl rfl rfl fun _ => rfl
theorem fsgn (h : AHead) (o : AFS) : Statement (.fsgn h o) := of_some rfl rfl rfl fun _ => rfl
theorem fsgnN (h : AHead) (o : AFS) : Statement (.fsgnN h o) := of_some rfl rfl rfl fun _ => rfl
theorem fcmp (h : AHead) (pt pf : BitVec 3) (a b : BitVec 5) (fc : BitVec 3) (ft : BitVec 2) : Statement (.fcmp h pt pf a b fc ft) := of_some rfl rfl rfl fun _ => rfl
theorem cvt (h : AHead) (o : ACV) : Statement (.cvt h o) := of_some rfl rfl rfl fun _ => rfl
theorem vaddF (h : AHead) (o : VR) : Statement (.vaddF h o) := of_some rfl rfl rfl fun _ => rfl
theorem vaddI (h : AHead) (o : VR) : Statement (.vaddI h o) := of_some rfl rfl rfl fun _ => rfl
theorem vsubF (h : AHead) (o : VR) : Statement (.vsubF h o) := of_some rfl rfl rfl fun _ => rfl
theorem vsubI (h : AHead) (o : VR) : Statement (.vsubI h o) := of_some rfl rfl rfl fun _ => rfl
theorem vmulF (h : AHead) (o : VR) : Statement (.vmulF h o) := of_some rfl rfl rfl fun _ => rfl
theorem vmulI (h : AHead) (o : VR) : Statement (.vmulI h o) := of_some rfl rfl rfl fun _ => rfl
theorem vfma (h : AHead) (o : VR) : Statement (.vfma h o) := of_some rfl rfl rfl fun _ => rfl
theorem vfms (h : AHead) (o : VR) : Statement (.vfms h o) := of_some rfl rfl rfl fun _ => rfl
theorem vminF (h : AHead) (o : VR) : Statement (.vminF h o) := of_some rfl rfl rfl fun _ => rfl
theorem vminS (h : AHead) (o : VR) : Statement (.vminS h o) := of_some rfl rfl rfl fun _ => rfl
theorem vminN (h : AHead) (o : VR) : Statement (.vminN h o) := of_some rfl rfl rfl fun _ => rfl
theorem vmaxF (h : AHead) (o : VR) : Statement (.vmaxF h o) := of_some rfl rfl rfl fun _ => rfl
theorem vmaxS (h : AHead) (o : VR) : Statement (.vmaxS h o) := of_some rfl rfl rfl fun _ => rfl
theorem vmaxN (h : AHead) (o : VR) : Statement (.vmaxN h o) := of_some rfl rfl rfl fun _ => rfl
theorem vabsF (h : AHead) (o : VU) : Statement (.vabsF h o) := of_some rfl rfl rfl fun _ => rfl
theorem vnegF (h : AHead) (o : VU) : Statement (.vnegF h o) := of_some rfl rfl rfl fun _ => rfl
theorem vabsI (h : AHead) (o : VU) : Statement (.vabsI h o) := of_some rfl rfl rfl fun _ => rfl
theorem vnegI (h : AHead) (o : VU) : Statement (.vnegI h o) := of_some rfl rfl rfl fun _ => rfl
theorem vrcp (h : AHead) (o : VU) : Statement (.vrcp h o) := of_some rfl rfl rfl fun _ => rfl
theorem vrsq (h : AHead) (o : VU) : Statement (.vrsq h o) := of_some rfl rfl rfl fun _ => rfl
theorem vexp2 (h : AHead) (o : VU) : Statement (.vexp2 h o) := of_some rfl rfl rfl fun _ => rfl
theorem vlog2 (h : AHead) (o : VU) : Statement (.vlog2 h o) := of_some rfl rfl rfl fun _ => rfl
theorem vmov (h : AHead) (o : VU) : Statement (.vmov h o) := of_some rfl rfl rfl fun _ => rfl
theorem vand (h : AHead) (o : VR) : Statement (.vand h o) := of_some rfl rfl rfl fun _ => rfl
theorem vor (h : AHead) (o : VR) : Statement (.vor h o) := of_some rfl rfl rfl fun _ => rfl
theorem vxor (h : AHead) (o : VR) : Statement (.vxor h o) := of_some rfl rfl rfl fun _ => rfl
theorem vshl (h : AHead) (o : VR) : Statement (.vshl h o) := of_some rfl rfl rfl fun _ => rfl
theorem vshr (h : AHead) (o : VR) : Statement (.vshr h o) := of_some rfl rfl rfl fun _ => rfl
theorem vsra (h : AHead) (o : VR) : Statement (.vsra h o) := of_some rfl rfl rfl fun _ => rfl
theorem vcmpF (h : AHead) (o : VC) : Statement (.vcmpF h o) := of_some rfl rfl rfl fun _ => rfl
theorem vcmpI (h : AHead) (o : VC) : Statement (.vcmpI h o) := of_some rfl rfl rfl fun _ => rfl
theorem vsel (h : AHead) (o : VR) : Statement (.vsel h o) := of_some rfl rfl rfl fun _ => rfl
theorem vperm (h : AHead) (o : VP) : Statement (.vperm h o) := of_some rfl rfl rfl fun _ => rfl
theorem vbcast (h : AHead) (v s : BitVec 5) (w : BitVec 2) : Statement (.vbcast h v s w) := of_some rfl rfl rfl fun _ => rfl
theorem vext (h : AHead) (s v : BitVec 5) (lane : BitVec 6) (w : BitVec 2) : Statement (.vext h s v lane w) := of_some rfl rfl rfl fun _ => rfl
theorem vins (h : AHead) (o : VX) : Statement (.vins h o) := of_some rfl rfl rfl fun _ => rfl
theorem vcompress (h : AHead) (o : VCE) : Statement (.vcompress h o) := of_some rfl rfl rfl fun _ => rfl
theorem vexpand (h : AHead) (o : VCE) : Statement (.vexpand h o) := of_some rfl rfl rfl fun _ => rfl
theorem vred (h : AHead) (o : VRD) : Statement (.vred h o) := of_some rfl rfl rfl fun _ => rfl
theorem vcvt (h : AHead) (o : ACV) : Statement (.vcvt h o) := of_some rfl rfl rfl fun _ => rfl
theorem vpackbx (h : AHead) (o : VBX) : Statement (.vpackbx h o) := of_some rfl rfl rfl fun _ => rfl
theorem vunpbx (h : AHead) (o : VBX) : Statement (.vunpbx h o) := of_some rfl rfl rfl fun _ => rfl
theorem mand (h : AHead) (md ma mb : BitVec 3) : Statement (.mand h md ma mb) := of_some rfl rfl rfl fun _ => rfl
theorem mor (h : AHead) (md ma mb : BitVec 3) : Statement (.mor h md ma mb) := of_some rfl rfl rfl fun _ => rfl
theorem mnot (h : AHead) (md ma : BitVec 3) : Statement (.mnot h md ma) := of_some rfl rfl rfl fun _ => rfl
theorem mpop (h : AHead) (sd : BitVec 5) (ma : BitVec 3) : Statement (.mpop h sd ma) := of_some rfl rfl rfl fun _ => rfl
theorem sbind (h : AHead) (v s : BitVec 5) : Statement (.sbind h v s) := of_some rfl rfl rfl fun _ => rfl
theorem srep (h : AHead) (s : BitVec 5) : Statement (.srep h s) := of_some rfl rfl rfl fun _ => rfl
theorem tzero (h : AHead) (td : BitVec 3) : Statement (.tzero h td) := of_some rfl rfl rfl fun _ => rfl
theorem tmma (h : AHead) (o : TMM) : Statement (.tmma h o) := of_some rfl rfl rfl fun _ => rfl
theorem tmmas (h : AHead) (o : TMM) (tm : BitVec 3) (n : BitVec 4) : Statement (.tmmas h o tm n) := of_some rfl rfl rfl fun _ => rfl
theorem ttrans (h : AHead) (td ta : BitVec 3) : Statement (.ttrans h td ta) := of_some rfl rfl rfl fun _ => rfl
theorem tadd (h : AHead) (td ta tb : BitVec 3) : Statement (.tadd h td ta tb) := of_some rfl rfl rfl fun _ => rfl
theorem tcvt (h : AHead) (td ta : BitVec 3) (fmt : BitVec 4) (rm : BitVec 3) : Statement (.tcvt h td ta fmt rm) := of_some rfl rfl rfl fun _ => rfl
theorem tsel (h : AHead) (td ta : BitVec 3) (k : BitVec 6) : Statement (.tsel h td ta k) := of_some rfl rfl rfl fun _ => rfl
theorem divideComplete (w : Wb) : Statement (.divideComplete w) := of_none rfl rfl
theorem localAccessPerformed (core : Nat) (a : LocalAcc) : Statement (.localAccessPerformed core a) := of_none rfl rfl
theorem localLoadWriteback (w : Wb) : Statement (.localLoadWriteback w) := of_none rfl rfl
theorem trackedRegisterWrite (w : Wb) : Statement (.trackedRegisterWrite w) := of_none rfl rfl
theorem segldComplete (who : SlotRef) (org : Origin) (k : Nat) (base attr : Word) (dc : Option Nat) : Statement (.segldComplete who org k base attr dc) := of_none rfl rfl
theorem elaceComplete (who : SlotRef) (org : Origin) (ey : Nat) (addr : Word) (seg : SegAt) : Statement (.elaceComplete who org ey addr seg) := of_none rfl rfl
theorem streamReadAvailable (who : SlotRef) (reg idx : Nat) : Statement (.streamReadAvailable who reg idx) := of_none rfl rfl
theorem streamPushQueued (who : SlotRef) (org : Origin) (reg : Nat) (off : PushAt) (val : VReg) (mask : Word) : Statement (.streamPushQueued who org reg off val mask) := of_none rfl rfl
theorem remoteCommandArrival (c : RCmd) : Statement (.remoteCommandArrival c) := of_none rfl rfl
theorem remoteCommandReply (c : RCmd) (r : RRes) : Statement (.remoteCommandReply c r) := of_none rfl rfl
theorem connectRequestArrival (r : ConnReq) : Statement (.connectRequestArrival r) := of_none rfl rfl
theorem connectOutcome (r : ConnReq) (o : ConnOut) : Statement (.connectOutcome r o) := of_none rfl rfl
theorem portEndpointConnect (r : ConnReq) : Statement (.portEndpointConnect r) := of_none rfl rfl
theorem channelMessageArrival (src dst : EyLoc) (connid : Nat) (m : ChMsg) : Statement (.channelMessageArrival src dst connid m) := of_none rfl rfl
theorem allowanceReturn (src dst : EyLoc) (connid : Nat) : Statement (.allowanceReturn src dst connid) := of_none rfl rfl
theorem closeNoticeArrival (dst : EyLoc) (n : CloseN) : Statement (.closeNoticeArrival dst n) := of_none rfl rfl
theorem closeAcknowledge (src dst : EyLoc) (connid : Nat) : Statement (.closeAcknowledge src dst connid) := of_none rfl rfl
theorem moveNotice (src dst : EyLoc) (connid : Nat) : Statement (.moveNotice src dst connid) := of_none rfl rfl
theorem markArrival (src dst : EyLoc) (connid : Nat) : Statement (.markArrival src dst connid) := of_none rfl rfl
theorem rehome (old new dst : EyLoc) (connid : Nat) : Statement (.rehome old new dst connid) := of_none rfl rfl
theorem globalRead (r : Req) : Statement (.globalRead r) := of_none rfl rfl
theorem globalWrite (r : Req) : Statement (.globalWrite r) := of_none rfl rfl
theorem atomicAtHome (r : Req) : Statement (.atomicAtHome r) := of_none rfl rfl
theorem flushReadAtHome (r : Req) : Statement (.flushReadAtHome r) := of_none rfl rfl
theorem acknowledgementArrival (r : Req) (rep : Reply) : Statement (.acknowledgementArrival r rep) := of_none rfl rfl
theorem countedAckArrival (r : Req) : Statement (.countedAckArrival r) := of_none rfl rfl
theorem amsgArrival (m : AMsg) : Statement (.amsgArrival m) := of_none rfl rfl
theorem amsgReply (m : AMsg) (val : Word) : Statement (.amsgReply m val) := of_none rfl rfl
theorem filterRefusalRetry (r : Req) : Statement (.filterRefusalRetry r) := of_none rfl rfl
theorem faultNotice (who : SlotRef) (port : Nat) : Statement (.faultNotice who port) := of_none rfl rfl
theorem packetArrival (dst : Nat) (p : Packet) : Statement (.packetArrival dst p) := of_none rfl rfl
theorem arrivalReport (p : Packet) (dst : Nat) (rep : ArrRep) : Statement (.arrivalReport p dst rep) := of_none rfl rfl
theorem reservationGrant (p : Packet) (dst : Nat) : Statement (.reservationGrant p dst) := of_none rfl rfl
theorem reservationRetry (p : Packet) (dst : Nat) : Statement (.reservationRetry p dst) := of_none rfl rfl
theorem packetResendTimeout (p : Packet) (dst : Nat) : Statement (.packetResendTimeout p dst) := of_none rfl rfl
theorem lateReplyForward (core : Nat) (r : Req) (rep : Reply) : Statement (.lateReplyForward core r rep) := of_none rfl rfl
theorem combinedArrival (m : CombMsg) : Statement (.combinedArrival m) := of_none rfl rfl
theorem combinerReply (m : CombMsg) (r : CombRep) : Statement (.combinerReply m r) := of_none rfl rfl
theorem trapReportAfterIssue (who : SlotRef) (org : Origin) (t : TrapInfo) : Statement (.trapReportAfterIssue who org t) := of_none rfl rfl
theorem commitRequest (who : SlotRef) (task : Nat) : Statement (.commitRequest who task) := of_none rfl rfl
theorem growRequest (who : SlotRef) (org : Origin) (task : Nat) (n : Word) (dst : RegDst) : Statement (.growRequest who org task n dst) := of_none rfl rfl
theorem launchSubmit (who : SlotRef) (org : Origin) (task pdid : Nat) (r : LaunchRec) : Statement (.launchSubmit who org task pdid r) := of_none rfl rfl
theorem durableReport (unit : CutUnit) (n : Nat) : Statement (.durableReport unit n) := of_none rfl rfl
theorem stealRequest : Statement .stealRequest := of_none rfl rfl
theorem prgResponse (group : Nat) (resp : PrgResp) : Statement (.prgResponse group resp) := of_none rfl rfl
theorem hostWrite (pdid : Nat) (addr : Word) (data : List Byte) : Statement (.hostWrite pdid addr data) := of_none rfl rfl
theorem hostRead (pdid : Nat) (addr : Word) (len : Nat) : Statement (.hostRead pdid addr len) := of_none rfl rfl
theorem attestationRequest (fn : Nat) (nonce : List Byte) : Statement (.attestationRequest fn nonce) := of_none rfl rfl
theorem fixedLatencyWrite : Statement .fixedLatencyWrite := of_none rfl rfl
theorem hsiftComplete : Statement .hsiftComplete := of_none rfl rfl
theorem vectorUnitFree : Statement .vectorUnitFree := of_none rfl rfl
theorem matrixStep : Statement .matrixStep := of_none rfl rfl
theorem matrixOpFinish : Statement .matrixOpFinish := of_none rfl rfl
theorem scaleReadComplete : Statement .scaleReadComplete := of_none rfl rfl
theorem tselFinish : Statement .tselFinish := of_none rfl rfl
theorem loadPathFinish : Statement .loadPathFinish := of_none rfl rfl
theorem heldRequestTimeout : Statement .heldRequestTimeout := of_none rfl rfl
theorem portStreamSend : Statement .portStreamSend := of_none rfl rfl
theorem portStreamWrite : Statement .portStreamWrite := of_none rfl rfl
theorem portStreamStop : Statement .portStreamStop := of_none rfl rfl
theorem portEndpointClosed : Statement .portEndpointClosed := of_none rfl rfl
theorem channelWatchdog : Statement .channelWatchdog := of_none rfl rfl
theorem amsgHandlerStart : Statement .amsgHandlerStart := of_none rfl rfl
theorem requestResendTimeout : Statement .requestResendTimeout := of_none rfl rfl
theorem replyConfirm : Statement .replyConfirm := of_none rfl rfl
theorem pageWalkComplete : Statement .pageWalkComplete := of_none rfl rfl
theorem wakeNotice : Statement .wakeNotice := of_none rfl rfl
theorem pageRequestGroup : Statement .pageRequestGroup := of_none rfl rfl
theorem faultRecordReoffer : Statement .faultRecordReoffer := of_none rfl rfl
theorem copyGranule : Statement .copyGranule := of_none rfl rfl
theorem departure : Statement .departure := of_none rfl rfl
theorem reservationWatchdog : Statement .reservationWatchdog := of_none rfl rfl
theorem threadPlacement : Statement .threadPlacement := of_none rfl rfl
theorem forwardingExpiry : Statement .forwardingExpiry := of_none rfl rfl
theorem thermalDisplacement : Statement .thermalDisplacement := of_none rfl rfl
theorem thermslotUpdate : Statement .thermslotUpdate := of_none rfl rfl
theorem powerSample : Statement .powerSample := of_none rfl rfl
theorem queueTimerTick : Statement .queueTimerTick := of_none rfl rfl
theorem mwaitDeadline : Statement .mwaitDeadline := of_none rfl rfl
theorem combinerReread : Statement .combinerReread := of_none rfl rfl
theorem snagScan : Statement .snagScan := of_none rfl rfl
theorem slotWatchdog : Statement .slotWatchdog := of_none rfl rfl
theorem heldTrapRecordRelease : Statement .heldTrapRecordRelease := of_none rfl rfl
theorem undoOverflow : Statement .undoOverflow := of_none rfl rfl
theorem workQueueTake : Statement .workQueueTake := of_none rfl rfl
theorem hostRingPoll : Statement .hostRingPoll := of_none rfl rfl
theorem dependenceDecrement : Statement .dependenceDecrement := of_none rfl rfl
theorem taskPlacement : Statement .taskPlacement := of_none rfl rfl
theorem dispatchRequest : Statement .dispatchRequest := of_none rfl rfl
theorem stealRetry : Statement .stealRetry := of_none rfl rfl
theorem childEnd : Statement .childEnd := of_none rfl rfl
theorem taskFinish : Statement .taskFinish := of_none rfl rfl
theorem taskDiscard : Statement .taskDiscard := of_none rfl rfl
theorem cutRequest : Statement .cutRequest := of_none rfl rfl
theorem sealTimer : Statement .sealTimer := of_none rfl rfl
theorem cutMessage : Statement .cutMessage := of_none rfl rfl
theorem coreCut : Statement .coreCut := of_none rfl rfl
theorem sealRecordAck : Statement .sealRecordAck := of_none rfl rfl
theorem sealMarker : Statement .sealMarker := of_none rfl rfl
theorem sealedMessage : Statement .sealedMessage := of_none rfl rfl
theorem uncorrectableError : Statement .uncorrectableError := of_none rfl rfl
theorem rollback : Statement .rollback := of_none rfl rfl
theorem linkFailure : Statement .linkFailure := of_none rfl rfl
theorem portTraining : Statement .portTraining := of_none rfl rfl
theorem save : Statement .save := of_none rfl rfl
theorem restore : Statement .restore := of_none rfl rfl
theorem resume : Statement .resume := of_none rfl rfl
theorem endThread : Statement .endThread := of_none rfl rfl
theorem segsync : Statement .segsync := of_none rfl rfl
theorem tlbsync : Statement .tlbsync := of_none rfl rfl
theorem remove : Statement .remove := of_none rfl rfl
theorem domsync : Statement .domsync := of_none rfl rfl
theorem prienable : Statement .prienable := of_none rfl rfl
theorem wqcfgWrite : Statement .wqcfgWrite := of_none rfl rfl
theorem cassignWrite : Statement .cassignWrite := of_none rfl rfl
theorem sealctlWrite : Statement .sealctlWrite := of_none rfl rfl
theorem undocfgWrite : Statement .undocfgWrite := of_none rfl rfl
theorem registerWrite : Statement .registerWrite := of_none rfl rfl
theorem deviceReset : Statement .deviceReset := of_none rfl rfl
theorem healthUpdate : Statement .healthUpdate := of_none rfl rfl
theorem illegalEncodingIssue : Statement .illegalEncodingIssue := of_none rfl rfl
theorem codeMissFetch : Statement .codeMissFetch := of_none rfl rfl
theorem placementTableWrite : Statement .placementTableWrite := of_none rfl rfl
theorem portCoreCodePlacement : Statement .portCoreCodePlacement := of_none rfl rfl
theorem tilePayloadComplete : Statement .tilePayloadComplete := of_none rfl rfl
theorem hbmRefresh : Statement .hbmRefresh := of_none rfl rfl

end Sys2Proof.Laws.HasWord
end

