-- ==== Sys2Proof/Laws/Results.lean ====
section
/-! SUPPORT. Fixed-latency results and queue pops (R80, R81, R102): what they change, once for every word that writes one. -/

namespace Sys2Proof.Machine

theorem State.OnlyResults.refl (s : State) : s.OnlyResults s := ⟨rfl, rfl, fun _ _ => rfl, rfl⟩

theorem State.OnlyResults.trans {s t u : State} (h : s.OnlyResults t) (g : t.OnlyResults u) : s.OnlyResults u := by
  have hc : t.ctx.core = s.ctx.core := by rw [h.ctx]
  constructor
  · rw [g.parts]; simp only; rw [h.parts]
  · rw [g.ctx]; simp only; rw [h.ctx]
  · intro k hk
    rw [g.others k (by rw [hc]; exact hk), h.others k hk]
  · have := g.core
    rw [hc] at this
    rw [this]; simp only; rw [h.core]

theorem State.OnlyResults.onWord (s : State) (a : Bool) : s.OnlyResults (s.onWord a) := ⟨rfl, rfl, fun _ _ => rfl, rfl⟩

/-- Changing a queue of the issuing core. -/
theorem State.OnlyResults.modQueue (s : State) (q : Nat) (f : Queue → Queue) :
    s.OnlyResults (s.modQueue s.ctx.core q f) := by
  refine ⟨rfl, rfl, fun k hk => ?_, ?_⟩
  · simp [State.modQueue, hk]
  · simp [State.modQueue]

theorem State.OnlyResults.dest (s : State) (c : BitVec 5) : s.OnlyResults (s.dest c).1 := by
  unfold State.dest
  split
  · exact .refl s
  · exact .modQueue s _ _

theorem State.OnlyResults.addDue (s : State) (d : RegDst) (lat v m : Nat) (f : BitVec 5) :
    s.OnlyResults (s.addDue d lat v m f) := by
  refine ⟨rfl, rfl, fun k hk => ?_, ?_⟩
  · simp [State.addDue, hk]
  · simp [State.addDue]

theorem State.OnlyResults.result (s : State) (c : BitVec 5) (lat : Nat) (v : Word) (f : BitVec 5) :
    s.OnlyResults (s.result c lat v f) := (State.OnlyResults.dest s c).trans (.addDue _ _ _ _ _ _)

theorem State.OnlyResults.resultP (s : State) (p : BitVec 3) (lat : Nat) (b : Bool) (f : BitVec 5) :
    s.OnlyResults (s.resultP p lat b f) := .addDue _ _ _ _ _ _

theorem State.OnlyResults.popAll (l : List Nat) : ∀ s : State, s.OnlyResults (s.popAll l) := by
  induction l with
  | nil => intro s; exact .refl s
  | cons q r ih => intro s; exact (State.OnlyResults.modQueue s q _).trans (ih _)

/-- A word whose effect only makes results due. -/
theorem runWord_onlyResults {s t : State} {neg aWord : Bool} {grd : BitVec 3} {stall : Nat} {w : WordSpec}
    (hw : ∀ s : State, s.OnlyResults (w.effect s)) (hm : s.ctx.mode = .commit)
    (h : runWord aWord neg grd stall w s = .next t) : s.OnlyResults t := by
  rcases runWord_commit_cases hm h with rfl | rfl
  · exact .onWord s aWord
  · exact (State.OnlyResults.onWord s aWord).trans ((hw _).trans (.popAll _ _))

end Sys2Proof.Machine
end

