-- ==== Sys2Proof/Laws/Scratchpad.lean ====
section
/-! SUPPORT. The undo records, monitors and marks of a scratchpad write (R123, R236, R239, R339–R341): what each of them
touches, and the write as a whole. -/

namespace Sys2Proof.Machine

/-! Requests for cuts and the counts of undo bytes touch no store and no thread. -/

/-- The byte stores of the device, together. -/
def State.stores (s : State) : List Memory := [s.spad, s.spadTag, s.hbm, s.hbmTag, s.host, s.istore]

theorem State.canonical_iff (s : State) : s.Canonical ↔ ∀ m ∈ s.stores, Memory.wf m = true := by
  constructor
  · intro h; simp [State.stores, h.spad, h.spadTag, h.hbm, h.hbmTag, h.host, h.istore]
  · intro h; simp only [State.stores, List.mem_cons, List.not_mem_nil, or_false, forall_eq_or_imp, forall_eq] at h
    exact ⟨h.1, h.2.1, h.2.2.1, h.2.2.2.1, h.2.2.2.2.1, h.2.2.2.2.2⟩

/-- A state with the same stores is canonical if the other is. -/
theorem State.Canonical.of_stores {s t : State} (h : s.Canonical) (e : t.stores = s.stores) : t.Canonical := by
  rw [State.canonical_iff] at h ⊢; rw [e]; exact h

@[simp] theorem State.stores_modCore (s : State) (c : Nat) (f : Core → Core) : (s.modCore c f).stores = s.stores := rfl
@[simp] theorem State.stores_requestCut (s : State) (a b : Nat) : (s.requestCut a b).stores = s.stores := rfl
@[simp] theorem State.cores_requestCut (s : State) (a b : Nat) : (s.requestCut a b).cores = s.cores := rfl
@[simp] theorem State.undo_requestCut (s : State) (a b : Nat) : (s.requestCut a b).undo = s.undo := rfl
@[simp] theorem State.marks_requestCut (s : State) (a b : Nat) : (s.requestCut a b).marks = s.marks := rfl
@[simp] theorem State.coreAt_requestCut (s : State) (a b c : Nat) : (s.requestCut a b).coreAt c = s.coreAt c := rfl

@[simp] theorem State.stores_coreUndo (s : State) (c n : Nat) : (s.coreUndo c n).stores = s.stores := by
  unfold State.coreUndo; simp only; split <;> rfl
@[simp] theorem State.undo_coreUndo (s : State) (c n : Nat) : (s.coreUndo c n).undo = s.undo := by
  unfold State.coreUndo; simp only; split <;> rfl
@[simp] theorem State.marks_coreUndo (s : State) (c n : Nat) : (s.coreUndo c n).marks = s.marks := by
  unfold State.coreUndo; simp only; split <;> rfl
theorem State.coreAt_coreUndo (s : State) (c n k : Nat) :
    (s.coreUndo c n).coreAt k = if k = c then { s.coreAt c with undoBytes := (s.coreAt c).undoBytes + n } else s.coreAt k := by
  unfold State.coreUndo; simp only
  split <;> simp only [State.coreAt_requestCut, State.coreAt_modCore]

@[simp] theorem State.stores_undoSpad (s : State) (c g : Nat) (z : Bool) : (s.undoSpad c g z).stores = s.stores := by
  unfold State.undoSpad; simp only; split
  · rfl
  · rw [State.stores_coreUndo]; rfl
@[simp] theorem State.marks_undoSpad (s : State) (c g : Nat) (z : Bool) : (s.undoSpad c g z).marks = s.marks := by
  unfold State.undoSpad; simp only; split
  · rfl
  · rw [State.marks_coreUndo]
theorem State.threads_undoSpad (s : State) (c g : Nat) (z : Bool) (k : Nat) :
    ((s.undoSpad c g z).coreAt k).threads = (s.coreAt k).threads := by
  unfold State.undoSpad; simp only; split
  · rfl
  · rw [State.coreAt_coreUndo]; split
    · subst_vars; rfl
    · rfl

/-- The record before the first write of an interval, and none after it (R123, R341). -/
theorem State.undo_undoSpad (s : State) (c g : Nat) (z : Bool) :
    (s.undoSpad c g z).undo = if s.hasUndo (s.coreAt c).rinCur c g false then s.undo else s.undo ++
      [{ rin := (s.coreAt c).rinCur, home := c, gran := g, code := false
         old := if z then none else some (mread s.spad (spadKey c (64 * g)) 64)
         tag := (mget s.spadTag (spadGran c g)).setWidth 4
         mark := (s.markAt c g).mark, cause := (s.markAt c g).cause, epoch := (s.markAt c g).epoch }] := by
  unfold State.undoSpad; simp only; split
  · rfl
  · rw [State.undo_coreUndo]

/-! Monitors and marks. -/

@[simp] theorem State.stores_fire (s : State) (c g : Nat) : (s.fire c g).stores = s.stores := rfl
@[simp] theorem State.undo_fire (s : State) (c g : Nat) : (s.fire c g).undo = s.undo := rfl
@[simp] theorem State.marks_fire (s : State) (c g : Nat) : (s.fire c g).marks = s.marks := rfl
@[simp] theorem State.stores_disturb (s : State) (c g : Nat) : (s.disturb c g).stores = s.stores := by
  unfold State.disturb; simp only; split <;> rfl
@[simp] theorem State.undo_disturb (s : State) (c g : Nat) : (s.disturb c g).undo = s.undo := by
  unfold State.disturb; simp only; split <;> rfl

theorem tget_map {α β : Type} (f : α → β) (t : Table α) (k : Nat) :
    tget (t.map fun e => (e.1, f e.2)) k = (tget t k).map f := by
  induction t with
  | nil => rfl
  | cons e r ih =>
    by_cases h : e.1 = k
    · simp [tget, h]
    · simpa [tget, h] using ih

/-- What a firing makes of a thread's monitors (R236). -/
def fireMon (g : Nat) (t : Thread) : Thread :=
  { t with mon := t.mon.map fun m => if m.armed && m.line == g then { m with pend := true } else m }

/-- What a disturbance makes of a thread that waits at the object (R141, R239). -/
def freeWaiter (g r : Nat) (t : Thread) : Thread := { t with barX := t.barX.map fun x => x.free g r }

theorem State.threadAt_releaseWaiters (s : State) (c g r k sl : Nat) :
    (s.releaseWaiters c g r).threadAt k sl = if k = c then (s.threadAt k sl).map (freeWaiter g r) else s.threadAt k sl := by
  unfold State.releaseWaiters State.threadAt
  rw [State.coreAt_modCore]
  split
  · subst_vars; exact tget_map (freeWaiter g r) _ _
  · rfl

theorem State.threadAt_disturb (s : State) (c g k sl : Nat) :
    (s.disturb c g).threadAt k sl =
      if k = c ∧ (s.markAt c g).mark = true then (s.threadAt k sl).map (freeWaiter g 1) else s.threadAt k sl := by
  unfold State.disturb
  simp only
  split
  · rw [State.threadAt_releaseWaiters]; simp_all [State.threadAt, State.setMark, State.coreAt]
  · simp_all

theorem State.threadAt_fire (s : State) (c g k sl : Nat) :
    (s.fire c g).threadAt k sl = if k = c then (s.threadAt k sl).map (fireMon g) else s.threadAt k sl := by
  unfold State.fire State.threadAt
  rw [State.coreAt_modCore]
  split
  · subst_vars; exact tget_map (fireMon g) _ _
  · rfl

/-! The write. -/

theorem State.stores_spadWrite (s : State) (c off : Nat) (bs : List Byte) (nu : Bool) :
    (s.spadWrite c off bs nu).stores = [mwrite s.spad (spadKey c off) bs, s.spadTag, s.hbm, s.hbmTag, s.host, s.istore] := by
  have h := State.stores_undoSpad s c (off / 64) (nu && !(s.markAt c (off / 64)).mark)
  simp only [State.stores, List.cons.injEq, and_true] at h
  unfold State.spadWrite
  simp only [State.stores_fire, State.stores_disturb]
  simp only [State.stores, h]

theorem State.threadAt_spadWrite (s : State) (c off : Nat) (bs : List Byte) (nu : Bool) (k sl : Nat) :
    (s.spadWrite c off bs nu).threadAt k sl =
      if k = c then
        (if (s.markAt c (off / 64)).mark = true then (s.threadAt k sl).map (freeWaiter (off / 64) 1) else s.threadAt k sl).map
          (fireMon (off / 64))
      else s.threadAt k sl := by
  have h (s : State) (m : Memory) : ({ s with spad := m } : State).threadAt k sl = s.threadAt k sl := rfl
  have h2 (s : State) (m : Memory) (g : Nat) : ({ s with spad := m } : State).markAt c g = s.markAt c g := rfl
  have h3 (g : Nat) (b : Bool) (g' : Nat) : (s.undoSpad c g b).markAt c g' = s.markAt c g' := by
    simp only [State.markAt, State.marks_undoSpad]
  have h4 (g : Nat) (b : Bool) : (s.undoSpad c g b).threadAt k sl = s.threadAt k sl := by
    simp only [State.threadAt, State.threads_undoSpad]
  unfold State.spadWrite
  simp only [State.threadAt_fire, State.threadAt_disturb, h, h2, h3, h4]
  by_cases hk : k = c <;> simp [hk]

theorem State.undo_spadWrite (s : State) (c off : Nat) (bs : List Byte) (nu : Bool) :
    (s.spadWrite c off bs nu).undo = (s.undoSpad c (off / 64) (nu && !(s.markAt c (off / 64)).mark)).undo := by
  unfold State.spadWrite
  simp only [State.undo_fire, State.undo_disturb]

theorem State.canonical_spadWrite {s : State} (h : s.Canonical) (c off : Nat) (bs : List Byte) (nu : Bool) :
    (s.spadWrite c off bs nu).Canonical := by
  rw [State.canonical_iff, State.stores_spadWrite]
  simp only [List.mem_cons, List.not_mem_nil, or_false, forall_eq_or_imp, forall_eq]
  exact ⟨mwrite_wf _ _ h.spad, h.spadTag, h.hbm, h.hbmTag, h.host, h.istore⟩

end Sys2Proof.Machine
end

