-- ==== Sys2Proof/Laws/Vector.lean ====
section
/-! SUPPORT. Lanes: what putting lanes together gives (R146, R147), and the operands of a vector word as it issues. -/

namespace Sys2Proof.Machine

/-- The steps of `gather` over the first lanes. -/
def gatherTo (b : Nat) (f : Nat → Option (Nat × BitVec 5)) (n : Nat) : Nat × Nat × BitVec 5 := gather n b f

theorem gather_zero (b : Nat) (f : Nat → Option (Nat × BitVec 5)) : gather 0 b f = (0, 0, 0) := rfl

theorem gather_succ (n b : Nat) (f : Nat → Option (Nat × BitVec 5)) : gather (n + 1) b f =
    match f n with
    | some y => ((gather n b f).1 + y.1 % 2 ^ b * 2 ^ (b * n), (gather n b f).2.1 + (2 ^ b - 1) * 2 ^ (b * n),
        (gather n b f).2.2 ||| y.2)
    | none => gather n b f := by
  simp only [gather, List.range_succ, List.foldl_append, List.foldl_cons, List.foldl_nil] <;> cases f n <;> rfl

theorem gather_lt (b : Nat) (f : Nat → Option (Nat × BitVec 5)) : ∀ n, (gather n b f).1 < 2 ^ (b * n) ∧
    (gather n b f).2.1 < 2 ^ (b * n) := by
  intro n
  induction n with
  | zero => simp [gather_zero]
  | succ n ih =>
    rw [gather_succ]
    have e : 2 ^ (b * (n + 1)) = 2 ^ b * 2 ^ (b * n) := by rw [Nat.mul_succ, Nat.pow_add, Nat.mul_comm]
    have h1 : 1 ≤ 2 ^ b := Nat.one_le_two_pow
    cases f n with
    | none =>
      have : 1 * 2 ^ (b * n) ≤ 2 ^ b * 2 ^ (b * n) := Nat.mul_le_mul_right _ h1
      simp only; omega
    | some y =>
      have h2 : y.1 % 2 ^ b ≤ 2 ^ b - 1 := by have := Nat.mod_lt y.1 (show 0 < 2 ^ b by omega); omega
      have h3 : y.1 % 2 ^ b * 2 ^ (b * n) ≤ (2 ^ b - 1) * 2 ^ (b * n) := Nat.mul_le_mul_right _ h2
      have h4 : (2 ^ b - 1) * 2 ^ (b * n) + 2 ^ (b * n) = 2 ^ b * 2 ^ (b * n) := by
        rw [← Nat.succ_mul]; congr 1; omega
      simp only; omega

theorem lane_add_high {v w b k n : Nat} (hk : k < n) : lane (v + w * 2 ^ (b * n)) b k = lane v b k := by
  obtain ⟨d, rfl⟩ : ∃ d, n = k + 1 + d := ⟨n - (k + 1), by omega⟩
  unfold lane
  have : w * 2 ^ (b * (k + 1 + d)) = 2 ^ b * (w * 2 ^ (b * d)) * 2 ^ (b * k) := by
    rw [show b * (k + 1 + d) = b + b * d + b * k by rw [Nat.mul_add, Nat.mul_add, Nat.mul_one]; omega, Nat.pow_add,
      Nat.pow_add]
    ac_rfl
  rw [this, Nat.add_mul_div_right _ _ (Nat.two_pow_pos _), Nat.add_mul_mod_self_left]

theorem lane_top {v w b n : Nat} (hv : v < 2 ^ (b * n)) (hw : w < 2 ^ b) : lane (v + w * 2 ^ (b * n)) b n = w := by
  unfold lane
  rw [Nat.add_mul_div_right _ _ (Nat.two_pow_pos _), Nat.div_eq_of_lt hv, Nat.zero_add, Nat.mod_eq_of_lt hw]

/-- Lane `k` of what `gather` puts together: the value given for it, with a mask of ones; or no mask at all. -/
theorem gather_lane (b : Nat) (f : Nat → Option (Nat × BitVec 5)) : ∀ n k, k < n →
    match f k with
    | some y => lane (gather n b f).1 b k = y.1 % 2 ^ b ∧ lane (gather n b f).2.1 b k = 2 ^ b - 1 ∧
        (gather n b f).2.2 ||| y.2 = (gather n b f).2.2
    | none => lane (gather n b f).2.1 b k = 0 := by
  intro n
  induction n with
  | zero => intro k hk; omega
  | succ n ih =>
    intro k hk
    have hl := gather_lt b f n
    by_cases hkn : k < n
    · have h := ih k hkn
      rw [gather_succ]
      cases hn : f n with
      | none => exact h
      | some y =>
        simp only [lane_add_high hkn]
        cases hf : f k with
        | none => rw [hf] at h; exact h
        | some z =>
          rw [hf] at h
          refine ⟨h.1, h.2.1, ?_⟩
          rw [BitVec.or_assoc, BitVec.or_comm y.2, ← BitVec.or_assoc, h.2.2]
    · obtain rfl : k = n := by omega
      rw [gather_succ]
      cases hf : f k with
      | none =>
        simp only
        unfold lane
        rw [Nat.div_eq_of_lt hl.2, Nat.zero_mod]
      | some y =>
        simp only
        have hb : 0 < 2 ^ b := Nat.two_pow_pos b
        refine ⟨lane_top hl.1 (Nat.mod_lt _ hb), lane_top hl.2 (by omega), ?_⟩
        rw [BitVec.or_assoc, BitVec.or_self]

/-- A flag of the result is a flag of some lane. -/
theorem gather_flags (b : Nat) (f : Nat → Option (Nat × BitVec 5)) (j : Nat) : ∀ n, (gather n b f).2.2.getLsbD j = true →
    ∃ k y, k < n ∧ f k = some y ∧ y.2.getLsbD j = true := by
  intro n
  induction n with
  | zero => intro h; simp [gather_zero] at h
  | succ n ih =>
    intro h
    rw [gather_succ] at h
    cases hf : f n with
    | none =>
      rw [hf] at h
      obtain ⟨k, y, hk, hy⟩ := ih h
      exact ⟨k, y, by omega, hy⟩
    | some y =>
      rw [hf] at h
      simp only [BitVec.getLsbD_or, Bool.or_eq_true] at h
      rcases h with h | h
      · obtain ⟨k, z, hk, hz⟩ := ih h
        exact ⟨k, z, by omega, hz⟩
      · exact ⟨n, y, by omega, hf, h⟩

/-! Operands do not depend on the word. -/

theorem State.boundReg_onWord {s : State} (h : s.ctx.mode = .commit) (a : Bool) (r : Nat) :
    (s.onWord a).boundReg r = s.boundReg r := by
  simp only [State.boundReg, State.view_onWord h, State.view_of_commit h]

theorem State.streamOf_onWord {s : State} (h : s.ctx.mode = .commit) (a : Bool) (g : Nat × Nat) :
    (s.onWord a).streamOf g = s.streamOf g := by
  simp only [State.streamOf, State.boundReg_onWord h]

theorem State.vsrc_onWord {s : State} (h : s.ctx.mode = .commit) (a : Bool) (l : List (Nat × Nat)) (k : Nat) :
    (s.onWord a).vsrc l k = s.vsrc l k := by
  simp only [State.vsrc, State.streamOf_onWord h, State.view_onWord h, State.view_of_commit h]

theorem State.vdst_onWord {s : State} (h : s.ctx.mode = .commit) (a : Bool) (u : VecUse) :
    (s.onWord a).vdst u = s.vdst u := by
  simp only [State.vdst, State.view_onWord h, State.view_of_commit h]

theorem vecUse_pops (u : VecUse) (s : State) : (u.acc s).pops = [] := rfl

end Sys2Proof.Machine
end

