-- ==== Sys2Proof/Laws/Words.lean ====
section
/-! SUPPORT. Every word of a bundle is one `runWord` of some word specification: what holds of all words follows from what
Laws/Issue.lean says of `runWord`. -/

namespace Sys2Proof.Machine

/-- The instruction is a word with this guard, however its bundle is issued; `done` on its own also ends its thread at once. -/
def WordOf (i : Instr) (aWord neg : Bool) (grd : BitVec 3) : Prop :=
  ∀ s : State, s.ctx.mode ≠ .alone → ∃ w st, exec i s = runWord aWord neg grd st w s

theorem wordOf_nopC (h) : WordOf (.nopC h) false h.neg h.grd := fun _ _ => ⟨_, _, rfl⟩
theorem wordOf_br (h) (x0) : WordOf (.br h x0) false h.neg h.grd := fun _ _ => ⟨_, _, rfl⟩
theorem wordOf_call (h) (x0) : WordOf (.call h x0) false h.neg h.grd := fun _ _ => ⟨_, _, rfl⟩
theorem wordOf_ret (h) : WordOf (.ret h) false h.neg h.grd := fun _ _ => ⟨_, _, rfl⟩
theorem wordOf_jr (h) (x0) : WordOf (.jr h x0) false h.neg h.grd := fun _ _ => ⟨_, _, rfl⟩
theorem wordOf_loop (h) (x0) (x1) : WordOf (.loop h x0 x1) false h.neg h.grd := fun _ _ => ⟨_, _, rfl⟩
theorem wordOf_yield (h) : WordOf (.yield h) false h.neg h.grd := fun _ _ => ⟨_, _, rfl⟩
theorem wordOf_halt (h) : WordOf (.halt h) false h.neg h.grd := fun _ _ => ⟨_, _, rfl⟩
theorem wordOf_ld (h) (x0) : WordOf (.ld h x0) false h.neg h.grd := fun _ _ => ⟨_, _, rfl⟩
theorem wordOf_st (h) (x0) : WordOf (.st h x0) false h.neg h.grd := fun _ _ => ⟨_, _, rfl⟩
theorem wordOf_ldv (h) (x0) : WordOf (.ldv h x0) false h.neg h.grd := fun _ _ => ⟨_, _, rfl⟩
theorem wordOf_stv (h) (x0) : WordOf (.stv h x0) false h.neg h.grd := fun _ _ => ⟨_, _, rfl⟩
theorem wordOf_ldp (h) (x0) : WordOf (.ldp h x0) false h.neg h.grd := fun _ _ => ⟨_, _, rfl⟩
theorem wordOf_segld (h) (x0) : WordOf (.segld h x0) false h.neg h.grd := fun _ _ => ⟨_, _, rfl⟩
theorem wordOf_segst (h) (x0) : WordOf (.segst h x0) false h.neg h.grd := fun _ _ => ⟨_, _, rfl⟩
theorem wordOf_tagset (h) (x0) (x1) : WordOf (.tagset h x0 x1) false h.neg h.grd := fun _ _ => ⟨_, _, rfl⟩
theorem wordOf_tagget (h) (x0) (x1) : WordOf (.tagget h x0 x1) false h.neg h.grd := fun _ _ => ⟨_, _, rfl⟩
theorem wordOf_tlook (h) (x0) (x1) : WordOf (.tlook h x0 x1) false h.neg h.grd := fun _ _ => ⟨_, _, rfl⟩
theorem wordOf_tfill (h) (x0) (x1) (x2) : WordOf (.tfill h x0 x1 x2) false h.neg h.grd := fun _ _ => ⟨_, _, rfl⟩
theorem wordOf_hsift (h) (x0) (x1) : WordOf (.hsift h x0 x1) false h.neg h.grd := fun _ _ => ⟨_, _, rfl⟩
theorem wordOf_waitd (h) (x0) : WordOf (.waitd h x0) false h.neg h.grd := fun _ _ => ⟨_, _, rfl⟩
theorem wordOf_tcfg (h) (x0) (x1) : WordOf (.tcfg h x0 x1) false h.neg h.grd := fun _ _ => ⟨_, _, rfl⟩
theorem wordOf_tld (h) (x0) (x1) : WordOf (.tld h x0 x1) false h.neg h.grd := fun _ _ => ⟨_, _, rfl⟩
theorem wordOf_tst (h) (x0) (x1) : WordOf (.tst h x0 x1) false h.neg h.grd := fun _ _ => ⟨_, _, rfl⟩
theorem wordOf_tsave (h) (x0) (x1) : WordOf (.tsave h x0 x1) false h.neg h.grd := fun _ _ => ⟨_, _, rfl⟩
theorem wordOf_trest (h) (x0) (x1) : WordOf (.trest h x0 x1) false h.neg h.grd := fun _ _ => ⟨_, _, rfl⟩
theorem wordOf_tcmd (h) (x0) (x1) (x2) : WordOf (.tcmd h x0 x1 x2) false h.neg h.grd := fun _ _ => ⟨_, _, rfl⟩
theorem wordOf_elace (h) (x0) (x1) : WordOf (.elace h x0 x1) false h.neg h.grd := fun _ _ => ⟨_, _, rfl⟩
theorem wordOf_econn (h) (x0) (x1) : WordOf (.econn h x0 x1) false h.neg h.grd := fun _ _ => ⟨_, _, rfl⟩
theorem wordOf_elisten (h) (x0) : WordOf (.elisten h x0) false h.neg h.grd := fun _ _ => ⟨_, _, rfl⟩
theorem wordOf_eaccept (h) (x0) (x1) : WordOf (.eaccept h x0 x1) false h.neg h.grd := fun _ _ => ⟨_, _, rfl⟩
theorem wordOf_egrant (h) (x0) (x1) : WordOf (.egrant h x0 x1) false h.neg h.grd := fun _ _ => ⟨_, _, rfl⟩
theorem wordOf_eclose (h) (x0) : WordOf (.eclose h x0) false h.neg h.grd := fun _ _ => ⟨_, _, rfl⟩
theorem wordOf_estat (h) (x0) (x1) : WordOf (.estat h x0 x1) false h.neg h.grd := fun _ _ => ⟨_, _, rfl⟩
theorem wordOf_eslot (h) (x0) (x1) : WordOf (.eslot h x0 x1) false h.neg h.grd := fun _ _ => ⟨_, _, rfl⟩
theorem wordOf_esend (h) (x0) : WordOf (.esend h x0) false h.neg h.grd := fun _ _ => ⟨_, _, rfl⟩
theorem wordOf_erecv (h) (x0) : WordOf (.erecv h x0) false h.neg h.grd := fun _ _ => ⟨_, _, rfl⟩
theorem wordOf_esel (h) (x0) (x1) : WordOf (.esel h x0 x1) false h.neg h.grd := fun _ _ => ⟨_, _, rfl⟩
theorem wordOf_eoffer (h) (x0) (x1) : WordOf (.eoffer h x0 x1) false h.neg h.grd := fun _ _ => ⟨_, _, rfl⟩
theorem wordOf_ealt (h) (x0) (x1) : WordOf (.ealt h x0 x1) false h.neg h.grd := fun _ _ => ⟨_, _, rfl⟩
theorem wordOf_edeleg (h) (x0) (x1) : WordOf (.edeleg h x0 x1) false h.neg h.grd := fun _ _ => ⟨_, _, rfl⟩
theorem wordOf_ecatch (h) (x0) (x1) : WordOf (.ecatch h x0 x1) false h.neg h.grd := fun _ _ => ⟨_, _, rfl⟩
theorem wordOf_route (h) (x0) (x1) : WordOf (.route h x0 x1) false h.neg h.grd := fun _ _ => ⟨_, _, rfl⟩
theorem wordOf_qcfg (h) (x0) (x1) : WordOf (.qcfg h x0 x1) false h.neg h.grd := fun _ _ => ⟨_, _, rfl⟩
theorem wordOf_spawn (h) (x0) (x1) (x2) : WordOf (.spawn h x0 x1 x2) false h.neg h.grd := fun _ _ => ⟨_, _, rfl⟩
theorem wordOf_wake (h) (x0) : WordOf (.wake h x0) false h.neg h.grd := fun _ _ => ⟨_, _, rfl⟩
theorem wordOf_marm (h) (x0) (x1) : WordOf (.marm h x0 x1) false h.neg h.grd := fun _ _ => ⟨_, _, rfl⟩
theorem wordOf_mwait (h) (x0) (x1) : WordOf (.mwait h x0 x1) false h.neg h.grd := fun _ _ => ⟨_, _, rfl⟩
theorem wordOf_mdisarm (h) (x0) : WordOf (.mdisarm h x0) false h.neg h.grd := fun _ _ => ⟨_, _, rfl⟩
theorem wordOf_barinit (h) (x0) (x1) : WordOf (.barinit h x0 x1) false h.neg h.grd := fun _ _ => ⟨_, _, rfl⟩
theorem wordOf_bararr (h) (x0) : WordOf (.bararr h x0) false h.neg h.grd := fun _ _ => ⟨_, _, rfl⟩
theorem wordOf_barwait (h) (x0) (x1) (x2) : WordOf (.barwait h x0 x1 x2) false h.neg h.grd := fun _ _ => ⟨_, _, rfl⟩
theorem wordOf_gld (h) (x0) : WordOf (.gld h x0) false h.neg h.grd := fun _ _ => ⟨_, _, rfl⟩
theorem wordOf_gst (h) (x0) : WordOf (.gst h x0) false h.neg h.grd := fun _ _ => ⟨_, _, rfl⟩
theorem wordOf_gstc (h) (x0) : WordOf (.gstc h x0) false h.neg h.grd := fun _ _ => ⟨_, _, rfl⟩
theorem wordOf_gatom (h) (x0) : WordOf (.gatom h x0) false h.neg h.grd := fun _ _ => ⟨_, _, rfl⟩
theorem wordOf_gred (h) (x0) : WordOf (.gred h x0) false h.neg h.grd := fun _ _ => ⟨_, _, rfl⟩
theorem wordOf_amsg (h) (x0) (x1) (x2) : WordOf (.amsg h x0 x1 x2) false h.neg h.grd := fun _ _ => ⟨_, _, rfl⟩
theorem wordOf_frd (h) (x0) (x1) : WordOf (.frd h x0 x1) false h.neg h.grd := fun _ _ => ⟨_, _, rfl⟩
theorem wordOf_copy (h) (x0) (x1) : WordOf (.copy h x0 x1) false h.neg h.grd := fun _ _ => ⟨_, _, rfl⟩
theorem wordOf_copyg (h) (x0) (x1) (x2) (x3) : WordOf (.copyg h x0 x1 x2 x3) false h.neg h.grd := fun _ _ => ⟨_, _, rfl⟩
theorem wordOf_cpref (h) (x0) (x1) : WordOf (.cpref h x0 x1) false h.neg h.grd := fun _ _ => ⟨_, _, rfl⟩
theorem wordOf_fence (h) (x0) : WordOf (.fence h x0) false h.neg h.grd := fun _ _ => ⟨_, _, rfl⟩
theorem wordOf_travel (h) (x0) : WordOf (.travel h x0) false h.neg h.grd := fun _ _ => ⟨_, _, rfl⟩
theorem wordOf_tspawn (h) (x0) (x1) : WordOf (.tspawn h x0 x1) false h.neg h.grd := fun _ _ => ⟨_, _, rfl⟩
theorem wordOf_tseg (h) (x0) : WordOf (.tseg h x0) false h.neg h.grd := fun _ _ => ⟨_, _, rfl⟩
theorem wordOf_fork (h) (x0) (x1) : WordOf (.fork h x0 x1) false h.neg h.grd := fun _ _ => ⟨_, _, rfl⟩
theorem wordOf_join (h) (x0) : WordOf (.join h x0) false h.neg h.grd := fun _ _ => ⟨_, _, rfl⟩
theorem wordOf_launch (h) (x0) : WordOf (.launch h x0) false h.neg h.grd := fun _ _ => ⟨_, _, rfl⟩
theorem wordOf_grow (h) (x0) : WordOf (.grow h x0) false h.neg h.grd := fun _ _ => ⟨_, _, rfl⟩
theorem wordOf_commit (h) : WordOf (.commit h) false h.neg h.grd := fun _ _ => ⟨_, _, rfl⟩
theorem exec_done_word {h : CHead} {s : State} (hm : s.ctx.mode ≠ .alone) : exec (.done h) s =
    runWord false h.neg h.grd h.stall.toNat { park4 := fun s => if s.mayEnd s.view then none else some Park.other
                                              effect := fun s => s.modCur fun t => { t with ending := true } } s := by
  show execDone h s = _
  unfold execDone
  simp only [hm, if_false, runC]
  split <;> simp_all

theorem wordOf_done (h) : WordOf (.done h) false h.neg h.grd := fun _ hm => ⟨_, _, exec_done_word hm⟩
theorem wordOf_sealCut (h) : WordOf (.sealCut h) false h.neg h.grd := fun _ _ => ⟨_, _, rfl⟩
theorem wordOf_sealw (h) : WordOf (.sealw h) false h.neg h.grd := fun _ _ => ⟨_, _, rfl⟩
theorem wordOf_rin (h) (x0) : WordOf (.rin h x0) false h.neg h.grd := fun _ _ => ⟨_, _, rfl⟩
theorem wordOf_xsync (h) : WordOf (.xsync h) false h.neg h.grd := fun _ _ => ⟨_, _, rfl⟩
theorem wordOf_crd (h) (x0) (x1) : WordOf (.crd h x0 x1) false h.neg h.grd := fun _ _ => ⟨_, _, rfl⟩
theorem wordOf_cwr (h) (x0) (x1) : WordOf (.cwr h x0 x1) false h.neg h.grd := fun _ _ => ⟨_, _, rfl⟩
theorem wordOf_trap (h) (x0) : WordOf (.trap h x0) false h.neg h.grd := fun _ _ => ⟨_, _, rfl⟩
theorem wordOf_syscall (h) (x0) : WordOf (.syscall h x0) false h.neg h.grd := fun _ _ => ⟨_, _, rfl⟩
theorem wordOf_brk (h) (x0) : WordOf (.brk h x0) false h.neg h.grd := fun _ _ => ⟨_, _, rfl⟩
theorem wordOf_iload (h) (x0) (x1) : WordOf (.iload h x0 x1) false h.neg h.grd := fun _ _ => ⟨_, _, rfl⟩
theorem wordOf_eret (h) : WordOf (.eret h) false h.neg h.grd := fun _ _ => ⟨_, _, rfl⟩
theorem wordOf_nopA (h) : WordOf (.nopA h) true h.neg h.grd := fun _ _ => ⟨_, _, rfl⟩
theorem wordOf_add (h) (x0) : WordOf (.add h x0) true h.neg h.grd := fun _ _ => ⟨_, _, rfl⟩
theorem wordOf_sub (h) (x0) : WordOf (.sub h x0) true h.neg h.grd := fun _ _ => ⟨_, _, rfl⟩
theorem wordOf_mul (h) (x0) : WordOf (.mul h x0) true h.neg h.grd := fun _ _ => ⟨_, _, rfl⟩
theorem wordOf_mulh (h) (x0) : WordOf (.mulh h x0) true h.neg h.grd := fun _ _ => ⟨_, _, rfl⟩
theorem wordOf_mulhn (h) (x0) : WordOf (.mulhn h x0) true h.neg h.grd := fun _ _ => ⟨_, _, rfl⟩
theorem wordOf_div (h) (x0) : WordOf (.div h x0) true h.neg h.grd := fun _ _ => ⟨_, _, rfl⟩
theorem wordOf_divn (h) (x0) : WordOf (.divn h x0) true h.neg h.grd := fun _ _ => ⟨_, _, rfl⟩
theorem wordOf_rem (h) (x0) : WordOf (.rem h x0) true h.neg h.grd := fun _ _ => ⟨_, _, rfl⟩
theorem wordOf_remn (h) (x0) : WordOf (.remn h x0) true h.neg h.grd := fun _ _ => ⟨_, _, rfl⟩
theorem wordOf_and (h) (x0) : WordOf (.and h x0) true h.neg h.grd := fun _ _ => ⟨_, _, rfl⟩
theorem wordOf_or (h) (x0) : WordOf (.or h x0) true h.neg h.grd := fun _ _ => ⟨_, _, rfl⟩
theorem wordOf_xor (h) (x0) : WordOf (.xor h x0) true h.neg h.grd := fun _ _ => ⟨_, _, rfl⟩
theorem wordOf_andn (h) (x0) : WordOf (.andn h x0) true h.neg h.grd := fun _ _ => ⟨_, _, rfl⟩
theorem wordOf_shl (h) (x0) : WordOf (.shl h x0) true h.neg h.grd := fun _ _ => ⟨_, _, rfl⟩
theorem wordOf_shr (h) (x0) : WordOf (.shr h x0) true h.neg h.grd := fun _ _ => ⟨_, _, rfl⟩
theorem wordOf_sra (h) (x0) : WordOf (.sra h x0) true h.neg h.grd := fun _ _ => ⟨_, _, rfl⟩
theorem wordOf_rot (h) (x0) : WordOf (.rot h x0) true h.neg h.grd := fun _ _ => ⟨_, _, rfl⟩
theorem wordOf_clz (h) (x0) : WordOf (.clz h x0) true h.neg h.grd := fun _ _ => ⟨_, _, rfl⟩
theorem wordOf_ctz (h) (x0) : WordOf (.ctz h x0) true h.neg h.grd := fun _ _ => ⟨_, _, rfl⟩
theorem wordOf_popc (h) (x0) : WordOf (.popc h x0) true h.neg h.grd := fun _ _ => ⟨_, _, rfl⟩
theorem wordOf_min (h) (x0) : WordOf (.min h x0) true h.neg h.grd := fun _ _ => ⟨_, _, rfl⟩
theorem wordOf_max (h) (x0) : WordOf (.max h x0) true h.neg h.grd := fun _ _ => ⟨_, _, rfl⟩
theorem wordOf_minn (h) (x0) : WordOf (.minn h x0) true h.neg h.grd := fun _ _ => ⟨_, _, rfl⟩
theorem wordOf_maxn (h) (x0) : WordOf (.maxn h x0) true h.neg h.grd := fun _ _ => ⟨_, _, rfl⟩
theorem wordOf_mov (h) (x0) : WordOf (.mov h x0) true h.neg h.grd := fun _ _ => ⟨_, _, rfl⟩
theorem wordOf_sext8 (h) (x0) : WordOf (.sext8 h x0) true h.neg h.grd := fun _ _ => ⟨_, _, rfl⟩
theorem wordOf_sext16 (h) (x0) : WordOf (.sext16 h x0) true h.neg h.grd := fun _ _ => ⟨_, _, rfl⟩
theorem wordOf_sext32 (h) (x0) : WordOf (.sext32 h x0) true h.neg h.grd := fun _ _ => ⟨_, _, rfl⟩
theorem wordOf_zext8 (h) (x0) : WordOf (.zext8 h x0) true h.neg h.grd := fun _ _ => ⟨_, _, rfl⟩
theorem wordOf_zext16 (h) (x0) : WordOf (.zext16 h x0) true h.neg h.grd := fun _ _ => ⟨_, _, rfl⟩
theorem wordOf_zext32 (h) (x0) : WordOf (.zext32 h x0) true h.neg h.grd := fun _ _ => ⟨_, _, rfl⟩
theorem wordOf_lea (h) (x0) (x1) : WordOf (.lea h x0 x1) true h.neg h.grd := fun _ _ => ⟨_, _, rfl⟩
theorem wordOf_sel (h) (x0) (x1) : WordOf (.sel h x0 x1) true h.neg h.grd := fun _ _ => ⟨_, _, rfl⟩
theorem wordOf_addi (h) (x0) (x1) (x2) : WordOf (.addi h x0 x1 x2) true h.neg h.grd := fun _ _ => ⟨_, _, rfl⟩
theorem wordOf_movImm (h) (x0) (x1) : WordOf (.movImm h x0 x1) true h.neg h.grd := fun _ _ => ⟨_, _, rfl⟩
theorem wordOf_movK (h) (x0) (x1) (x2) : WordOf (.movK h x0 x1 x2) true h.neg h.grd := fun _ _ => ⟨_, _, rfl⟩
theorem wordOf_bfx (h) (x0) : WordOf (.bfx h x0) true h.neg h.grd := fun _ _ => ⟨_, _, rfl⟩
theorem wordOf_bfi (h) (x0) : WordOf (.bfi h x0) true h.neg h.grd := fun _ _ => ⟨_, _, rfl⟩
theorem wordOf_cmp (h) (x0) (x1) (x2) (x3) (x4) : WordOf (.cmp h x0 x1 x2 x3 x4) true h.neg h.grd := fun _ _ => ⟨_, _, rfl⟩
theorem wordOf_cmpi (h) (x0) (x1) (x2) (x3) (x4) : WordOf (.cmpi h x0 x1 x2 x3 x4) true h.neg h.grd := fun _ _ => ⟨_, _, rfl⟩
theorem wordOf_pand (h) (x0) : WordOf (.pand h x0) true h.neg h.grd := fun _ _ => ⟨_, _, rfl⟩
theorem wordOf_por (h) (x0) : WordOf (.por h x0) true h.neg h.grd := fun _ _ => ⟨_, _, rfl⟩
theorem wordOf_pxor (h) (x0) : WordOf (.pxor h x0) true h.neg h.grd := fun _ _ => ⟨_, _, rfl⟩
theorem wordOf_pmov (h) (x0) (x1) (x2) : WordOf (.pmov h x0 x1 x2) true h.neg h.grd := fun _ _ => ⟨_, _, rfl⟩
theorem wordOf_fadd (h) (x0) : WordOf (.fadd h x0) true h.neg h.grd := fun _ _ => ⟨_, _, rfl⟩
theorem wordOf_fsub (h) (x0) : WordOf (.fsub h x0) true h.neg h.grd := fun _ _ => ⟨_, _, rfl⟩
theorem wordOf_fmul (h) (x0) : WordOf (.fmul h x0) true h.neg h.grd := fun _ _ => ⟨_, _, rfl⟩
theorem wordOf_fma (h) (x0) : WordOf (.fma h x0) true h.neg h.grd := fun _ _ => ⟨_, _, rfl⟩
theorem wordOf_fmin (h) (x0) : WordOf (.fmin h x0) true h.neg h.grd := fun _ _ => ⟨_, _, rfl⟩
theorem wordOf_fmax (h) (x0) : WordOf (.fmax h x0) true h.neg h.grd := fun _ _ => ⟨_, _, rfl⟩
theorem wordOf_fsgn (h) (x0) : WordOf (.fsgn h x0) true h.neg h.grd := fun _ _ => ⟨_, _, rfl⟩
theorem wordOf_fsgnN (h) (x0) : WordOf (.fsgnN h x0) true h.neg h.grd := fun _ _ => ⟨_, _, rfl⟩
theorem wordOf_fcmp (h) (x0) (x1) (x2) (x3) (x4) (x5) : WordOf (.fcmp h x0 x1 x2 x3 x4 x5) true h.neg h.grd := fun _ _ => ⟨_, _, rfl⟩
theorem wordOf_cvt (h) (x0) : WordOf (.cvt h x0) true h.neg h.grd := fun _ _ => ⟨_, _, rfl⟩
theorem wordOf_vaddF (h) (x0) : WordOf (.vaddF h x0) true h.neg h.grd := fun _ _ => ⟨_, _, rfl⟩
theorem wordOf_vaddI (h) (x0) : WordOf (.vaddI h x0) true h.neg h.grd := fun _ _ => ⟨_, _, rfl⟩
theorem wordOf_vsubF (h) (x0) : WordOf (.vsubF h x0) true h.neg h.grd := fun _ _ => ⟨_, _, rfl⟩
theorem wordOf_vsubI (h) (x0) : WordOf (.vsubI h x0) true h.neg h.grd := fun _ _ => ⟨_, _, rfl⟩
theorem wordOf_vmulF (h) (x0) : WordOf (.vmulF h x0) true h.neg h.grd := fun _ _ => ⟨_, _, rfl⟩
theorem wordOf_vmulI (h) (x0) : WordOf (.vmulI h x0) true h.neg h.grd := fun _ _ => ⟨_, _, rfl⟩
theorem wordOf_vfma (h) (x0) : WordOf (.vfma h x0) true h.neg h.grd := fun _ _ => ⟨_, _, rfl⟩
theorem wordOf_vfms (h) (x0) : WordOf (.vfms h x0) true h.neg h.grd := fun _ _ => ⟨_, _, rfl⟩
theorem wordOf_vminF (h) (x0) : WordOf (.vminF h x0) true h.neg h.grd := fun _ _ => ⟨_, _, rfl⟩
theorem wordOf_vminS (h) (x0) : WordOf (.vminS h x0) true h.neg h.grd := fun _ _ => ⟨_, _, rfl⟩
theorem wordOf_vminN (h) (x0) : WordOf (.vminN h x0) true h.neg h.grd := fun _ _ => ⟨_, _, rfl⟩
theorem wordOf_vmaxF (h) (x0) : WordOf (.vmaxF h x0) true h.neg h.grd := fun _ _ => ⟨_, _, rfl⟩
theorem wordOf_vmaxS (h) (x0) : WordOf (.vmaxS h x0) true h.neg h.grd := fun _ _ => ⟨_, _, rfl⟩
theorem wordOf_vmaxN (h) (x0) : WordOf (.vmaxN h x0) true h.neg h.grd := fun _ _ => ⟨_, _, rfl⟩
theorem wordOf_vabsF (h) (x0) : WordOf (.vabsF h x0) true h.neg h.grd := fun _ _ => ⟨_, _, rfl⟩
theorem wordOf_vnegF (h) (x0) : WordOf (.vnegF h x0) true h.neg h.grd := fun _ _ => ⟨_, _, rfl⟩
theorem wordOf_vabsI (h) (x0) : WordOf (.vabsI h x0) true h.neg h.grd := fun _ _ => ⟨_, _, rfl⟩
theorem wordOf_vnegI (h) (x0) : WordOf (.vnegI h x0) true h.neg h.grd := fun _ _ => ⟨_, _, rfl⟩
theorem wordOf_vrcp (h) (x0) : WordOf (.vrcp h x0) true h.neg h.grd := fun _ _ => ⟨_, _, rfl⟩
theorem wordOf_vrsq (h) (x0) : WordOf (.vrsq h x0) true h.neg h.grd := fun _ _ => ⟨_, _, rfl⟩
theorem wordOf_vexp2 (h) (x0) : WordOf (.vexp2 h x0) true h.neg h.grd := fun _ _ => ⟨_, _, rfl⟩
theorem wordOf_vlog2 (h) (x0) : WordOf (.vlog2 h x0) true h.neg h.grd := fun _ _ => ⟨_, _, rfl⟩
theorem wordOf_vmov (h) (x0) : WordOf (.vmov h x0) true h.neg h.grd := fun _ _ => ⟨_, _, rfl⟩
theorem wordOf_vand (h) (x0) : WordOf (.vand h x0) true h.neg h.grd := fun _ _ => ⟨_, _, rfl⟩
theorem wordOf_vor (h) (x0) : WordOf (.vor h x0) true h.neg h.grd := fun _ _ => ⟨_, _, rfl⟩
theorem wordOf_vxor (h) (x0) : WordOf (.vxor h x0) true h.neg h.grd := fun _ _ => ⟨_, _, rfl⟩
theorem wordOf_vshl (h) (x0) : WordOf (.vshl h x0) true h.neg h.grd := fun _ _ => ⟨_, _, rfl⟩
theorem wordOf_vshr (h) (x0) : WordOf (.vshr h x0) true h.neg h.grd := fun _ _ => ⟨_, _, rfl⟩
theorem wordOf_vsra (h) (x0) : WordOf (.vsra h x0) true h.neg h.grd := fun _ _ => ⟨_, _, rfl⟩
theorem wordOf_vcmpF (h) (x0) : WordOf (.vcmpF h x0) true h.neg h.grd := fun _ _ => ⟨_, _, rfl⟩
theorem wordOf_vcmpI (h) (x0) : WordOf (.vcmpI h x0) true h.neg h.grd := fun _ _ => ⟨_, _, rfl⟩
theorem wordOf_vsel (h) (x0) : WordOf (.vsel h x0) true h.neg h.grd := fun _ _ => ⟨_, _, rfl⟩
theorem wordOf_vperm (h) (x0) : WordOf (.vperm h x0) true h.neg h.grd := fun _ _ => ⟨_, _, rfl⟩
theorem wordOf_vbcast (h) (x0) (x1) (x2) : WordOf (.vbcast h x0 x1 x2) true h.neg h.grd := fun _ _ => ⟨_, _, rfl⟩
theorem wordOf_vext (h) (x0) (x1) (x2) (x3) : WordOf (.vext h x0 x1 x2 x3) true h.neg h.grd := fun _ _ => ⟨_, _, rfl⟩
theorem wordOf_vins (h) (x0) : WordOf (.vins h x0) true h.neg h.grd := fun _ _ => ⟨_, _, rfl⟩
theorem wordOf_vcompress (h) (x0) : WordOf (.vcompress h x0) true h.neg h.grd := fun _ _ => ⟨_, _, rfl⟩
theorem wordOf_vexpand (h) (x0) : WordOf (.vexpand h x0) true h.neg h.grd := fun _ _ => ⟨_, _, rfl⟩
theorem wordOf_vred (h) (x0) : WordOf (.vred h x0) true h.neg h.grd := fun _ _ => ⟨_, _, rfl⟩
theorem wordOf_vcvt (h) (x0) : WordOf (.vcvt h x0) true h.neg h.grd := fun _ _ => ⟨_, _, rfl⟩
theorem wordOf_vpackbx (h) (x0) : WordOf (.vpackbx h x0) true h.neg h.grd := fun _ _ => ⟨_, _, rfl⟩
theorem wordOf_vunpbx (h) (x0) : WordOf (.vunpbx h x0) true h.neg h.grd := fun _ _ => ⟨_, _, rfl⟩
theorem wordOf_mand (h) (x0) (x1) (x2) : WordOf (.mand h x0 x1 x2) true h.neg h.grd := fun _ _ => ⟨_, _, rfl⟩
theorem wordOf_mor (h) (x0) (x1) (x2) : WordOf (.mor h x0 x1 x2) true h.neg h.grd := fun _ _ => ⟨_, _, rfl⟩
theorem wordOf_mnot (h) (x0) (x1) : WordOf (.mnot h x0 x1) true h.neg h.grd := fun _ _ => ⟨_, _, rfl⟩
theorem wordOf_mpop (h) (x0) (x1) : WordOf (.mpop h x0 x1) true h.neg h.grd := fun _ _ => ⟨_, _, rfl⟩
theorem wordOf_sbind (h) (x0) (x1) : WordOf (.sbind h x0 x1) true h.neg h.grd := fun _ _ => ⟨_, _, rfl⟩
theorem wordOf_srep (h) (x0) : WordOf (.srep h x0) true h.neg h.grd := fun _ _ => ⟨_, _, rfl⟩
theorem wordOf_tzero (h) (x0) : WordOf (.tzero h x0) true h.neg h.grd := fun _ _ => ⟨_, _, rfl⟩
theorem wordOf_tmma (h) (x0) : WordOf (.tmma h x0) true h.neg h.grd := fun _ _ => ⟨_, _, rfl⟩
theorem wordOf_tmmas (h) (x0) (x1) (x2) : WordOf (.tmmas h x0 x1 x2) true h.neg h.grd := fun _ _ => ⟨_, _, rfl⟩
theorem wordOf_ttrans (h) (x0) (x1) : WordOf (.ttrans h x0 x1) true h.neg h.grd := fun _ _ => ⟨_, _, rfl⟩
theorem wordOf_tadd (h) (x0) (x1) (x2) : WordOf (.tadd h x0 x1 x2) true h.neg h.grd := fun _ _ => ⟨_, _, rfl⟩
theorem wordOf_tcvt (h) (x0) (x1) (x2) (x3) : WordOf (.tcvt h x0 x1 x2 x3) true h.neg h.grd := fun _ _ => ⟨_, _, rfl⟩
theorem wordOf_tsel (h) (x0) (x1) (x2) : WordOf (.tsel h x0 x1 x2) true h.neg h.grd := fun _ _ => ⟨_, _, rfl⟩

/-- Every instruction with a guard is a word. -/
theorem wordOf (i : Instr) (g : Bool × BitVec 3) (hh : headOf i = some g) : WordOf i (isAWord i) g.1 g.2 := by
  cases i with
  | nopC h => cases hh; exact wordOf_nopC h
  | br h x0 => cases hh; exact wordOf_br h x0
  | call h x0 => cases hh; exact wordOf_call h x0
  | ret h => cases hh; exact wordOf_ret h
  | jr h x0 => cases hh; exact wordOf_jr h x0
  | loop h x0 x1 => cases hh; exact wordOf_loop h x0 x1
  | yield h => cases hh; exact wordOf_yield h
  | halt h => cases hh; exact wordOf_halt h
  | ld h x0 => cases hh; exact wordOf_ld h x0
  | st h x0 => cases hh; exact wordOf_st h x0
  | ldv h x0 => cases hh; exact wordOf_ldv h x0
  | stv h x0 => cases hh; exact wordOf_stv h x0
  | ldp h x0 => cases hh; exact wordOf_ldp h x0
  | segld h x0 => cases hh; exact wordOf_segld h x0
  | segst h x0 => cases hh; exact wordOf_segst h x0
  | tagset h x0 x1 => cases hh; exact wordOf_tagset h x0 x1
  | tagget h x0 x1 => cases hh; exact wordOf_tagget h x0 x1
  | tlook h x0 x1 => cases hh; exact wordOf_tlook h x0 x1
  | tfill h x0 x1 x2 => cases hh; exact wordOf_tfill h x0 x1 x2
  | hsift h x0 x1 => cases hh; exact wordOf_hsift h x0 x1
  | waitd h x0 => cases hh; exact wordOf_waitd h x0
  | tcfg h x0 x1 => cases hh; exact wordOf_tcfg h x0 x1
  | tld h x0 x1 => cases hh; exact wordOf_tld h x0 x1
  | tst h x0 x1 => cases hh; exact wordOf_tst h x0 x1
  | tsave h x0 x1 => cases hh; exact wordOf_tsave h x0 x1
  | trest h x0 x1 => cases hh; exact wordOf_trest h x0 x1
  | tcmd h x0 x1 x2 => cases hh; exact wordOf_tcmd h x0 x1 x2
  | elace h x0 x1 => cases hh; exact wordOf_elace h x0 x1
  | econn h x0 x1 => cases hh; exact wordOf_econn h x0 x1
  | elisten h x0 => cases hh; exact wordOf_elisten h x0
  | eaccept h x0 x1 => cases hh; exact wordOf_eaccept h x0 x1
  | egrant h x0 x1 => cases hh; exact wordOf_egrant h x0 x1
  | eclose h x0 => cases hh; exact wordOf_eclose h x0
  | estat h x0 x1 => cases hh; exact wordOf_estat h x0 x1
  | eslot h x0 x1 => cases hh; exact wordOf_eslot h x0 x1
  | esend h x0 => cases hh; exact wordOf_esend h x0
  | erecv h x0 => cases hh; exact wordOf_erecv h x0
  | esel h x0 x1 => cases hh; exact wordOf_esel h x0 x1
  | eoffer h x0 x1 => cases hh; exact wordOf_eoffer h x0 x1
  | ealt h x0 x1 => cases hh; exact wordOf_ealt h x0 x1
  | edeleg h x0 x1 => cases hh; exact wordOf_edeleg h x0 x1
  | ecatch h x0 x1 => cases hh; exact wordOf_ecatch h x0 x1
  | route h x0 x1 => cases hh; exact wordOf_route h x0 x1
  | qcfg h x0 x1 => cases hh; exact wordOf_qcfg h x0 x1
  | spawn h x0 x1 x2 => cases hh; exact wordOf_spawn h x0 x1 x2
  | wake h x0 => cases hh; exact wordOf_wake h x0
  | marm h x0 x1 => cases hh; exact wordOf_marm h x0 x1
  | mwait h x0 x1 => cases hh; exact wordOf_mwait h x0 x1
  | mdisarm h x0 => cases hh; exact wordOf_mdisarm h x0
  | barinit h x0 x1 => cases hh; exact wordOf_barinit h x0 x1
  | bararr h x0 => cases hh; exact wordOf_bararr h x0
  | barwait h x0 x1 x2 => cases hh; exact wordOf_barwait h x0 x1 x2
  | gld h x0 => cases hh; exact wordOf_gld h x0
  | gst h x0 => cases hh; exact wordOf_gst h x0
  | gstc h x0 => cases hh; exact wordOf_gstc h x0
  | gatom h x0 => cases hh; exact wordOf_gatom h x0
  | gred h x0 => cases hh; exact wordOf_gred h x0
  | amsg h x0 x1 x2 => cases hh; exact wordOf_amsg h x0 x1 x2
  | frd h x0 x1 => cases hh; exact wordOf_frd h x0 x1
  | copy h x0 x1 => cases hh; exact wordOf_copy h x0 x1
  | copyg h x0 x1 x2 x3 => cases hh; exact wordOf_copyg h x0 x1 x2 x3
  | cpref h x0 x1 => cases hh; exact wordOf_cpref h x0 x1
  | fence h x0 => cases hh; exact wordOf_fence h x0
  | travel h x0 => cases hh; exact wordOf_travel h x0
  | tspawn h x0 x1 => cases hh; exact wordOf_tspawn h x0 x1
  | tseg h x0 => cases hh; exact wordOf_tseg h x0
  | fork h x0 x1 => cases hh; exact wordOf_fork h x0 x1
  | join h x0 => cases hh; exact wordOf_join h x0
  | launch h x0 => cases hh; exact wordOf_launch h x0
  | grow h x0 => cases hh; exact wordOf_grow h x0
  | commit h => cases hh; exact wordOf_commit h
  | done h => cases hh; exact wordOf_done h
  | sealCut h => cases hh; exact wordOf_sealCut h
  | sealw h => cases hh; exact wordOf_sealw h
  | rin h x0 => cases hh; exact wordOf_rin h x0
  | xsync h => cases hh; exact wordOf_xsync h
  | crd h x0 x1 => cases hh; exact wordOf_crd h x0 x1
  | cwr h x0 x1 => cases hh; exact wordOf_cwr h x0 x1
  | trap h x0 => cases hh; exact wordOf_trap h x0
  | syscall h x0 => cases hh; exact wordOf_syscall h x0
  | brk h x0 => cases hh; exact wordOf_brk h x0
  | iload h x0 x1 => cases hh; exact wordOf_iload h x0 x1
  | eret h => cases hh; exact wordOf_eret h
  | nopA h => cases hh; exact wordOf_nopA h
  | add h x0 => cases hh; exact wordOf_add h x0
  | sub h x0 => cases hh; exact wordOf_sub h x0
  | mul h x0 => cases hh; exact wordOf_mul h x0
  | mulh h x0 => cases hh; exact wordOf_mulh h x0
  | mulhn h x0 => cases hh; exact wordOf_mulhn h x0
  | div h x0 => cases hh; exact wordOf_div h x0
  | divn h x0 => cases hh; exact wordOf_divn h x0
  | rem h x0 => cases hh; exact wordOf_rem h x0
  | remn h x0 => cases hh; exact wordOf_remn h x0
  | and h x0 => cases hh; exact wordOf_and h x0
  | or h x0 => cases hh; exact wordOf_or h x0
  | xor h x0 => cases hh; exact wordOf_xor h x0
  | andn h x0 => cases hh; exact wordOf_andn h x0
  | shl h x0 => cases hh; exact wordOf_shl h x0
  | shr h x0 => cases hh; exact wordOf_shr h x0
  | sra h x0 => cases hh; exact wordOf_sra h x0
  | rot h x0 => cases hh; exact wordOf_rot h x0
  | clz h x0 => cases hh; exact wordOf_clz h x0
  | ctz h x0 => cases hh; exact wordOf_ctz h x0
  | popc h x0 => cases hh; exact wordOf_popc h x0
  | min h x0 => cases hh; exact wordOf_min h x0
  | max h x0 => cases hh; exact wordOf_max h x0
  | minn h x0 => cases hh; exact wordOf_minn h x0
  | maxn h x0 => cases hh; exact wordOf_maxn h x0
  | mov h x0 => cases hh; exact wordOf_mov h x0
  | sext8 h x0 => cases hh; exact wordOf_sext8 h x0
  | sext16 h x0 => cases hh; exact wordOf_sext16 h x0
  | sext32 h x0 => cases hh; exact wordOf_sext32 h x0
  | zext8 h x0 => cases hh; exact wordOf_zext8 h x0
  | zext16 h x0 => cases hh; exact wordOf_zext16 h x0
  | zext32 h x0 => cases hh; exact wordOf_zext32 h x0
  | lea h x0 x1 => cases hh; exact wordOf_lea h x0 x1
  | sel h x0 x1 => cases hh; exact wordOf_sel h x0 x1
  | addi h x0 x1 x2 => cases hh; exact wordOf_addi h x0 x1 x2
  | movImm h x0 x1 => cases hh; exact wordOf_movImm h x0 x1
  | movK h x0 x1 x2 => cases hh; exact wordOf_movK h x0 x1 x2
  | bfx h x0 => cases hh; exact wordOf_bfx h x0
  | bfi h x0 => cases hh; exact wordOf_bfi h x0
  | cmp h x0 x1 x2 x3 x4 => cases hh; exact wordOf_cmp h x0 x1 x2 x3 x4
  | cmpi h x0 x1 x2 x3 x4 => cases hh; exact wordOf_cmpi h x0 x1 x2 x3 x4
  | pand h x0 => cases hh; exact wordOf_pand h x0
  | por h x0 => cases hh; exact wordOf_por h x0
  | pxor h x0 => cases hh; exact wordOf_pxor h x0
  | pmov h x0 x1 x2 => cases hh; exact wordOf_pmov h x0 x1 x2
  | fadd h x0 => cases hh; exact wordOf_fadd h x0
  | fsub h x0 => cases hh; exact wordOf_fsub h x0
  | fmul h x0 => cases hh; exact wordOf_fmul h x0
  | fma h x0 => cases hh; exact wordOf_fma h x0
  | fmin h x0 => cases hh; exact wordOf_fmin h x0
  | fmax h x0 => cases hh; exact wordOf_fmax h x0
  | fsgn h x0 => cases hh; exact wordOf_fsgn h x0
  | fsgnN h x0 => cases hh; exact wordOf_fsgnN h x0
  | fcmp h x0 x1 x2 x3 x4 x5 => cases hh; exact wordOf_fcmp h x0 x1 x2 x3 x4 x5
  | cvt h x0 => cases hh; exact wordOf_cvt h x0
  | vaddF h x0 => cases hh; exact wordOf_vaddF h x0
  | vaddI h x0 => cases hh; exact wordOf_vaddI h x0
  | vsubF h x0 => cases hh; exact wordOf_vsubF h x0
  | vsubI h x0 => cases hh; exact wordOf_vsubI h x0
  | vmulF h x0 => cases hh; exact wordOf_vmulF h x0
  | vmulI h x0 => cases hh; exact wordOf_vmulI h x0
  | vfma h x0 => cases hh; exact wordOf_vfma h x0
  | vfms h x0 => cases hh; exact wordOf_vfms h x0
  | vminF h x0 => cases hh; exact wordOf_vminF h x0
  | vminS h x0 => cases hh; exact wordOf_vminS h x0
  | vminN h x0 => cases hh; exact wordOf_vminN h x0
  | vmaxF h x0 => cases hh; exact wordOf_vmaxF h x0
  | vmaxS h x0 => cases hh; exact wordOf_vmaxS h x0
  | vmaxN h x0 => cases hh; exact wordOf_vmaxN h x0
  | vabsF h x0 => cases hh; exact wordOf_vabsF h x0
  | vnegF h x0 => cases hh; exact wordOf_vnegF h x0
  | vabsI h x0 => cases hh; exact wordOf_vabsI h x0
  | vnegI h x0 => cases hh; exact wordOf_vnegI h x0
  | vrcp h x0 => cases hh; exact wordOf_vrcp h x0
  | vrsq h x0 => cases hh; exact wordOf_vrsq h x0
  | vexp2 h x0 => cases hh; exact wordOf_vexp2 h x0
  | vlog2 h x0 => cases hh; exact wordOf_vlog2 h x0
  | vmov h x0 => cases hh; exact wordOf_vmov h x0
  | vand h x0 => cases hh; exact wordOf_vand h x0
  | vor h x0 => cases hh; exact wordOf_vor h x0
  | vxor h x0 => cases hh; exact wordOf_vxor h x0
  | vshl h x0 => cases hh; exact wordOf_vshl h x0
  | vshr h x0 => cases hh; exact wordOf_vshr h x0
  | vsra h x0 => cases hh; exact wordOf_vsra h x0
  | vcmpF h x0 => cases hh; exact wordOf_vcmpF h x0
  | vcmpI h x0 => cases hh; exact wordOf_vcmpI h x0
  | vsel h x0 => cases hh; exact wordOf_vsel h x0
  | vperm h x0 => cases hh; exact wordOf_vperm h x0
  | vbcast h x0 x1 x2 => cases hh; exact wordOf_vbcast h x0 x1 x2
  | vext h x0 x1 x2 x3 => cases hh; exact wordOf_vext h x0 x1 x2 x3
  | vins h x0 => cases hh; exact wordOf_vins h x0
  | vcompress h x0 => cases hh; exact wordOf_vcompress h x0
  | vexpand h x0 => cases hh; exact wordOf_vexpand h x0
  | vred h x0 => cases hh; exact wordOf_vred h x0
  | vcvt h x0 => cases hh; exact wordOf_vcvt h x0
  | vpackbx h x0 => cases hh; exact wordOf_vpackbx h x0
  | vunpbx h x0 => cases hh; exact wordOf_vunpbx h x0
  | mand h x0 x1 x2 => cases hh; exact wordOf_mand h x0 x1 x2
  | mor h x0 x1 x2 => cases hh; exact wordOf_mor h x0 x1 x2
  | mnot h x0 x1 => cases hh; exact wordOf_mnot h x0 x1
  | mpop h x0 x1 => cases hh; exact wordOf_mpop h x0 x1
  | sbind h x0 x1 => cases hh; exact wordOf_sbind h x0 x1
  | srep h x0 => cases hh; exact wordOf_srep h x0
  | tzero h x0 => cases hh; exact wordOf_tzero h x0
  | tmma h x0 => cases hh; exact wordOf_tmma h x0
  | tmmas h x0 x1 x2 => cases hh; exact wordOf_tmmas h x0 x1 x2
  | ttrans h x0 x1 => cases hh; exact wordOf_ttrans h x0 x1
  | tadd h x0 x1 x2 => cases hh; exact wordOf_tadd h x0 x1 x2
  | tcvt h x0 x1 x2 x3 => cases hh; exact wordOf_tcvt h x0 x1 x2 x3
  | tsel h x0 x1 x2 => cases hh; exact wordOf_tsel h x0 x1 x2
  | _ => cases hh

/-- A word whose guard is false does nothing (R23). -/
theorem exec_skips (i : Instr) (g : Bool × BitVec 3) (s : State) (hh : headOf i = some g) (hm : s.ctx.mode = .commit)
    (hc : s.cur.isSome = true) (hg : s.ctx.pre.guard g.1 g.2 = false) : exec i s = .next (s.onWord (isAWord i)) := by
  obtain ⟨w, st, h⟩ := wordOf i g hh s (by simp [hm])
  rw [h]
  exact runWord_skips hm hc hg _ _ _

/-- A word of an issuing bundle answers a next state. -/
theorem exec_answers (i : Instr) (g : Bool × BitVec 3) (s : State) (hh : headOf i = some g) (hm : s.ctx.mode ≠ .alone)
    (hc : s.cur.isSome = true) : ∃ t, exec i s = .next t := by
  obtain ⟨w, st, h⟩ := wordOf i g hh s hm
  rw [h]
  exact runWord_answers s _ _ _ _ _ hc

end Sys2Proof.Machine
end

