-- ==== Sys2Proof/Tests/Slice0.lean ====
section
/-! SUPPORT. Tests: the encodings of the spec, well-formedness, a state that meets the hypotheses of each statement, and
single steps. -/

namespace Sys2Proof.Tests

open Machine

/-- The head of a C-word and of an A-word with guard p7. -/
def h : CHead := ⟨0, false, 7⟩
def g : AHead := ⟨false, 7⟩

/-! Words put together by hand from the field tables of R30–R42, one for each word of the opcode table. -/

theorem test_words_alu_a :
    decodeA 0x70422080 = .ok (.add g ⟨1, 2, 1⟩) ∧
    decodeA 0x70445301 = .ok (.sub g ⟨2, 5, 6⟩) ∧
    decodeA 0x70468582 = .ok (.mul g ⟨3, 8, 11⟩) ∧
    decodeA 0x7048B803 = .ok (.mulh g ⟨4, 11, 16⟩) ∧
    decodeA 0x704AEA84 = .ok (.mulhn g ⟨5, 14, 21⟩) ∧
    decodeA 0x704D1D05 = .ok (.div g ⟨6, 17, 26⟩) ∧
    decodeA 0x704F4F86 = .ok (.divn g ⟨7, 20, 31⟩) ∧
    decodeA 0x70517207 = .ok (.rem g ⟨8, 23, 4⟩) ∧
    decodeA 0x7053A488 = .ok (.remn g ⟨9, 26, 9⟩) ∧
    decodeA 0x7055D709 = .ok (.and g ⟨10, 29, 14⟩) ∧
    decodeA 0x7056098A = .ok (.or g ⟨11, 0, 19⟩) ∧
    decodeA 0x70583C0B = .ok (.xor g ⟨12, 3, 24⟩) ∧
    decodeA 0x705A6E8C = .ok (.andn g ⟨13, 6, 29⟩) ∧
    decodeA 0x705C910D = .ok (.shl g ⟨14, 9, 2⟩) :=
  ⟨rfl, rfl, rfl, rfl, rfl, rfl, rfl, rfl, rfl, rfl, rfl, rfl, rfl, rfl⟩
theorem test_words_alu_a1 :
    decodeA 0x705EC38E = .ok (.shr g ⟨15, 12, 7⟩) ∧
    decodeA 0x7042F60F = .ok (.sra g ⟨1, 15, 12⟩) ∧
    decodeA 0x70452890 = .ok (.rot g ⟨2, 18, 17⟩) ∧
    decodeA 0x70534894 = .ok (.min g ⟨9, 20, 17⟩) ∧
    decodeA 0x70535895 = .ok (.max g ⟨9, 21, 17⟩) ∧
    decodeA 0x70536896 = .ok (.minn g ⟨9, 22, 17⟩) ∧
    decodeA 0x70537897 = .ok (.maxn g ⟨9, 23, 17⟩) :=
  ⟨rfl, rfl, rfl, rfl, rfl, rfl, rfl⟩
theorem test_words_unary_a :
    decodeA 0x7062D011 = .ok (.clz g ⟨17, 13⟩) ∧
    decodeA 0x7064C012 = .ok (.ctz g ⟨18, 12⟩) ∧
    decodeA 0x7066B013 = .ok (.popc g ⟨19, 11⟩) ∧
    decodeA 0x70706018 = .ok (.mov g ⟨24, 6⟩) ∧
    decodeA 0x70725019 = .ok (.sext8 g ⟨25, 5⟩) ∧
    decodeA 0x7074401A = .ok (.sext16 g ⟨26, 4⟩) ∧
    decodeA 0x7076301B = .ok (.sext32 g ⟨27, 3⟩) ∧
    decodeA 0x7078201C = .ok (.zext8 g ⟨28, 2⟩) ∧
    decodeA 0x707A101D = .ok (.zext16 g ⟨29, 1⟩) ∧
    decodeA 0x707C001E = .ok (.zext32 g ⟨30, 0⟩) ∧
    decodeA 0x704221A3 = .ok (.lea g ⟨1, 2, 3⟩ 3) ∧
    decodeA 0x7048532D = .ok (.sel g ⟨4, 5, 6⟩ 5) :=
  ⟨rfl, rfl, rfl, rfl, rfl, rfl, rfl, rfl, rfl, rfl, rfl, rfl⟩
theorem test_words_immediate_a :
    decodeA 0x708E8FFE = .ok (.addi g 7 8 0xFFE) ∧
    decodeA 0x70D3FFFF = .ok (.movImm g 9 0x1FFFF) ∧
    decodeA 0x712BBEEF = .ok (.movK g 10 3 0xBEEF) ∧
    decodeA 0x7156CA18 = .ok (.bfx g ⟨11, 12, 40, 24⟩) ∧
    decodeA 0x719AE000 = .ok (.bfi g ⟨13, 14, 0, 0⟩) ∧
    decodeA 0x71CA1924 = .ok (.cmp g 1 2 3 4 9) ∧
    decodeA 0x72359BC1 = .ok (.cmpi g 6 5 19 7 0x41) ∧
    decodeA 0x7241E000 = .ok (.pand g ⟨0, 1, true, 6, false⟩) ∧
    decodeA 0x7249E001 = .ok (.por g ⟨1, 1, true, 6, false⟩) ∧
    decodeA 0x7251E002 = .ok (.pxor g ⟨2, 1, true, 6, false⟩) ∧
    decodeA 0x72538003 = .ok (.pmov g 2 3 true) ∧
    decodeA 0x70000000 = .ok (.nopA g) :=
  ⟨rfl, rfl, rfl, rfl, rfl, rfl, rfl, rfl, rfl, rfl, rfl, rfl⟩
theorem test_words_float_a :
    decodeA 0x728A6380 = .ok (.fadd g ⟨5, 6, 7, 0, 0⟩) ∧
    decodeA 0x728A6395 = .ok (.fsub g ⟨5, 6, 7, 1, 1⟩) ∧
    decodeA 0x728A63AA = .ok (.fmul g ⟨5, 6, 7, 2, 2⟩) ∧
    decodeA 0x728A63F3 = .ok (.fma g ⟨5, 6, 7, 7, 0⟩) ∧
    decodeA 0x72D09508 = .ok (.fmin g ⟨8, 9, 10, 2⟩) ∧
    decodeA 0x72D09505 = .ok (.fmax g ⟨8, 9, 10, 1⟩) ∧
    decodeA 0x72D09502 = .ok (.fsgn g ⟨8, 9, 10, 0⟩) ∧
    decodeA 0x72D0950B = .ok (.fsgnN g ⟨8, 9, 10, 2⟩) ∧
    decodeA 0x730A191A = .ok (.fcmp g 1 2 3 4 3 1) ∧
    decodeA 0x73422C28 = .ok (.cvt g ⟨1, 2, 12, 2, 4⟩) :=
  ⟨rfl, rfl, rfl, rfl, rfl, rfl, rfl, rfl, rfl, rfl⟩
theorem test_words_vector_a :
    decodeA 0x74110C08 = .ok (.vaddF g ⟨8, 16, 24, 0, 2, 0⟩) ∧
    decodeA 0x74910C19 = .ok (.vsubF g ⟨8, 16, 24, 1, 2, 1⟩) ∧
    decodeA 0x75110C2A = .ok (.vmulF g ⟨8, 16, 24, 2, 2, 2⟩) ∧
    decodeA 0x75910C38 = .ok (.vfma g ⟨8, 16, 24, 3, 2, 0⟩) ∧
    decodeA 0x75D10C49 = .ok (.vfms g ⟨8, 16, 24, 4, 2, 1⟩) ∧
    decodeA 0x76110C5A = .ok (.vminF g ⟨8, 16, 24, 5, 2, 2⟩) ∧
    decodeA 0x76D10C68 = .ok (.vmaxF g ⟨8, 16, 24, 6, 2, 0⟩) ∧
    decodeA 0x74488604 = .ok (.vaddI g ⟨4, 8, 12, 0, 1, 0⟩) ∧
    decodeA 0x74C88615 = .ok (.vsubI g ⟨4, 8, 12, 1, 1, 1⟩) ∧
    decodeA 0x75488626 = .ok (.vmulI g ⟨4, 8, 12, 2, 1, 2⟩) ∧
    decodeA 0x76488637 = .ok (.vminS g ⟨4, 8, 12, 3, 1, 3⟩) ∧
    decodeA 0x76888644 = .ok (.vminN g ⟨4, 8, 12, 4, 1, 0⟩) ∧
    decodeA 0x77088655 = .ok (.vmaxS g ⟨4, 8, 12, 5, 1, 1⟩) ∧
    decodeA 0x77488666 = .ok (.vmaxN g ⟨4, 8, 12, 6, 1, 2⟩) :=
  ⟨rfl, rfl, rfl, rfl, rfl, rfl, rfl, rfl, rfl, rfl, rfl, rfl, rfl, rfl⟩
theorem test_words_vector_a1 :
    decodeA 0x77C88677 = .ok (.vand g ⟨4, 8, 12, 7, 1, 3⟩) ∧
    decodeA 0x78088604 = .ok (.vor g ⟨4, 8, 12, 0, 1, 0⟩) ∧
    decodeA 0x78488615 = .ok (.vxor g ⟨4, 8, 12, 1, 1, 1⟩) ∧
    decodeA 0x78888626 = .ok (.vshl g ⟨4, 8, 12, 2, 1, 2⟩) ∧
    decodeA 0x78C88637 = .ok (.vshr g ⟨4, 8, 12, 3, 1, 3⟩) ∧
    decodeA 0x79088644 = .ok (.vsra g ⟨4, 8, 12, 4, 1, 0⟩) ∧
    decodeA 0x79C88655 = .ok (.vsel g ⟨4, 8, 12, 5, 1, 1⟩) ∧
    decodeA 0x77846054 = .ok (.vabsF g ⟨2, 6, 5, 1, 0⟩) ∧
    decodeA 0x778460D5 = .ok (.vnegF g ⟨2, 6, 5, 1, 1⟩) ∧
    decodeA 0x77846156 = .ok (.vabsI g ⟨2, 6, 5, 1, 2⟩) ∧
    decodeA 0x778461D4 = .ok (.vnegI g ⟨2, 6, 5, 1, 0⟩) ∧
    decodeA 0x77846255 = .ok (.vrcp g ⟨2, 6, 5, 1, 1⟩) ∧
    decodeA 0x778462D6 = .ok (.vrsq g ⟨2, 6, 5, 1, 2⟩) ∧
    decodeA 0x77846354 = .ok (.vexp2 g ⟨2, 6, 5, 1, 0⟩) :=
  ⟨rfl, rfl, rfl, rfl, rfl, rfl, rfl, rfl, rfl, rfl, rfl, rfl, rfl, rfl⟩
theorem test_words_vector_a2 :
    decodeA 0x778463D5 = .ok (.vlog2 g ⟨2, 6, 5, 1, 1⟩) ∧
    decodeA 0x77846456 = .ok (.vmov g ⟨2, 6, 5, 1, 2⟩) :=
  ⟨rfl, rfl⟩
theorem test_words_lanes_a :
    decodeA 0x795C6559 = .ok (.vcmpF g ⟨3, 17, 18, 10, 6, 1⟩) ∧
    decodeA 0x79A52D27 = .ok (.vcmpI g ⟨4, 20, 22, 9, 1, 3⟩) ∧
    decodeA 0x7A044313 = .ok (.vperm g ⟨2, 4, 6, 1, 3⟩) ∧
    decodeA 0x7A823042 = .ok (.vcompress g ⟨1, 3, 4, 2⟩) ∧
    decodeA 0x7ACA7021 = .ok (.vexpand g ⟨5, 7, 2, 1⟩) ∧
    decodeA 0x7A469010 = .ok (.vbcast g 3 9 1) ∧
    decodeA 0x7A48A1F4 = .ok (.vext g 10 4 7 3) ∧
    decodeA 0x7A4ABFC8 = .ok (.vins g ⟨5, 11, 63, 0⟩) ∧
    decodeA 0x7B0C8537 = .ok (.vred g ⟨6, 8, 10, 3, 1, 3⟩) ∧
    decodeA 0x7B488102 = .ok (.vcvt g ⟨4, 8, 1, 0, 1⟩) ∧
    decodeA 0x7B92C260 = .ok (.vpackbx g ⟨9, 12, 2, 3, 0⟩) ∧
    decodeA 0x7B9C5510 = .ok (.vunpbx g ⟨14, 5, 1, 0, 2⟩) ∧
    decodeA 0x7BCA6000 = .ok (.mand g 1 2 3) ∧
    decodeA 0x7BE5C800 = .ok (.mor g 4 5 6) :=
  ⟨rfl, rfl, rfl, rfl, rfl, rfl, rfl, rfl, rfl, rfl, rfl, rfl, rfl, rfl⟩
theorem test_words_lanes_a1 :
    decodeA 0x7BD61000 = .ok (.mnot g 2 6) ∧
    decodeA 0x7BC71B40 = .ok (.mpop g 13 7) ∧
    decodeA 0x7C3E6000 = .ok (.sbind g 31 6) ∧
    decodeA 0x7C007400 = .ok (.srep g 7) :=
  ⟨rfl, rfl, rfl, rfl⟩
theorem test_words_tile_a :
    decodeA 0x7C680000 = .ok (.tzero g 5) ∧
    decodeA 0x7C538380 = .ok (.tmma g ⟨2, 3, 4, true, true⟩) ∧
    decodeA 0x7C4A64E8 = .ok (.tmmas g ⟨1, 2, 3, false, true⟩ 6 8) ∧
    decodeA 0x7C770600 = .ok (.ttrans g 6 7) ∧
    decodeA 0x7C4CE800 = .ok (.tadd g 1 4 7) ∧
    decodeA 0x7C5A0A5C = .ok (.tcvt g 3 2 2 7) ∧
    decodeA 0x7C610DF8 = .ok (.tsel g 4 1 63) :=
  ⟨rfl, rfl, rfl, rfl, rfl, rfl, rfl⟩
theorem test_words_flow_c :
    decodeC 0x07000000 0 = .ok (.nopC h) ∧
    decodeC 0x0707FFFE 0 = .ok (.br h (.short 0x3FFFE)) ∧
    decodeC 0x87080000 0xFFFFFFF0 = .ok (.call h (.long 0xFFFFFFF0)) ∧
    decodeC 0x070C0000 0 = .ok (.ret h) ∧
    decodeC 0x0712A000 0 = .ok (.jr h 21) ∧
    decodeC 0x0714E001 0 = .ok (.loop h 3 0x2001) ∧
    decodeC 0x07180000 0 = .ok (.yield h) ∧
    decodeC 0x071C0000 0 = .ok (.halt h) :=
  ⟨rfl, rfl, rfl, rfl, rfl, rfl, rfl, rfl⟩
theorem test_words_local_c :
    decodeC 0x07222E66 0 = .ok (.ld h ⟨17, 3, 4, true, 9, 2, none⟩) ∧
    decodeC 0x87249483 0x40 = .ok (.st h ⟨4, 5, 1, false, 0, 3, some 0x40⟩) ∧
    decodeC 0x07290B5D 0 = .ok (.ldv h ⟨8, 2, 3, true, 7, 1, none⟩) ∧
    decodeC 0x872D8600 0xFFFFFFC0 = .ok (.stv h ⟨12, 1, 2, false, 0, 0, some 0xFFFFFFC0⟩) ∧
    decodeC 0x0730C8FF 0 = .ok (.ldp h ⟨6, 2, 255⟩) ∧
    decodeC 0x0734F04E 0 = .ok (.segld h ⟨7, 4, true, 3, 2, none⟩) ∧
    decodeC 0x87385801 0x10 = .ok (.segst h ⟨2, 6, false, 0, 1, some 16⟩) ∧
    decodeC 0x073C6228 0 = .ok (.tagset h 3 ⟨2, 5, none⟩) ∧
    decodeC 0x873C8131 0x40 = .ok (.tagget h 4 ⟨1, 6, some 64⟩) ∧
    decodeC 0x073CE802 0 = .ok (.tlook h 7 8) ∧
    decodeC 0x073C221B 0 = .ok (.tfill h 1 2 3) ∧
    decodeC 0x073CB0FC 0 = .ok (.hsift h ⟨5, 16, none⟩ 31) ∧
    decodeC 0x073C6005 0 = .ok (.waitd h 3) :=
  ⟨rfl, rfl, rfl, rfl, rfl, rfl, rfl, rfl, rfl, rfl, rfl, rfl, rfl⟩
theorem test_words_tile_c :
    decodeC 0x0740C900 0 = .ok (.tcfg h 6 9) ∧
    decodeC 0x07402341 0 = .ok (.tld h 1 ⟨3, 8, none⟩) ∧
    decodeC 0x0740444A 0 = .ok (.tst h 2 ⟨4, 9, none⟩) ∧
    decodeC 0x07406553 0 = .ok (.tsave h 3 ⟨5, 10, none⟩) ∧
    decodeC 0x0740865C 0 = .ok (.trest h 4 ⟨6, 11, none⟩) ∧
    decodeC 0x07414B65 0 = .ok (.tcmd h 10 11 12) :=
  ⟨rfl, rfl, rfl, rfl, rfl, rfl⟩
theorem test_words_channel_c :
    decodeC 0x8745E770 0x80 = .ok (.elace h 15 ⟨7, 14, some 128⟩) ∧
    decodeC 0x07446401 0 = .ok (.econn h 3 4) ∧
    decodeC 0x0744A002 0 = .ok (.elisten h 5) ∧
    decodeC 0x0744C703 0 = .ok (.eaccept h 6 7) ∧
    decodeC 0x07450904 0 = .ok (.egrant h 8 9) ∧
    decodeC 0x07454005 0 = .ok (.eclose h 10) ∧
    decodeC 0x07456C06 0 = .ok (.estat h 11 12) ∧
    decodeC 0x0745AE07 0 = .ok (.eslot h 13 14) ∧
    decodeC 0x874A68F8 0x7F = .ok (.esend h ⟨9, 20, 1, true, true, 6, some 0x7F⟩) ∧
    decodeC 0x074D0F00 0 = .ok (.erecv h ⟨4, 7, 2, false, false, 0, none⟩) ∧
    decodeC 0x07504300 0 = .ok (.esel h 2 3) ∧
    decodeC 0x07508501 0 = .ok (.eoffer h 4 5) ∧
    decodeC 0x0750C702 0 = .ok (.ealt h 6 7) ∧
    decodeC 0x07510903 0 = .ok (.edeleg h 8 9) :=
  ⟨rfl, rfl, rfl, rfl, rfl, rfl, rfl, rfl, rfl, rfl, rfl, rfl, rfl, rfl⟩
theorem test_words_channel_c1 :
    decodeC 0x07514B04 0 = .ok (.ecatch h 10 11) ∧
    decodeC 0x07518D05 0 = .ok (.route h 12 13) :=
  ⟨rfl, rfl⟩
theorem test_words_slot_c :
    decodeC 0x0757E200 0 = .ok (.qcfg h 15 2) ∧
    decodeC 0x07542219 0 = .ok (.spawn h 1 2 3) ∧
    decodeC 0x07548002 0 = .ok (.wake h 4) ∧
    decodeC 0x07546533 0 = .ok (.marm h 3 ⟨5, 6, none⟩) ∧
    decodeC 0x0754E804 0 = .ok (.mwait h 7 8) ∧
    decodeC 0x07542005 0 = .ok (.mdisarm h 1) ∧
    decodeC 0x07544956 0 = .ok (.barinit h ⟨2, 9, none⟩ 10) ∧
    decodeC 0x07546B07 0 = .ok (.bararr h ⟨3, 11, none⟩) ∧
    decodeC 0x0759846E 0 = .ok (.barwait h 12 ⟨4, 13, none⟩ 6) :=
  ⟨rfl, rfl, rfl, rfl, rfl, rfl, rfl, rfl, rfl⟩
theorem test_words_global_c :
    decodeC 0x075CA74B 0 = .ok (.gld h ⟨5, 1, 6, true, 2, 3, none⟩) ∧
    decodeC 0x0760C9D0 0 = .ok (.gst h ⟨6, 2, 3, true, 4, none⟩) ∧
    decodeC 0x0764ED56 0 = .ok (.gstc h ⟨7, 3, 1, 5, 6, none⟩) ∧
    decodeC 0x876912F2 0x7BFFFFFF = .ok (.gatom h ⟨8, 4, true, 7, 9, 7, 2, 0x3FFFFFF⟩) ∧
    decodeC 0x876C1414 0x54000008 = .ok (.gred h ⟨5, false, 0, 10, 5, 1, 8⟩) ∧
    decodeC 0x0775A770 0 = .ok (.frd h 13 ⟨7, 14, none⟩) ∧
    decodeC 0x877851C5 0x1000 = .ok (.copy h ⟨1, 2, 3, 4, 5⟩ (.imm 4096)) ∧
    decodeC 0x8779BC19 0x8000000A = .ok (.copy h ⟨6, 7, 8, 1, 9⟩ (.reg 10)) ∧
    decodeC 0x877EDE2D 0xEF000100 = .ok (.copyg h ⟨11, 3, 12, 2, 13⟩ 14 15 256) ∧
    decodeC 0x07806F80 0 = .ok (.cpref h ⟨3, 15, none⟩ 16) ∧
    decodeC 0x07840002 0 = .ok (.fence h 2) ∧
    decodeC 0x87716600 0x100 = .ok (.amsg h 11 6 0x100) :=
  ⟨rfl, rfl, rfl, rfl, rfl, rfl, rfl, rfl, rfl, rfl, rfl, rfl⟩
theorem test_words_travel_c :
    decodeC 0x07882200 0 = .ok (.travel h ⟨1, 2, none⟩) ∧
    decodeC 0x07886429 0 = .ok (.tspawn h ⟨3, 4, none⟩ 5) ∧
    decodeC 0x0788C002 0 = .ok (.tseg h 6) ∧
    decodeC 0x078CE800 0 = .ok (.fork h 7 8) ∧
    decodeC 0x078D2001 0 = .ok (.join h 9) ∧
    decodeC 0x878C8A02 0x0 = .ok (.launch h ⟨4, 10, some 0⟩) ∧
    decodeC 0x078D6003 0 = .ok (.grow h 11) ∧
    decodeC 0x078C0004 0 = .ok (.commit h) ∧
    decodeC 0x078C0005 0 = .ok (.done h) :=
  ⟨rfl, rfl, rfl, rfl, rfl, rfl, rfl, rfl, rfl⟩
theorem test_words_system_c :
    decodeC 0x07900000 0 = .ok (.sealCut h) ∧
    decodeC 0x07900001 0 = .ok (.sealw h) ∧
    decodeC 0x07918002 0 = .ok (.rin h 12) ∧
    decodeC 0x07900003 0 = .ok (.xsync h) ∧
    decodeC 0x0795A084 0 = .ok (.crd h 13 0x084) ∧
    decodeC 0x0799C010 0 = .ok (.cwr h 14 0x010) ∧
    decodeC 0x079C0FFF 0 = .ok (.trap h 0xFFF) ∧
    decodeC 0x07A00001 0 = .ok (.syscall h 1) ∧
    decodeC 0x07A40800 0 = .ok (.brk h 0x800) ∧
    decodeC 0x07A8AF80 0 = .ok (.iload h ⟨5, 15, none⟩ 16) ∧
    decodeC 0x07A80001 0 = .ok (.eret h) :=
  ⟨rfl, rfl, rfl, rfl, rfl, rfl, rfl, rfl, rfl, rfl, rfl⟩

/-! Words that the spec writes out beside their assembly. -/

/-- `cmp.ltn p1,p2,s3,s4`; `call +10`; `br +3`; `br -3`; `nopC`; `nopA`; `waitd d2`; `waitd d1`; `ldp.n32 s4,24`; `tlook
s3,s5`; `hsift [sg1+s6],s2`; `sbind v28,s4`; `vfma.f32 v0,v28,v29`; `vred.add.f32 v1,v0`. -/
theorem test_spec_words_0 :
    decodeA 0x71CA1918 = .ok (.cmp g 1 2 3 4 6) ∧
    decodeC 0x0708000A 0 = .ok (.call h (.short 10)) ∧
    decodeC 0x07040003 0 = .ok (.br h (.short 3)) ∧
    decodeC 0x0707FFFD 0 = .ok (.br h (.short 0x3FFFD)) ∧
    decodeC 0x07000000 0 = .ok (.nopC h) ∧
    decodeA 0x70000000 = .ok (.nopA g) ∧
    decodeC 0x073C4005 0 = .ok (.waitd h 2) ∧
    decodeC 0x073C2005 0 = .ok (.waitd h 1) ∧
    decodeC 0x07309818 0 = .ok (.ldp h ⟨4, 6, 24⟩) ∧
    decodeC 0x073C6502 0 = .ok (.tlook h 3 5) ∧
    decodeC 0x073C2614 0 = .ok (.hsift h ⟨1, 6, none⟩ 2) ∧
    decodeA 0x7C384000 = .ok (.sbind g 28 4) ∧
    decodeA 0x7581CEF0 = .ok (.vfma g ⟨0, 28, 29, 7, 0, 0⟩) ∧
    decodeA 0x7B020070 = .ok (.vred g ⟨1, 0, 0, 7, 0, 0⟩) :=
  ⟨rfl, rfl, rfl, rfl, rfl, rfl, rfl, rfl, rfl, rfl, rfl, rfl, rfl, rfl⟩
/-- `vext.n32 s7,v1,0`; `tsel t3,t2,2`; `tsel t1,t0,16`; `gstc.32 s1,[sg0+s2],s3`; `amsg s5,[sg1+s0],h`; `iload [sg1+s2],s3`;
`eret`; `yield`; `halt`; `tseg s4`; `esel e2,1`; `eoffer e0,s5`; `tld t1,[sg2+s3]`; `travel [sg1+s2]`. -/
theorem test_spec_words_1 :
    decodeA 0x7A427024 = .ok (.vext g 7 1 0 2) ∧
    decodeA 0x7C5A0C10 = .ok (.tsel g 3 2 2) ∧
    decodeA 0x7C480C80 = .ok (.tsel g 1 0 16) ∧
    decodeC 0x07642223 0 = .ok (.gstc h ⟨1, 0, 2, 2, 3, none⟩) ∧
    decodeC 0x8770A100 0 = .ok (.amsg h 5 1 0) ∧
    decodeC 0x07A82218 0 = .ok (.iload h ⟨1, 2, none⟩ 3) ∧
    decodeC 0x07A80001 0 = .ok (.eret h) ∧
    decodeC 0x07180000 0 = .ok (.yield h) ∧
    decodeC 0x071C0000 0 = .ok (.halt h) ∧
    decodeC 0x07888002 0 = .ok (.tseg h 4) ∧
    decodeC 0x07504100 0 = .ok (.esel h 2 1) ∧
    decodeC 0x07500501 0 = .ok (.eoffer h 0 5) ∧
    decodeC 0x07402219 0 = .ok (.tld h 1 ⟨2, 3, none⟩) ∧
    decodeC 0x07882200 0 = .ok (.travel h ⟨1, 2, none⟩) :=
  ⟨rfl, rfl, rfl, rfl, rfl, rfl, rfl, rfl, rfl, rfl, rfl, rfl, rfl, rfl⟩
/-- `elace e0,[sg1+s4]`; `crd s3,cycle`; `cwr fflags,s0`; `cwr spawnlim,s1`; `esend e2,s1`; `erecv e2,s2`; `erecv.acq e2,t3`;
`erecv.st e1,s9,p1`; `frd s7,[sg2+s8]`; `gatom.add.n64 s5,[sg1+s2+16],s6`; `gatom s9,[sg0+s7],s3`; `gld.n64
s3,[sg2+s4*8],d1`; `ld.n16 (p4) s8,[sg1+s11*2+0x1006],d1`; `ld.n64 s8,[sg0+s6*8+0x2000]`. -/
theorem test_spec_words_2 :
    decodeC 0x07440120 0 = .ok (.elace h 0 ⟨1, 4, none⟩) ∧
    decodeC 0x07946060 0 = .ok (.crd h 3 96) ∧
    decodeC 0x07980011 0 = .ok (.cwr h 0 17) ∧
    decodeC 0x07982041 0 = .ok (.cwr h 1 65) ∧
    decodeC 0x07488200 0 = .ok (.esend h ⟨2, 1, 0, false, false, 0, none⟩) ∧
    decodeC 0x074C8400 0 = .ok (.erecv h ⟨2, 2, 0, false, false, 0, none⟩) ∧
    decodeC 0x074C8740 0 = .ok (.erecv h ⟨2, 3, 2, true, false, 0, none⟩) ∧
    decodeC 0x074C5224 0 = .ok (.erecv h ⟨1, 9, 0, false, true, 1, none⟩) ∧
    decodeC 0x0774E240 0 = .ok (.frd h 7 ⟨2, 8, none⟩) ∧
    decodeC 0x8768A64C 0x0C000010 = .ok (.gatom h ⟨5, 1, true, 2, 6, 0, 3, 16⟩) ∧
    decodeC 0x876922E6 0x0C000000 = .ok (.gatom h ⟨9, 0, true, 7, 3, 0, 3, 0⟩) ∧
    decodeC 0x075C69D1 0 = .ok (.gld h ⟨3, 2, 3, true, 4, 1, none⟩) ∧
    decodeC 0x842106ED 0x1006 = .ok (.ld ⟨0, false, 4⟩ ⟨8, 1, 5, true, 11, 1, some 0x1006⟩) ∧
    decodeC 0x872101D8 0x2000 = .ok (.ld h ⟨8, 0, 3, true, 6, 0, some 0x2000⟩) :=
  ⟨rfl, rfl, rfl, rfl, rfl, rfl, rfl, rfl, rfl, rfl, rfl, rfl, rfl, rfl⟩
/-- `loop s2,-4`; `ret`; `jr s5`; `srep s5`; `tcmd s4,s5,s6`; `tmma.acc t2,t0,t1`; `tmmas.n4 t4,t0,t1,t2`; `tspawn
[sg1+s2],s3`; `vcmp.lt.f32 vm1,v2,v3`; `fork s1,s2`; `join s3`; `launch [sg1+s2]`; `grow s4`; `commit`. -/
theorem test_spec_words_3 :
    decodeC 0x0714BFFC 0 = .ok (.loop h 2 0x3FFC) ∧
    decodeC 0x070C0000 0 = .ok (.ret h) ∧
    decodeC 0x0710A000 0 = .ok (.jr h 5) ∧
    decodeA 0x7C005400 = .ok (.srep g 5) ∧
    decodeC 0x07408535 0 = .ok (.tcmd h 4 5 6) ∧
    decodeA 0x7C502300 = .ok (.tmma g ⟨2, 0, 1, true, false⟩) ∧
    decodeA 0x7C602424 = .ok (.tmmas g ⟨4, 0, 1, false, false⟩ 2 4) ∧
    decodeC 0x07882219 0 = .ok (.tspawn h ⟨1, 2, none⟩ 3) ∧
    decodeA 0x7948865C = .ok (.vcmpF g ⟨1, 2, 3, 2, 7, 0⟩) ∧
    decodeC 0x078C2200 0 = .ok (.fork h 1 2) ∧
    decodeC 0x078C6001 0 = .ok (.join h 3) ∧
    decodeC 0x078C2202 0 = .ok (.launch h ⟨1, 2, none⟩) ∧
    decodeC 0x078C8003 0 = .ok (.grow h 4) ∧
    decodeC 0x078C0004 0 = .ok (.commit h) :=
  ⟨rfl, rfl, rfl, rfl, rfl, rfl, rfl, rfl, rfl, rfl, rfl, rfl, rfl, rfl⟩
/-- `done`; `qcfg q1,s2`; `spawn s1,s2,s3`; `wake s4`; `marm 0,[sg1+s2]`; `mwait s5,s6`; `mdisarm 2`; `barinit [sg1+s2],s3`;
`bararr [sg1+s2]`; `barwait p1,s4,[sg1+s2]`; `seal`; `sealw`; `rin s3`; `xsync`. -/
theorem test_spec_words_4 :
    decodeC 0x078C0005 0 = .ok (.done h) ∧
    decodeC 0x07562200 0 = .ok (.qcfg h 1 2) ∧
    decodeC 0x07542219 0 = .ok (.spawn h 1 2 3) ∧
    decodeC 0x07548002 0 = .ok (.wake h 4) ∧
    decodeC 0x07540113 0 = .ok (.marm h 0 ⟨1, 2, none⟩) ∧
    decodeC 0x0754A604 0 = .ok (.mwait h 5 6) ∧
    decodeC 0x07544005 0 = .ok (.mdisarm h 2) ∧
    decodeC 0x0754221E 0 = .ok (.barinit h ⟨1, 2, none⟩ 3) ∧
    decodeC 0x07542207 0 = .ok (.bararr h ⟨1, 2, none⟩) ∧
    decodeC 0x07588111 0 = .ok (.barwait h 4 ⟨1, 2, none⟩ 1) ∧
    decodeC 0x07900000 0 = .ok (.sealCut h) ∧
    decodeC 0x07900001 0 = .ok (.sealw h) ∧
    decodeC 0x07906002 0 = .ok (.rin h 3) ∧
    decodeC 0x07900003 0 = .ok (.xsync h) :=
  ⟨rfl, rfl, rfl, rfl, rfl, rfl, rfl, rfl, rfl, rfl, rfl, rfl, rfl, rfl⟩
/-- `fence 0`; `fence 3`; `mov (!p3) s7,s6`; `(p1) route s14,s3`; `bfx s10,s10,24,8`; `ctz s4,s2`; `shl s12,s13,s2`; `eclose
e2`; `edeleg e0,s5`; `ecatch e0,s5`; `estat s10,e0`; `fcmp.lt.f16 p1,p2,s2,s3`; `gstc.32 s10,[sg0+s7+0x5000],s2`; `tspawn
[sg0+s3+0x2000],s4`. -/
theorem test_spec_words_5 :
    decodeC 0x07840000 0 = .ok (.fence h 0) ∧
    decodeC 0x07840003 0 = .ok (.fence h 3) ∧
    decodeA 0xB04E6018 = .ok (.mov ⟨true, 3⟩ ⟨7, 6⟩) ∧
    decodeC 0x0151C305 0 = .ok (.route ⟨0, false, 1⟩ 14 3) ∧
    decodeA 0x7154A608 = .ok (.bfx g ⟨10, 10, 24, 8⟩) ∧
    decodeA 0x70482012 = .ok (.ctz g ⟨4, 2⟩) ∧
    decodeA 0x7058D10D = .ok (.shl g ⟨12, 13, 2⟩) ∧
    decodeC 0x07444005 0 = .ok (.eclose h 2) ∧
    decodeC 0x07500503 0 = .ok (.edeleg h 0 5) ∧
    decodeC 0x07500504 0 = .ok (.ecatch h 0 5) ∧
    decodeC 0x07454006 0 = .ok (.estat h 10 0) ∧
    decodeA 0x730A10CA = .ok (.fcmp g 1 2 2 3 1 1) ∧
    decodeC 0x87654272 0x5000 = .ok (.gstc h ⟨10, 0, 2, 7, 2, some 0x5000⟩) ∧
    decodeC 0x87880321 0x2000 = .ok (.tspawn h ⟨0, 3, some 0x2000⟩ 4) :=
  ⟨rfl, rfl, rfl, rfl, rfl, rfl, rfl, rfl, rfl, rfl, rfl, rfl, rfl, rfl⟩
/-- `trap 5`; `syscall 0x12`; `brk 1`. -/
theorem test_spec_words_6 :
    decodeC 0x079C0005 0 = .ok (.trap h 5) ∧
    decodeC 0x07A00012 0 = .ok (.syscall h 18) ∧
    decodeC 0x07A40001 0 = .ok (.brk h 1) :=
  ⟨rfl, rfl, rfl⟩

/-! Well-formedness: one ill-formed term for each check, and neighbours that pass. -/

/-- IX = 0 with an index, a reserved type, an unaligned group, a reserved payload class, a predicate without ST, a tile
register above 7, reserved atomic operations and a queue operand of a compare-and-swap, a length above the limit, an empty
row, an unassigned control register (R30–R34, R43). -/
theorem test_ill_formed_c : [Instr.ld h ⟨1, 0, 3, false, 1, 0, none⟩, .st h ⟨1, 0, 7, false, 0, 0, none⟩,
    .ldv h ⟨2, 0, 2, false, 0, 0, none⟩, .stv h ⟨1, 0, 1, false, 0, 0, none⟩, .ldp h ⟨1, 7, 0⟩,
    .segld h ⟨0, 0, false, 2, 0, none⟩, .segst h ⟨0, 0, false, 2, 0, none⟩, .esend h ⟨0, 1, 3, false, false, 0, none⟩,
    .erecv h ⟨0, 1, 0, false, false, 1, none⟩, .erecv h ⟨0, 8, 2, false, false, 0, none⟩, .gld h ⟨1, 0, 7, false, 0, 0, none⟩,
    .gst h ⟨1, 0, 3, false, 1, none⟩, .gatom h ⟨1, 0, false, 0, 1, 8, 0, 0⟩, .gatom h ⟨16, 0, false, 0, 1, 7, 0, 0⟩,
    .gred h ⟨0, false, 0, 1, 6, 0, 0⟩, .copy h ⟨0, 0, 0, 0, 0⟩ (.imm 16777217), .copyg h ⟨0, 0, 0, 0, 0⟩ 0 0 0,
    .crd h 1 0x007, .cwr h 1 0x085].all (fun i => !i.wf) = true := by decide
/-- POS + LEN above 64, a queue destination that is read, reserved CC, RM, FT, FC and formats, unaligned groups and pairs,
lanes out of range, a reserved reduction, block format, stream register and count (R37–R39, R42, R43). -/
theorem test_ill_formed_a : [Instr.bfx g ⟨1, 2, 1, 0⟩, .bfi g ⟨16, 2, 0, 1⟩, .cmp g 1 2 3 4 10, .cmpi g 1 2 3 15 0, .fadd g ⟨1, 2, 3, 5, 0⟩,
    .fsub g ⟨1, 2, 3, 0, 3⟩, .fmul g ⟨1, 2, 3, 6, 0⟩, .fma g ⟨16, 2, 3, 0, 0⟩, .fmin g ⟨1, 2, 3, 3⟩, .fmax g ⟨1, 2, 3, 3⟩,
    .fsgn g ⟨1, 2, 3, 3⟩, .fsgnN g ⟨1, 2, 3, 3⟩, .fcmp g 1 2 3 4 4 0, .fcmp g 1 2 3 4 0 3, .cvt g ⟨1, 2, 13, 0, 0⟩,
    .vaddF g ⟨0, 0, 0, 7, 0, 3⟩, .vaddI g ⟨1, 0, 0, 7, 0, 3⟩, .vmulF g ⟨0, 1, 0, 7, 1, 0⟩, .vshl g ⟨0, 0, 2, 7, 2, 0⟩,
    .vabsF g ⟨0, 0, 7, 0, 3⟩, .vnegI g ⟨0, 1, 7, 0, 3⟩, .vcmpF g ⟨0, 1, 2, 6, 7, 0⟩, .vcmpI g ⟨0, 1, 2, 10, 7, 0⟩,
    .vcmpI g ⟨0, 1, 2, 0, 7, 3⟩, .vperm g ⟨1, 2, 4, 7, 3⟩, .vbcast g 1 2 3, .vext g 1 2 8 3, .vins g ⟨0, 1, 16, 2⟩,
    .vcompress g ⟨1, 2, 7, 3⟩, .vred g ⟨0, 0, 11, 7, 0, 0⟩, .vred g ⟨0, 0, 0, 7, 0, 3⟩, .vcvt g ⟨1, 0, 1, 0, 0⟩,
    .vpackbx g ⟨0, 0, 3, 0, 0⟩, .vunpbx g ⟨2, 0, 0, 0, 0⟩, .sbind g 27 1, .tmmas g ⟨0, 1, 2, false, false⟩ 3 0,
    .tcvt g 0 1 0 5].all (fun i => !i.wf) = true := by decide
theorem test_well_formed : [Instr.ld h ⟨1, 0, 3, false, 0, 0, none⟩, .ldv h ⟨4, 0, 2, false, 0, 0, none⟩,
    .erecv h ⟨0, 7, 2, false, true, 1, none⟩, .copy h ⟨0, 0, 0, 0, 0⟩ (.imm 16777216), .crd h 1 0x084, .bfx g ⟨1, 2, 0, 0⟩,
    .cmp g 1 2 3 4 9, .fadd g ⟨1, 2, 3, 7, 2⟩, .vext g 1 2 7 3, .vred g ⟨0, 0, 10, 7, 0, 0⟩, .sbind g 28 1,
    .tmmas g ⟨0, 1, 2, false, false⟩ 3 8].all Instr.wf = true := by decide
/-- Reserved encodings are refused by name: an unassigned major, an unassigned function, a reserved field that is not zero, a
literal where none is taken (R43). -/
theorem test_refused_words : decodeC 0x07AC0000 0 = .error ⟨1, 1⟩ ∧ decodeC 0x07900004 0 = .error ⟨1, 2⟩ ∧ decodeC 0x070C0001 0 = .error ⟨2, 1⟩ ∧
    decodeC 0x870C0000 0 = .error ⟨1, 3⟩ ∧ decodeA 0x7C800000 = .error ⟨1, 1⟩ ∧ decodeA 0x7040007F = .error ⟨1, 2⟩ :=
  ⟨rfl, rfl, rfl, rfl, rfl, rfl⟩

/-! Small states. -/

/-- A thread that runs in slot 0 of core 0; every segment register names 64 KiB of that core's scratchpad, readable and
writable. -/
def th : Thread :=
  { Thread.reset with
    tid := 7, task := 1, pdid := 2, pc := 0x40, p := 0xFF
    s := (Thread.reset.s.set 2 5).set 3 9, twin := 0xFF76543210
    sg := Vector.replicate 8 ⟨0x0200000000000000, 0x0000980000010000⟩ }
/-- Core 0, assigned to domain 2, with one thread. -/
def oneCore (t : Thread) : Core :=
  { Core.reset with
    v := true, pdid := 2, threads := [(0, t)], place := [(0, ⟨true, false, 0⟩)], devPlace := [(0, ⟨true, false, 0⟩)] }
/-- A state in which a word of that thread's bundle is looked at. -/
def at_ (m : Mode) (t : Thread) (k : Core) : State :=
  { State.reset with cores := [(0, k)], ctx := ⟨0, 0, m, [], t, k.queues, ⟨t.pc, 0, false, false⟩, Finding.none⟩ }
/-- A word of that thread's bundle issues. -/
def s0 : State := at_ .commit th (oneCore th)
/-- The thread as a source of requests. -/
def me : SlotRef := ⟨0, 0, 7⟩
/-- No origin in particular. -/
def org0 : Origin := ⟨0x40, 0, false, false⟩
/-- A step's own state. -/
def sub (x : Subj) : State := { s0 with subj := x }

/-! A state and operands that meet the hypotheses of each statement. -/

theorem issues : s0.Issues false 7 := ⟨rfl, rfl, rfl⟩
theorem wit_ScalarIntegerResults : s0.Issues false 7 ∧ s0.sval 1 = 0 ∧ s0.sval 2 ≠ 0 := ⟨issues, rfl, by decide⟩
theorem wit_CompareAndPredicateResults : s0.Issues false 7 ∧ (0 : BitVec 4).toNat < 10 ∧ (9 : BitVec 4).toNat < 10 :=
  ⟨issues, by decide, by decide⟩
theorem wit_ScalarFloatResults : s0.Issues false 7 ∧ (0 : BitVec 2) ≠ 3 ∧ (2 : BitVec 2) ≠ 3 ∧
    (Machine.Num.nan true).isNaN = true ∧ ((Machine.Num.fin false 1 0).isZero && (Machine.Num.inf false).isInf) = false :=
  ⟨issues, by decide, by decide, rfl, rfl⟩
theorem wit_DivisionStartsAndFrame : s0.Issues false 7 ∧ ∃ t, exec (.div ⟨false, 7⟩ ⟨1, 3, 2⟩) s0 = .next t :=
  ⟨issues, _, rfl⟩
theorem wit_ScalarFrame : scalarFixed (.add ⟨false, 7⟩ ⟨1, 2, 3⟩) = true ∧ s0.ctx.mode = .commit ∧
    ∃ t, exec (.add ⟨false, 7⟩ ⟨1, 2, 3⟩) s0 = .next t := ⟨rfl, rfl, _, rfl⟩
/-- Core 0 with two results due now. -/
def sDue : State := at_ .commit th { oneCore th with due := [⟨0, 7, .sreg 1, 3, 2 ^ 64 - 1, 0, 0⟩, ⟨0, 7, .preg 7, 0, 1, 0, 1⟩] }
theorem wit_DueResultsAndHardwired :
    (sDue.coreAt 0).due.filter (·.due ≤ sDue.cycle) = [] ++ ⟨0, 7, .sreg 1, 3, 2 ^ 64 - 1, 0, 0⟩ :: [⟨0, 7, .preg 7, 0, 1, 0, 1⟩] ∧
    (RegDst.preg 7 ≠ .sreg 1) ∧ sDue.threadAt 0 0 = some th ∧ th.tid = 7 := ⟨rfl, by decide, rfl, rfl⟩
/-- A travelling thread. -/
def thT : Thread := { th with status := 0x80, pdid := 2 }
def sT : State := at_ .commit thT (oneCore thT)
theorem wit_ControlTransfers : s0.Issues false 7 ∧ s0.ctx.pre.kind ≠ 2 ∧ s0.curCore.issuepol.getLsbD 0 = false ∧
    (0x44 : Word32).toNat % 8 ≠ 0 ∧ (0x10000 : Word32).toNat / 65536 ≠ 0 ∧ (0xFFF8 : Word32).toNat / 65536 = 0 ∧
    sT.Issues false 7 ∧ sT.ctx.pre.kind = 2 := ⟨issues, by decide, rfl, by decide, by decide, by decide, ⟨rfl, rfl, rfl⟩, by decide⟩
def sP : State := at_ .probe th (oneCore th)
/-- A result due later. -/
def sEarly : State := at_ .probe th { oneCore th with due := [⟨0, 7, .sreg 2, 3, 2 ^ 64 - 1, 4, 0⟩] }
theorem wit_GuardsAndEarlyReads : headOf (.nopA ⟨true, 7⟩) = some (true, 7) ∧ s0.cur.isSome = true ∧ s0.ctx.mode = .commit ∧
    s0.ctx.pre.guard true 7 = false ∧ sP.ctx.mode = .probe ∧ sP.view.guard true 7 = false ∧
    sEarly.curCore.due = [⟨0, 7, .sreg 2, 3, 2 ^ 64 - 1, 4, 0⟩] ∧ sEarly.cycle < 4 ∧ sEarly.cur = some th ∧ th.sEmpty = 0 ∧
    th.vEmpty = 0 ∧ sEarly.curCore.issuechk = 0 := ⟨rfl, rfl, rfl, rfl, rfl, rfl, rfl, by decide, rfl, rfl, rfl, rfl⟩
theorem wit_GuardsAndEarlyReads_wait :
    (at_ .probe th { oneCore th with issuechk := 1 }).curCore.issuechk = 1 := rfl
/-- A thread with an empty register. -/
def thE : Thread := { th with sEmpty := 4 }
theorem wit_BundleStages : s0.cur = some th ∧ (∀ w ∈ s0.curCore.due, w.slot ≠ s0.ctx.slot) ∧ thE.isEmpty (.sreg 2) = true ∧
    th.isEmpty (.sreg 2) = false ∧ twice ([(false, Finding.none), (true, Finding.none)].flatMap fun f => overlapWrites f.2.acc) = false ∧
    ([3, 15] : List Nat) ≠ [] ∧ (∀ x ∈ ([3, 15] : List Nat), x < 16) ∧ (1 : Word).getLsbD 0 = true :=
  ⟨rfl, fun _ h => (List.not_mem_nil h).elim, by decide, by decide, rfl, by decide, by decide, by decide⟩
/-- A segment register of the scratchpad. -/
def g0 : Seg := ⟨0x0200000000000000, 0x0000980000010000⟩
theorem wit_SegmentAddressAndChecks : g0.attr.getLsbD 47 = true ∧ g0.attr.getLsbD 43 = true ∧ g0.attr.getLsbD 44 = true ∧
    (0xFFF8 : Int) + 8 ≤ (g0.attr.toNat % 2 ^ 43 : Nat) ∧ ¬((0xFFF9 : Int) + 8 ≤ (g0.attr.toNat % 2 ^ 43 : Nat)) ∧
    (g0.addr 0xFFF8).toNat % 8 = 0 ∧ s0.r15Span s0.ctx.core (g0.addr 0xFFF8) 8 = none ∧ (g0.addr 4).toNat % 8 ≠ 0 ∧
    Seg.reset.attr.getLsbD 47 = false := ⟨rfl, rfl, rfl, by decide, by decide, by decide, rfl, by decide, rfl⟩
theorem wit_ScratchpadWords : s0.Issues false 7 ∧ s0.check (s0.refCM 0 false 0 (some 0xFFF8) 8) 8 true false 8 = .ok 0x020000000000FFF8 ∧
    s0.check (s0.refCM 0 false 0 (some 0xFFF8) 8) 8 false true 8 = .ok 0x020000000000FFF8 ∧
    s0.check (s0.refCM 0 false 0 none 16) 16 true false 16 = .ok 0x0200000000000000 ∧
    s0.check (s0.refCM 0 false 0 none 16) 16 false true 16 = .ok 0x0200000000000000 ∧
    s0.check (s0.refR ⟨0, 0, none⟩ [1]) 64 false true 64 = .ok 0x0200000000000000 ∧
    s0.check (s0.refR ⟨0, 0, none⟩) 64 true false 64 = .ok 0x0200000000000000 ∧
    s0.check (s0.refR ⟨0, 0, none⟩) 64 true true 64 = .ok 0x0200000000000000 ∧
    s0.check (s0.refCM 0 false 0 none 512) 512 true false 64 = .ok 0x0200000000000000 ∧
    s0.check (s0.refCM 0 false 0 none 512) 512 false true 64 = .ok 0x0200000000000000 :=
  ⟨issues, rfl, rfl, rfl, rfl, rfl, rfl, rfl, rfl, rfl⟩
theorem wit_LocalQueueAndFrame : s0.cur = some th ∧ th.tid = s0.view.tid ∧ localWord (.waitd ⟨0, false, 7⟩ 0) = true ∧
    s0.ctx.mode = .commit ∧ ∃ t, exec (.waitd ⟨0, false, 7⟩ 0) s0 = .next t := ⟨rfl, rfl, rfl, rfl, _, rfl⟩
theorem wit_TablesWaitAndHeap : s0.Issues false 7 ∧ (0xFFFFFFFF : Word).toNat % 2 ^ 32 = 0xFFFFFFFF ∧ sP.ctx.mode = .probe ∧
    sP.cur.isSome = true ∧ sP.view.guard false 7 = true ∧ sP.view.dcount 3 = 0 ∧
    { th with d := th.d.set 0 1 }.dcount 0 ≠ 0 ∧ (0x073C8005 : BitVec 32).toNat / 2 ^ 18 % 64 = 0x0F ∧
    3 < (0x073C8005 : BitVec 32).toNat / 2 ^ 13 % 32 ∧ (0x073C8005 : BitVec 32).toNat / 8 % 2 ^ 10 = 0 ∧
    ([5, 3] : List Nat).length < 3 ∧ ([5, 3] : List Nat).length = 2 :=
  ⟨issues, by decide, rfl, rfl, rfl, rfl, by decide, by decide, by decide, by decide, by decide, rfl⟩
theorem canonical : s0.Canonical := ⟨rfl, rfl, rfl, rfl, rfl, rfl⟩
theorem wit_ScratchpadStores : s0.Canonical ∧ 0x38 % 64 + ([1, 2, 3, 4, 5, 6, 7, 8] : List Byte).length ≤ 64 ∧
    s0.threadAt 0 0 = some th ∧ s0.hasUndo (s0.coreAt 0).rinCur 0 0 false = false ∧
    (s0.spadWrite 0 0 [1] false).hasUndo (s0.coreAt 0).rinCur 0 0 false = true := ⟨canonical, by decide, rfl, rfl, rfl⟩
def sSet : State := { s0 with cores := [(0, { oneCore th with segCache := [(2, [g0])] })] }
theorem wit_TrackedResultsAndSegments : s0.threadAt 0 0 = some th ∧ th.tid = me.tid ∧
    tget (sSet.coreAt 0).segCache th.pdid = some [g0] ∧ sSet.threadAt 0 0 = some th ∧
    ((0x0000880000000040 : Word).toNat / 2 ^ 48 = 0 ∧ covers g0 ⟨0x0200000000000000, 0x0000880000000040⟩ = true) ∧
    ¬(0x0001000000000000 : Word).toNat / 2 ^ 48 = 0 := ⟨rfl, rfl, rfl, rfl, by decide, by decide⟩
theorem wit_VectorIntegerLanes : s0.Issues false 7 := issues
theorem wit_MaskAndLaneResults : s0.Issues false 7 := issues
theorem wit_ReductionAndConversionResults : s0.Issues false 7 ∧ 3 ≤ (3 : BitVec 5).toNat ∧ (10 : BitVec 5).toNat ≤ 10 ∧
    (0 : BitVec 4).toNat < 13 ∧ (12 : BitVec 4).toNat < 13 := ⟨issues, by decide, by decide, by decide, by decide⟩
theorem wit_VectorFloatLanes : readFmt (fmtOf 0) false 0x7F800001 = .nan true ∧ readFmt (fmtOf 1) false 0x7C00 = .inf false ∧
    (∃ e, readFmt (fmtOf 2) false 0x8000 = .fin true 0 e) ∧ ∃ m e, readFmt (fmtOf 0) false 0xBF800000 = .fin true m e ∧ m ≠ 0 :=
  ⟨by decide, by decide, ⟨-133, by decide⟩, ⟨_, _, rfl, by decide⟩⟩
/-- A thread whose v31 is bound to a read stream. -/
def strm : Stream := ⟨3, 0x0200000000000000, 0, false, false, 0, [], 0, 0⟩
def thS : Thread := { th with streams := th.streams.set 3 (some strm) }
def sS : State := at_ .commit thS (oneCore thS)
theorem wit_VectorResultAndFrame : s0.unbound 0 1 ∧ s0.boundReg 0 = none ∧ sS.boundReg 31 = some strm ∧ sS.cur = some thS ∧
    vectorWord (.vmov ⟨false, 7⟩ ⟨0, 1, 7, 0, 2⟩) = true ∧ ∃ t, exec (.vmov ⟨false, 7⟩ ⟨0, 1, 7, 0, 2⟩) s0 = .next t :=
  ⟨fun i h => by have : i = 0 := by omega
                 subst this; rfl, rfl, rfl, rfl, rfl, _, rfl⟩
theorem wit_VectorStreams : s0.Issues false 7 ∧ 28 ≤ (28 : BitVec 5).toNat ∧ s0.sval 1 = 0 ∧ s0.sval 2 ≠ 0 ∧
    (s0.sval 2).getLsbD 63 = false ∧ vget none thS.streams (31 - 28) = some strm ∧ sS.threadAt 0 0 = some thS :=
  ⟨issues, by decide, rfl, by decide, rfl, rfl, rfl⟩
/-- A tile configuration: FP32, 1 row of 4 elements. -/
theorem wit_TileWords : s0.Issues false 7 ∧ s0.check (s0.refR ⟨0, 0, none⟩) 6720 false true 64 = .ok 0x0200000000000000 ∧
    s0.check (s0.refR ⟨0, 0, none⟩) 6720 true false 64 = .ok 0x0200000000000000 ∧
    s0.check (s0.refR ⟨0, 0, none⟩) ((tcRows 0 - 1) * tcPitch 0 + tcRow 0) true false 16 = .ok 0x0200000000000000 ∧
    s0.check (s0.refR ⟨0, 0, none⟩) ((tcRows 0 - 1) * tcPitch 0 + tcRow 0) false true 16 = .ok 0x0200000000000000 ∧
    tileWord (.tcfg ⟨0, false, 7⟩ 1 2) = true ∧ ∃ t, exec (.tcfg ⟨0, false, 7⟩ 1 2) s0 = .next t :=
  ⟨issues, rfl, rfl, rfl, rfl, rfl, _, rfl⟩

/-- A product of two tiles of one row of four elements. -/
def mop : MOp := ⟨1, 0, 7, org0, 1, 0, 0, ⟨0, 0⟩, [⟨1, 0⟩, ⟨2, 0⟩], none, 2, 0, 0, true, false, 0, 0, 0, ([], []), 0, 0, 0, false, 0, []⟩
/-- A movement of a tile on the load path. -/
def lop : LOp := ⟨1, .tld, me, org0, 0, ⟨0, 0⟩, 0, []⟩
/-- Core 0 with other fields, at a step of its own. -/
def sM (k : Core) (x : Subj := {}) : State := { at_ .commit th k with subj := x }
theorem wit_MatrixUnit_product : mop.fn = 1 ∧ mop.base = 0 ∧ mop.scl = false ∧
    mop.steps = (tcRows (mop.src 0).cfg + 7) / 8 * ((tcRows (mop.src 1).cfg + 7) / 8) * mop.blockSteps ∧
    0 < tcK (mop.src 1).cfg ∧ 0 < tcRows (mop.src 0).cfg := ⟨rfl, rfl, rfl, by decide, by decide, by decide⟩
theorem wit_MatrixUnit_others : (0 < tcRows 0 ∧ 3 < tcK 0) ∧ tcFmt 0x70000000000 ≤ 7 ∧ tcFmt 0 ≤ 2 ∧ tcFmt 0 < 13 ∧
    0 < tselK (2 * 8) := ⟨⟨by decide, by decide⟩, by decide, by decide, by decide, by decide⟩
theorem wit_MatrixUnit_steps :
    let s := sM { oneCore th with mops := [{ mop with scaleLeft := 1 }], selops := [{ mop with fn := 6 }], lops := [lop] } { n := 1 }
    let k := s.coreAt 0
    k.paused = false ∧ k.issuepol.getLsbD 1 = false ∧ k.mops = [{ mop with scaleLeft := 1 }] ∧ mop.done < mop.steps ∧
    k.mops.find? (·.id == 1) = some { mop with scaleLeft := 1 } ∧ mop.failed = false ∧ mop.remote = none ∧
    k.selops.find? (·.id == 1) = some { mop with fn := 6 } ∧ k.lops.find? (·.id == 1) = some lop ∧ lop.kind ≠ .trest :=
  ⟨rfl, rfl, rfl, by decide, rfl, rfl, rfl, rfl, rfl, by decide⟩
/-- A capability of slot 0 for domain 2, and a command that uses it. -/
def cap : Cap := ⟨true, none, 0, 2, 0xFF, 0xFFFF, 5, false⟩
def rcmd : RCmd := ⟨me, org0, .sreg 1, 0, 0x0200000000000000, 0, 0, 5, 2, false⟩
def sCap (c : Cap) : State := at_ .commit th { oneCore th with caps := Core.reset.caps.set 0 c }
theorem wit_RemoteTileCommands : s0.Issues false 7 ∧ s0.sval 1 = 0 ∧ s0.sval 2 ≠ 0 ∧
    (vget noCap (s0.coreAt 0).caps 0).v = false ∧ vget noCap ((sCap cap).coreAt 0).caps 0 = cap ∧ cap.key ≠ 6 ∧ cap.frompd ≠ 3 ∧
    ((sCap cap).coreAt 0).refuses rcmd = none ∧ tget ((sCap cap).coreAt 0).threads cap.slot = some th :=
  ⟨issues, rfl, by decide, rfl, rfl, by decide, by decide, rfl, rfl⟩
/-- A lace of one state of this KIND, whose first shape is a scalar. -/
def img (k : Nat) : List Byte :=
  List.replicate 64 0 ++ toLE 8 (2 ^ 62) ++ List.replicate 56 0 ++ toLE 4 (k * 2 ^ 29) ++ List.replicate 508 0
def lace (k : Nat) : Lace := ⟨img k, 1, 2, [], 4, 64, 0x1000, false⟩
def mem1 : Member := ⟨⟨0, 1, 3, false⟩, 9, 4, 2, 4, false, []⟩
/-- An open eyelet in a state of this KIND, connected to eyelet 3 of core 1. -/
def ey (k : Nat) (ring : List ChMsg := []) : Eyelet :=
  { Eyelet.reset with life := .opened, lace := some (lace k), members := [mem1], connid := 4, ring := ring }
/-- Core 0 with that eyelet as its eyelet 2. -/
def sE (y : Eyelet) (x : Subj := {}) : State :=
  { at_ .commit th { oneCore th with eyelets := Core.reset.eyelets.set 2 y } with subj := x }
def data0 : ChMsg := ⟨.data, 0, false, [1, 2, 3, 4, 5, 6, 7, 8], 7⟩
def label0 : ChMsg := ⟨.label, 0, false, [], 7⟩
theorem wit_ChannelChecksAndArrivals :
    ((sE { ey 0 with owner := 3 }).curCore.ey 2).lace.isSome = true ∧ 3 ≠ (sE (ey 0)).ctx.slot ∧ ((sE (ey 0)).curCore.ey 1).lace = none ∧
    ((sE (ey 0)).curCore.ey 2).lace = some (lace 0) ∧ ((sE (ey 0)).curCore.ey 2).owner = (sE (ey 0)).ctx.slot ∧
    ((sE { ey 0 with life := .connecting }).curCore.ey 2).life = .connecting ∧
    ((sE { ey 0 with life := .closed }).curCore.ey 2).life = .closed ∧ ((sE (ey 0)).curCore.ey 2).loading = false ∧
    (sE (ey 0)).ctx.slot = 0 ∧ (¬(False ∨ (ey 0).ring ≠ [])) ∧ stKind (lace 0).image (ey 0).state = 0 ∧ stKind (lace 1).image (ey 1).state ≠ 0 ∧
    (laceTrs (lace 0).image 0).head? = some 0 ∧ (pickType (some 9)) (laceTrs (lace 0).image 0) = none ∧
    ((sE (ey 1)).eyAt 0 2).life = .opened ∧ (∃ p ∈ ((sE (ey 1)).eyAt 0 2).members, p.own = 4) ∧ ((sE (ey 1)).eyAt 0 2).deleg = none ∧
    (∀ p ∈ ((sE (ey 1)).eyAt 0 2).members, p.own ≠ 5) ∧ data0.payload.length ≤ 64 ∧ (lace 1).ringAt % 64 = 0 ∧ (lace 1).slotLen % 64 = 0 ∧
    (sE (ey 1)).Canonical :=
  ⟨rfl, by decide, rfl, rfl, rfl, rfl, rfl, rfl, rfl, by decide, by decide, by decide, by decide, by decide, rfl, ⟨_, .head _, rfl⟩, rfl, by decide, by decide, rfl, rfl,
    ⟨rfl, rfl, rfl, rfl, rfl, rfl⟩⟩
def ceS : CE := ⟨2, 3, 0, false, false, 0, none⟩
theorem wit_ChannelWords : (sE (ey 0)).Issues false 7 ∧
    ((sE (ey 0)).onWord false).chanCheck ⟨2, 0x12, 0, 0⟩ (pickType none) (payloadBad ceS ((sE (ey 0)).onWord false).view) = .ok 0 ∧
    ((sE (ey 1 [data0])).onWord false).chanCheck ⟨2, 0x13, 0, 1⟩ (pickType none)
      (payloadBad ceS ((sE (ey 1 [data0])).onWord false).view) = .ok (2 ^ 29) ∧
    (∃ t, ((sE { ey 0 with life := .closed }).onWord false).chanCheck ⟨2, 0x12, 0, 0⟩ (pickType none)
      (payloadBad ceS th) = .closed t) ∧
    (((sE (ey 0)).onWord false).eyAt 0 2).members = [mem1] ∧ mem1.transit = false ∧
    stKind ((((((sE (ey 0)).onWord false).eyAt 0 2).lace).map (·.image)).getD []) (trNext 0) ≠ 7 ∧
    ((sE (ey 2)).onWord false).chanCheck ⟨2, 0x14, 0, 2⟩ (fun ts => ts.find? fun w => trLabel w == 0) (fun _ => false) =
      .ok (2 * 2 ^ 29) ∧
    ((sE (ey 3 [label0])).onWord false).chanCheck ⟨2, 0x14, 1, 3⟩ List.head? (fun _ => false) = .ok (3 * 2 ^ 29) ∧
    ((sE (ey 3 [label0])).curCore.ey 2).ring = label0 :: [] ∧ (laceTrs (img 3) 0).find? (fun k => trLabel k == label0.type) =
      some (3 * 2 ^ 29) ∧
    ((sE (ey 1 [data0])).onWord false).altFirst 4 = some 2 :=
  ⟨⟨rfl, rfl, rfl⟩, rfl, rfl, ⟨_, rfl⟩, rfl, rfl, by decide, rfl, rfl, rfl, by decide, by decide⟩
def creq : ConnReq := ⟨⟨0, 1, 3, false⟩, ⟨0, 0, 2, false⟩, ⟨1, 0, 8⟩, org0, 9, 2, 1, [], 2, false, 4, none, 0⟩
theorem wit_ChannelConnections : s0.Issues false 7 ∧
    s0.check (s0.refR ⟨0, 0, none⟩) 640 true false 64 = .ok 0x0200000000000000 ∧ laceOf [] 0 0 = none ∧
    (s0.who me).isSome = true ∧ (s0.eyAt 0 2).held = none ∧ (s0.curCore.ey 2).members = [] ∧
    (s0.eyAt 0 2).lace.isSome = false ∧
    (sE { ey 0 with life := .listen, members := [] }).eyAt 0 2 = { ey 0 with life := .listen, members := [] } ∧
    ((sE (ey 0)).domAt ((sE (ey 0)).coreAt 0).pdid).chwdog = 0 ∧
    ((sE { ey 0 with held := some creq } { n := 2 }).eyAt 0 2).held = some creq ∧ grantOk creq (ey 0) 2 = true ∧
    (let z := (sE { ey 0 with life := .connecting, members := [] }).eyAt 0 2
     z.life = .connecting ∧ z.connid = 4 ∧ z.members = [] ∧ z.lace = some (lace 0)) ∧
    ((ey 0).reason < 16 ∧ (ey 0).state < 32 ∧ (ey 0).pstate < 32 ∧ (ey 0).owner < 16 ∧ (ey 0).ring.length < 256 ∧
      (ey 0).connid < 65536 ∧ (lace 0).ring < 256) :=
  ⟨issues, rfl, by decide, rfl, rfl, rfl, rfl, rfl, rfl, rfl, by decide, ⟨rfl, rfl, rfl, rfl⟩, by decide⟩

theorem wit_ChannelEnds_closing : (sE (ey 0)).Issues false 7 ∧ ((sE (ey 0)).curCore.ey 2).life = .opened ∧
    ((sE (ey 0)).curCore.ey 2).members = [mem1] ∧ mem1.transit = false ∧ ((sE (ey 0)).curCore.ey 1).life = .unbound ∧
    ((sE { ey 0 with life := .faulted }).curCore.ey 2).life = .faulted ∧
    ((sE { ey 0 with life := .closing }).eyAt 0 2).life = .closing ∧ ((sE { ey 0 with life := .closing }).eyAt 0 2).deleg = none ∧
    mem1.loc = ⟨0, 1, 3, false⟩ ∧ mem1.own = 4 ∧ (∀ x ∈ ((sE (ey 0)).eyAt 0 2).members, x.loc = ⟨0, 1, 3, false⟩ → x.own ≠ 5) ∧ (sE (ey 0)).threadAt 0 0 = some th :=
  ⟨⟨rfl, rfl, rfl⟩, rfl, rfl, rfl, rfl, rfl, rfl, rfl, rfl, rfl, by decide, rfl⟩
/-- Eyelet 2 delegates eyelet 1, or takes a record for it. -/
def sD (y : Eyelet) : State :=
  at_ .commit { th with s := th.s.set 4 2 }
    { oneCore { th with s := th.s.set 4 2 } with eyelets := (Core.reset.eyelets.set 2 y).set 1 { ey 0 with deleg := some (0, 2) } }
theorem wit_ChannelEnds_delegation : (sD (ey 4)).Issues false 7 ∧
    ((sD (ey 4)).onWord false).chanCheck ⟨2, 0x14, 3, 4⟩ List.head? (fun _ => false) = .ok (4 * 2 ^ 29) ∧ (2 : Nat) ≠ 1 ∧
    ((sD (ey 4)).curCore.ey 1).members = [mem1] ∧ ((sD (ey 4)).eyAt 0 1).deleg = some (0, 2) ∧ ((sD (ey 4)).eyAt 0 1).ring = [] ∧
    ((sD (ey 4)).eyAt 0 2).life = .opened ∧ ((sD (ey 4)).eyAt 0 2).members = [mem1] ∧ stKind (img 4) (trNext (laceTr (img 4) 0 0)) ≠ 7 ∧
    ((sD (ey 5 [⟨.record, 0, false, [], 7⟩])).onWord false).chanCheck ⟨2, 0x14, 4, 5⟩ List.head? (fun _ => false) = .ok (5 * 2 ^ 29) ∧
    ((sD (ey 5 [⟨.record, 0, false, [], 7⟩])).curCore.ey 2).ring = ⟨.record, 0, false, [], 7⟩ :: [] ∧ mem1.heldOut = [] ∧
    ((sD (ey 4)).coreAt 0).leaving = [] ∧ (sD (ey 4)).sval 4 = 2 :=
  ⟨⟨rfl, rfl, rfl⟩, rfl, by decide, rfl, rfl, rfl, rfl, rfl, by decide, rfl, rfl, rfl, rfl, rfl⟩
/-- A thread whose s4 names expert 0 and installs it with bit 63 set; route entry 0 names eyelet 2. -/
def sR : State := at_ .commit { th with rt := th.rt.set 0 (2, 0) } { oneCore { th with rt := th.rt.set 0 (2, 0) } with eyelets := Core.reset.eyelets.set 2 (ey 0) }
theorem wit_RoutesAndLinkSlots : sR.Issues false 7 ∧ (sR.sval 1).getLsbD 63 = false ∧ wbits sR.ctx.pre.nullmap 0 2 = 0 ∧
    (sR.onWord false).chanCheck ⟨2, 0x14, 5, 0⟩ List.head? (fun e => shapeClass e != 1) = .ok 0 ∧ sR.sval 1 = 0 ∧ sR.sval 2 ≠ 0 ∧
    wbits (1 : Word) 0 2 ≠ 0 ∧ (0x8000000000000000 : Word).getLsbD 63 = true ∧
    ((sR.onWord false).eyAt 0 2).members = [mem1] ∧ mem1.loc.dev = sR.devIdx ∧ sR.linkSlots = [] ∧ (1 : Nat) ≠ sR.devIdx :=
  ⟨⟨rfl, rfl, rfl⟩, rfl, by decide, rfl, rfl, by decide, by decide, by decide, rfl, rfl, rfl, by decide⟩

theorem wit_QueuesMonitorsThreads : s0.Issues false 7 ∧
    (let q : Queue := ⟨0x0000000100000500, 0, []⟩; q.cfg.getLsbD 8 = true ∧ q.eng = 1 ∧ s0.cycle % (q.cfg.toNat / 2 ^ 32) = 0) ∧
    (at_ .commit th { oneCore th with threads := (List.range 16).map fun i => (i, th) }).curCore.freeSlot = none ∧
    sSet.curCore.freeSlot = some 1 ∧ tget sSet.curCore.segCache sSet.ctx.pre.pdid = some [g0] ∧
    s0.check (s0.refR ⟨0, 0, none⟩) 1 true false 1 = .ok 0x0200000000000000 ∧ s0.ctx.pre.mwait = none ∧ s0.ctx.pre.pends = 0 :=
  ⟨issues, ⟨rfl, by decide, rfl⟩, by decide, by decide, rfl, rfl, rfl, rfl⟩
/-- The scratchpad granule 0 of core 0 holds a barrier object: one arrival to come of two, generation 4. -/
def sB (m : Mark) (x : Subj := {}) (t : Thread := th) : State :=
  { at_ .commit t (oneCore t) with spad := [(0, 1), (8, 2), (16, 4)], marks := [(0, m)], subj := x }
def arr : LocalAcc := ⟨me, org0, 0, false, .barinit 0x0200000000000000 (wd 2)⟩
theorem wit_Barriers : (sB ⟨true, 1, 0⟩).Issues false 7 ∧
    (sB ⟨true, 1, 0⟩).check ((sB ⟨true, 1, 0⟩).refR ⟨0, 0, none⟩) 64 false true 64 = .ok 0x0200000000000000 ∧
    (sB ⟨true, 1, 0⟩).check ((sB ⟨true, 1, 0⟩).refR ⟨0, 0, none⟩) 64 true false 64 = .ok 0x0200000000000000 ∧
    (sB ⟨true, 1, 0⟩).homeOf 0 0x0200000000000000 = .core 0 ∧ (sB ⟨true, 1, 0⟩).markAt 0 0 = ⟨true, 1, 0⟩ ∧
    leNat ((sB ⟨true, 1, 0⟩).spadRead 0 16 4) = 4 ∧ (sB ⟨false, 1, 3⟩).markAt 0 0 = ⟨false, 1, 3⟩ ∧
    (sB ⟨true, 1, 0⟩).Canonical ∧ 4 + 1 < 2 ^ 32 ∧ leNat ((sB ⟨true, 1, 0⟩).spadRead 0 0 8) = 1 ∧ arr.off % 64 = 0 ∧
    (sB ⟨true, 1, 0⟩).spadTagAt 0 0 = tagOf 0x0200000000000000 ∧ tagOf 0x3200000000000000 ≠ (sB ⟨true, 1, 0⟩).spadTagAt 0 0 :=
  ⟨⟨rfl, rfl, rfl⟩, rfl, rfl, rfl, rfl, rfl, rfl, ⟨rfl, rfl, rfl, rfl, rfl, rfl⟩, by decide, rfl, rfl, by decide, by decide⟩
theorem wit_Barriers_record : let t : Thread := { th with barRec := some ⟨0x0200000000000000, 1, 3⟩ }
    (sB ⟨true, 1, 0⟩ {} t).ctx.pre.barRec = some ⟨0x0200000000000000, 1, 3⟩ ∧ (4 : Nat) ≠ 3 ∧ (1 : Nat) ≠ 2 := ⟨rfl, by decide, by decide⟩
theorem wit_Barriers_combiner :
    let e : Comb := ⟨5, 0x0200000000000000, 1, 1, 0, true, true, [(0, 7, org0)]⟩
    let y : BarX := ⟨0x0200000000000000, org0, none, none, true, true, 0, none⟩
    ((at_ .commit th { oneCore th with combs := [e] }).coreAt 0).combs.find? (·.id == 5) = some e ∧ e.orgs = [(0, 7, org0)] ∧
    (sB ⟨true, 1, 0⟩ { w := 0x0200000000000000, b := true } { th with barX := some y }).threadAt 0 0 = some { th with barX := some y } ∧
    y.seen = none ∧ (sB ⟨true, 1, 0⟩).spadTagAt 0 (y.addr.toNat % 2 ^ 20 / 64) = tagOf y.addr := ⟨rfl, rfl, rfl, rfl, by decide⟩
theorem wit_SlotSupervision : s0.threadAt 0 0 = some th ∧ (List.range 16).countP (fun i => (0 : Word).getLsbD i) < 15 ∧
    (!(0 : Word).getLsbD 15 && !((15 : Nat) == 15 && false)) = true ∧ (0x8000 : Word).getLsbD 15 = true ∧
    (∀ j, j < 15 → (0x8000 : Word).getLsbD j = false) ∧ (∀ die, die < 8 → s0.cyclesOf die = []) :=
  ⟨rfl, by decide, rfl, by decide, by decide, by decide⟩
/-- Two threads, each parked for what the other holds. -/
def thK (id : Nat) : Thread := { th with tid := id, parked := true }
def sK : State :=
  { s0 with
    cycle := 20000, snagPrev := [[0, 1]]
    cores := [(0, { oneCore th with
      threads := [(0, thK 7), (1, thK 8)]
      bstates := (Core.reset.bstates.set 0 0x2000000000010000).set 1 0x2000000000000000 })] }
theorem wit_GlobalAccesses : s0.Issues false 7 ∧
    s0.check (s0.refCM 0 false 0 none 8) 8 true false 8 = .ok 0x0200000000000000 ∧ 8 = tySize 3 ∧
    s0.check (s0.refCM 0 false 0 none 8) 8 false true 8 = .ok 0x0200000000000000 ∧ 4 = 2 ^ (2 : BitVec 2).toNat ∧
    s0.check (s0.refCM 0 true 0 none 1) 4 false true 4 = .ok 0x0200000000000000 ∧
    s0.check ⟨0, 0 + (0 : BitVec 26).toInt⟩ 8 true true 8 = .ok 0x0200000000000000 ∧
    s0.check ⟨0, 0 + (0 : BitVec 26).toInt⟩ 4 false true 4 = .ok 0x0200000000000000 ∧
    s0.check (s0.refR ⟨0, 0, none⟩) 0 true false 1 = .ok 0x0200000000000000 ∧ s0.cur = some th ∧ sP.ctx.mode = .probe ∧
    sP.cur.isSome = true ∧ sP.view.guard false 7 = true := ⟨issues, rfl, rfl, rfl, rfl, rfl, rfl, rfl, rfl, rfl, rfl, rfl, rfl⟩
/-- A request of the thread, to the scratchpad of core 0. -/
def req (k : ReqKind) : Req :=
  ⟨0, me, org0, k, 0x0200000000000000, 8, [1, 2, 3, 4, 5, 6, 7, 8], 0, 0, 3, false, .sreg 1, some 0, none, false, false, 2, 0, 0, 1, 0, 0⟩
def sF : State := at_ .commit th { oneCore th with filter := [⟨7, 0, []⟩] }
theorem wit_RequestsAtHome : (3 : Nat) < 2 ^ (8 * 4) ∧ (2 ^ 64 - 1 : Nat) < 2 ^ (8 * 8) ∧
    sF.reqNode (req .read).who.core (req .read) = 0 ∧ sF.filterWait = [] ∧ (sF.coreAt 0).heldReqs = [] ∧ (sF.coreAt 0).copies = [] ∧
    sF.undoFull 0 = false ∧ (sF.filterAt 0).find? (·.tid == 7) = some ⟨7, 0, []⟩ ∧
    serialLe (BitVec.ofNat 32 1) 0 = false ∧ (∀ g ∈ granulesOf 0 8, sF.spadTagAt 0 g = tagOf (req .read).addr) ∧
    (granulesOf 0 8).find? (fun g => { sF with spadTag := [(0, 3)] }.spadTagAt 0 g != tagOf (req .read).addr) = some 0 :=
  ⟨by decide, by decide, rfl, rfl, rfl, rfl, rfl, rfl, by decide, by decide, by decide⟩
def amsg0 : AMsg := ⟨me, org0, .sreg 1, 0, 0x80, 5, 0x0200000000000000, 6, 2, 1, 0, 1, 0, false⟩
theorem wit_AnswersAtIssuer :
    let s := at_ .commit th { oneCore th with unacked := [req .read] }
    ofCopy (req .read) = false ∧ (req .read).kind ≠ .amsg ∧ (s.coreAt 0).awaits (req .read) = true ∧ (s0.coreAt 0).awaits (req .read) = false ∧
    { req .write with bar := some 64 }.bar = some 64 ∧
    ((at_ .commit th { oneCore th with amOut := [amsg0] }).coreAt 0).amOut.find? (fun x => x.who.tid == 7 && x.seq == 1) = some amsg0 ∧
    (s0.coreAt 0).unacked = [] ∧ (s0.coreAt 0).amOut = [] ∧ (s.coreAt 0).unacked = [req .read] ∧ s0.filterWait = [] ∧
    (∀ x ∈ [req .read], x.who.tid = (req .write).who.tid) ∧
    { s0 with filterWait := [(0, req .read)] }.filterWait = [req .read].map (fun x => ((req .write).node, x)) :=
  ⟨rfl, by decide, by decide, by decide, rfl, by decide, rfl, rfl, rfl, rfl, by decide, rfl⟩
/-- The request leaves the core that issued it. -/
theorem wit_AnswersAtIssuer_resend :
    let r : Req := { req .read with node := 1, addr := 0x0200000080000000 }
    let s := at_ .commit th { oneCore th with unacked := [r] }
    (s.coreAt 0).unacked = [r] ∧ (s.coreAt 0).amOut = [] ∧ r.who.tid = 7 ∧ r.seq = 1 ∧ r.node ≠ 0 ∧ r.node < 0x10000 := by decide
theorem wit_PageTranslation_walk : (s0.domAt 2).v = false ∧ s0.threadAt 0 0 = some th ∧ th.tid = me.tid ∧
    (s0.portAt 3).refresh = false ∧ (s0.portAt 3).held = [] ∧ (∀ i, i < 16 → (vget PEnd.reset (s0.portAt 3).ends i).asked = false) ∧
    (0 : Nat) ∉ s0.priOff ∧ s0.pri = [] ∧ (∀ x ∈ s0.pri, x.group ≠ some 5) := ⟨rfl, rfl, rfl, rfl, rfl, by decide, by decide, rfl, by decide⟩
def held0 : HeldReq := ⟨{ req .read with addr := 0x40 }, true, false, 0⟩
def preq (g : Option Nat) : PageReq := ⟨2, 0, [3], g, 0⟩
def sG (g : Option Nat) : State :=
  { s0 with ports := [(3, { Port.reset with held := [held0] })], pri := [preq g], priAlloc := [(0, 4)] }
theorem wit_PageTranslation_requests :
    ((sG none).pri.filter fun x => ((sG none).domAt x.pdid).vf == 0 && x.group.isNone) ≠ [] ∧
    ((sG none).pri.countP fun x => ((sG none).domAt x.pdid).vf == 0 && x.group.isSome) < (tget (sG none).priAlloc 0).getD 0 ∧
    (sG (some 5)).pri = [preq (some 5)] ∧ (preq (some 5)).ports = [3] ∧ ((sG (some 5)).portAt 3).held = [held0] ∧
    held0.fault = true ∧
    held0.req.pdid = (preq none).pdid ∧ held0.page = (preq none).va / 0x200000 ∧
    ((sG none).portAt 3).notified = [] ∧ ((sG none).portAt 3).refused = [] ∧
    { sG none with pri := [] }.pri = [] := ⟨by decide, by decide, rfl, rfl, rfl, rfl, rfl, by decide, rfl, rfl, rfl⟩

/-- A domain whose page table is one leaf of 4 GiB. -/
def sW : State :=
  { s0 with domains := [(2, { Domain.none with v := true, ptroot := 0x8000000000000000 })]
            hbm := [(hbmKey 0 6, 0xC0), (hbmKey 0 7, 0xC0)] }
theorem wit_PageTranslation_leaf : sW.walk 2 0xFFFFFFFF = .leaf 0xC0C0000000000000 0 0x100000000 0 0 ∧
    (0xC0C0000000000000 : Word).getLsbD 56 = false ∧ (0xC1C0000000000000 : Word).getLsbD 56 = true := by decide
theorem wit_SlotSupervision_snag : (List.range 8).flatMap sK.cyclesOf = [[0, 1]] ∧ [0, 1] ∈ sK.snagPrev ∧
    (∀ n ∈ ([0, 1] : List Nat), n < 2 ^ 20 ∧ ∃ t, sK.threadAt (n / 16) (n % 16) = some t ∧ t.parkSince + 16384 ≤ sK.cycle) ∧
    sK.threadAt 0 0 = some (thK 7) :=
  ⟨by decide, by decide, (by
    simp only [List.mem_cons, List.not_mem_nil, or_false, forall_eq_or_imp, forall_eq]
    exact ⟨⟨by decide, _, rfl, by decide⟩, by decide, _, rfl, by decide⟩), rfl⟩
theorem wit_ActiveMessages :
    let k : Core := { oneCore th with
      amen := true, filter := [⟨7, 0, []⟩], codeDir := [⟨1, 0, 0, 64, 0, false⟩], amq := [amsg0], segCache := [(2, [g0])] }
    let s := at_ .commit th k
    s0.Issues false 7 ∧ s0.cur = some th ∧ s0.check ⟨1, (s0.ctx.pre.sreg 0).toInt⟩ 1 true false 1 = .ok 0x0200000000000000 ∧
    amsg0.home < 4096 ∧ (s.coreAt 0).filter.find? (·.tid == 7) = some ⟨7, 0, []⟩ ∧ serialLe (BitVec.ofNat 32 1) 0 = false ∧
    (s.coreAt 0).v = true ∧ (s.coreAt 0).pdid = amsg0.pdid ∧ (s.coreAt 0).amen = true ∧ (s0.coreAt 0).amen = false ∧
    ((s.coreAt 0).codeEntry amsg0.task 0).isSome = true ∧ (s.coreAt 0).amq = amsg0 :: [] ∧ s.threadAt 0 15 = none ∧
    tget (s.coreAt 0).segCache amsg0.pdid = some [g0] ∧ State.reset.coreAt 5 = Core.reset :=
  ⟨issues, rfl, rfl, by decide, rfl, by decide, rfl, rfl, rfl, rfl, rfl, rfl, rfl, rfl, rfl⟩
def cop : CopyOp :=
  ⟨1, me, org0, 4, 0x0200000000000000, 0x0000000000000040, 64, 0, 0, 0, [], none, [0], 0, 0, 0, false, 0, 0, 0, false, false, false, 2⟩
theorem wit_Copies :
    let s := sM { oneCore th with copies := [cop] } { n := 1 }
    s0.Issues false 7 ∧ (64 : BitVec 25).toNat ≠ 0 ∧ (0 : BitVec 25).toNat = 0 ∧
    s0.check ⟨0, (s0.ctx.pre.sreg 0).toInt⟩ 64 false true 64 = .ok 0x0200000000000000 ∧
    s0.check ⟨0, (s0.ctx.pre.sreg 0).toInt⟩ 64 true false 64 = .ok 0x0200000000000000 ∧
    (s0.ctx.pre.sreg 1).toNat * (16 : BitVec 16).toNat = 0 ∧ (s0.ctx.pre.sreg 2).toNat * (16 : BitVec 16).toNat ≠ 0 ∧
    s0.check ⟨0, (s0.ctx.pre.sreg 0).toInt⟩ 80 false true 64 = .ok 0x0200000000000000 ∧ s0.copyAt 0 0 = none ∧
    (s0.coreAt 0).paused = false ∧ s.copyAt 0 1 = some cop ∧ cop.rowb = 0 ∧
    (∃ p, s.homeOf 0 (addOff cop.src (64 * cop.gran)) = .port p) ∧
    (cop.gran + 1) * 64 ≥ cop.len ∧ (s.coreAt 0).heldReqs = [] :=
  ⟨issues, by decide, rfl, rfl, rfl, by decide, by decide, rfl, rfl, rfl, rfl, rfl, ⟨_, rfl⟩, by decide, rfl⟩
theorem wit_Copies_paused : ((at_ .commit th { oneCore th with paused := true }).coreAt 0).paused = true := rfl
/-- An endpoint of port 3 with a peer, in this state. -/
def pend (w : Bool) (st : Nat) (ring : List ChMsg := []) (step : Word := 0x20010) : PEnd :=
  ⟨true, some mem1, w, 0, false, 2, 0, step, st, 0, ring, false, [], false, 6⟩
def sPort (e : PEnd) : State :=
  { s0 with ports := [(3, { Port.reset with ends := Port.reset.ends.set 0 e })], subj := { n := 3, m := 0 } }
theorem wit_PortStreams_connect : (∀ k, k < 0 → (s0.endAt 3 k).used = true) ∧ (s0.endAt 3 0).used = false ∧ streamOf [] = none ∧
    (∀ j, j < 16 →
      ({ s0 with ports := [(3, { Port.reset with ends := Vector.replicate 16 (pend true 0) })] }.endAt 3 j).used = true) :=
  ⟨by decide, rfl, by decide, by decide⟩
theorem wit_PortStreams_serve : (sPort (pend true 4)).endAt 3 0 = pend true 4 ∧ (pend true 4).peer = some mem1 ∧
    mem1.transit = false ∧ mem1.allow ≠ 0 ∧ (pend false 2).next < wbits (pend false 2).step 16 16 ∧
    ¬(pend false 2 [] 0).next < wbits (pend false 2 [] 0).step 16 16 ∧ (pend true 0 [data0]).ring = data0 :: [] ∧
    spaceOf 0x0A00000000000000 ≠ 0 ∧ spaceOf 0x0A00000000000000 ≠ 2 ∧ (0x0000000100000000 : Word).toNat / 2 ^ 32 % 64 ≠ 0 ∧
    (sPort PEnd.reset).endAt 3 0 = PEnd.reset :=
  ⟨rfl, rfl, rfl, by decide, by decide, by decide, rfl, by decide, by decide, by decide, rfl⟩
/-- A granule of a stream's tile is asked for, and answered; one in another device's space may have no home. -/
theorem wit_PortStreams_tiles : let far : PEnd := { pend false 3 with base := 0x0400000000000000 }
    (pend false 3).granules[0]? = some 0 ∧ (pend false 3).got.length = 0 ∧ s0.r15 (portCore 3) 0 = none ∧
    far.granules[0]? = some 0x0400000000000000 ∧ (s0.r15 (portCore 3) 0x0400000000000000).isSome = true ∧
    (pend false 3).granules.length ≤ { pend false 3 with got := [[]] }.got.length ∧
    ((pend true 3 [data0]).pieces data0.payload)[0]? = some (0, data0.payload ++ List.replicate 8 0) ∧
    ((pend true 3 [data0]).pieces data0.payload).length ≤ { pend true 3 with got := [[]] }.got.length := by decide +kernel
theorem wit_PortStreams_answers : let e : PEnd := { pend true 3 [data0] with asked := true }
    let q : Req := { req .copyWrite with who := ⟨portCore 3, 255, 0⟩, copyId := 96, gran := 0 }
    (sPort e).endAt 3 0 = e ∧ q.who.core = portCore 3 ∧ q.copyId = e.connid * 16 + 0 ∧ e.got.length = q.gran := ⟨rfl, rfl, rfl, rfl⟩

theorem wit_TravelWords : s0.Issues false 7 ∧ s0.check (s0.refR ⟨0, 0, none⟩) 1 true false 1 = .ok 0x0200000000000000 ∧
    spaceOf 0x0200000000000000 ≠ 3 ∧ spaceOf 0x0200000000000000 ≠ 4 ∧ s0.elsewhere 0x0200000000000000 = false ∧
    s0.elsewhere 0x1000 = true ∧ thT.kind ≠ 0 ∧ thT.p.getLsbD 7 = true :=
  ⟨issues, rfl, by decide, by decide, by decide, by decide, by decide, rfl⟩
/-- The thread on its way to core 1, its packet sent or not. -/
def dep (sent : Bool) : Departure := ⟨1, 3, 0x0200000080000000, sent, false, 0, 0x0200000080000000, false⟩
def thD (sent : Bool) : Thread := { th with seq := 1, depart := some (dep sent) }
def pkt : Packet := ⟨0x40, 0, 0xFF, 2, 1, 0, 1, 0, false, 0, false, 3, [], 7, me, org0, 0, 0, 0, none, false, 0x0200000080000000, 0x0200000080000000, false⟩
theorem wit_DeparturesAndReports_leave : (at_ .commit (thD false) (oneCore (thD false))).threadAt 0 0 = some (thD false) ∧
    (thD false).depart = some (dep false) ∧ (dep false).sent = false ∧ (dep true).sent = true ∧
    (at_ .commit (thD false) (oneCore (thD false))).mayLeave 0 0 (thD false) = true ∧
    (let t : Thread := { thD false with localOut := 1 }; (at_ .commit t (oneCore t)).mayLeave 0 0 t = false) ∧ th.kind ≠ 2 ∧
    thT.kind = 2 ∧ segOf thT.pc ≥ thT.segCount ∧ s0.threadAt 0 5 = none ∧ s0.cur.isSome = true ∧ (dep false).dest ≠ noNode :=
  ⟨rfl, rfl, rfl, rfl, by decide, by decide, by decide, by decide, by decide, rfl, rfl, by decide⟩
theorem wit_DeparturesAndReports_answer :
    let s := { at_ .commit (thD true) (oneCore (thD true)) with subj := { n := 9, m := 3 } }
    s.threadAt 0 0 = some (thD true) ∧ (thD true).tid = pkt.src.tid ∧ (thD true).seq = pkt.seq ∧ (s.coreAt 0).spawning pkt = false ∧
    ((at_ .commit th { oneCore th with spawnBuf := [pkt] }).coreAt 0).spawning pkt = true ∧ s0.stillWaits pkt = false ∧
    s.stillWaits { pkt with resv := true } = true ∧ s0.who { pkt with src := ⟨0, 3, 7⟩ }.src = none ∧
    tget ((at_ .commit th { oneCore th with fwd := [(9, (1, 3))] }).coreAt 0).fwd 9 = some (1, 3) :=
  ⟨rfl, rfl, rfl, by decide, by decide, by decide, by decide, rfl, rfl⟩
theorem wit_DeparturesAndReports_arrive :
    let k : Core := { oneCore th with filter := [⟨7, 0, []⟩], segCache := [(2, [g0])], codeDir := [⟨1, 0, 0, 64, 0, false⟩] }
    k.filter.find? (·.tid == pkt.tid) = some ⟨7, 0, []⟩ ∧ serialLe pkt.seq 0 = false ∧ serialLe 0 (0 : BitVec 32) = true ∧
    k.out = false ∧ k.v = true ∧ k.pdid = pkt.pdid ∧ pkt.pdid ≠ 3 ∧ tget k.segCache pkt.pdid = some [g0] ∧
    (k.codeEntry pkt.task (if pkt.mode then segOf pkt.pc else 0)).isSome = true ∧ (oneCore th).codeEntry 1 0 = none ∧
    k.granted.length < (k.aqlim - k.aq.length) + k.ringFree ∧ pkt.mode = false ∧ ({ k with granted := [pkt] }.granted.any (samePacket pkt)) = true ∧
    ({ k with resv := [pkt] }.resv.any (samePacket pkt)) = true ∧ k.resv.length < 256 ∧ k.granted.any (samePacket pkt) = false :=
  ⟨by decide, by decide, by decide, rfl, rfl, rfl, by decide, rfl, by decide, by decide, by decide, rfl, by decide, by decide, by decide, rfl⟩
/-- A core with room for no further arrival. -/
theorem wit_DeparturesAndReports_full :
    let k : Core := { oneCore th with aqlim := 1, skidctl := 0, aq := [pkt] }
    ¬k.granted.length < (k.aqlim - k.aq.length) + k.ringFree ∧ 256 ≤ (List.replicate 256 pkt).length := ⟨by decide, Nat.le_of_eq List.length_replicate.symm⟩
def task0 : Task := ⟨2, 3, 0, 5, LaunchRec.zero, [], true, 0, true, 4, 4, 0, 0, false, .idle, 0, 0, false⟩
theorem wit_TaskWords : s0.Issues false 7 ∧ s0.forkTask = none ∧ creator s0.ctx.pre.tid = s0.ctx.core ∧ s0.curCore.deque.length < 32 ∧
    32 ≤ (List.replicate 32 (0 : Nat)).length ∧ s0.joinOf s0.ctx.pre.tid = none ∧
    s0.check (s0.refR ⟨0, 0, none⟩) 64 true false 64 = .ok 0x0200000000000000 :=
  ⟨issues, rfl, rfl, by decide, by decide, rfl, rfl⟩
/-- The launch unit holds one task. -/
def sL (t : Task) (deps : Table Dep := []) (x : Subj := { n := 1 }) : State := { s0 with tasks := [(1, t)], deps := deps, subj := x }
theorem wit_LaunchUnit : tget (sL task0).tasks 1 = some task0 ∧ task0.group + (1 : Word).toNat < 2 ^ 32 ∧
    2 ^ 32 ≤ task0.group + (0xFFFFFFFC : Word).toNat ∧ (RegDst.sreg 1 ≠ .queue 0 0) ∧ (sL task0).who me = some th ∧
    (sL task0).badRecord 2 { LaunchRec.zero with zeroOk := false } = true ∧ tget (sL task0).deps 1 = none ∧
    tget (sL task0 [(1, .early 2)]).deps 1 = some (.early 2) ∧ tget (sL task0 [(1, .held 2 1)]).deps 1 = some (.held 2 1) ∧
    tget (sL task0 [(1, .held 1 1)]).deps 1 = some (.held 1 1) ∧ ((sL task0).wqAt 1).en = false ∧
    ({ sL task0 with wqs := [(1, { WorkQ.reset with cfg := 0xC000004000000000, base := 0x0600000000000000 })] }.wqAt 1).en = true ∧
    spaceOf 0x0600000000000000 = 3 :=
  ⟨rfl, by decide, by decide, by decide, rfl, by decide, rfl, rfl, rfl, rfl, by decide, by decide, by decide⟩
/-- A code object header at 0x40 of domain 2, whose one logical core is core 0. -/
def sO : State :=
  { s0 with
    domains := [(2, { Domain.none with v := true, ptroot := 0x8000000000000000, lplace := [0x8000] })]
    hbm := [(hbmKey 0 6, 0xC0), (hbmKey 0 7, 0xCC), (hbmKey 0 0x40, 0x4E), (hbmKey 0 0x41, 0x56), (hbmKey 0 0x42, 0x54),
      (hbmKey 0 0x43, 0x43), (hbmKey 0 0x44, 1), (hbmKey 0 0x60, 1)] }
def rec0 : LaunchRec := { LaunchRec.zero with group := 1, code := 0x40 }
theorem wit_LaunchUnit_offer : sO.badRecord 2 rec0 = false ∧
    (∃ u hd, sO.objRead 2 rec0.code 0 64 = (u, .ok hd) ∧ badObject rec0 hd = false ∧ u.freeTask = some 1) ∧ rec0.npred = 0 ∧
    (sO.offer 2 3 0 0xFFFFFFFF rec0).2 = .accepted ∧ (s0.offer 2 3 0 0xFFFFFFFF rec0).2 = .refused ∧
    tget { sO with deps := [(0, .held 1 1)] }.deps { rec0 with npred := 1 }.depidx = some (.held 1 1) ∧
    tget { sO with deps := [(0, .early 2)] }.deps 0 = some (.early 2) ∧ 1 < 2 :=
  ⟨by decide +kernel, ⟨_, _, rfl, by decide +kernel, by decide +kernel⟩, rfl, by decide +kernel, by decide +kernel, rfl, rfl, by decide⟩
theorem wit_TaskDispatch : tget s0.tasks 1 = none ∧ tget (sL task0).tasks 1 = some task0 ∧ task0.placed = true ∧
    task0.live = 0 ∧ task0.group ≤ task0.next ∧ { task0 with live := 1 }.live ≠ 0 ∧ (sL task0).discardDue 1 task0 = false ∧
    s0.bestTask 0 = none ∧ (oneCore th).freeSlot = some 1 ∧ (oneCore th).aq = [] ∧
    (at_ .commit th { oneCore th with joins := [(1, ⟨1, 0⟩)] } |>.coreAt 0).joins = [(1, ⟨1, 0⟩)] :=
  ⟨rfl, rfl, rfl, rfl, by decide, by decide, by decide, rfl, by decide, rfl, rfl⟩
def fork0 : ForkRec := ⟨9, 1, 2, 0x40, [], 0xFF, 0, (0, 7), 0⟩
theorem wit_TaskDispatch_slots :
    (victims 0 0)[0]? = some 1 ∧ (victims 0 0)[15]? = none ∧ (s0.coreAt 1).deque = [] ∧
    ({ oneCore th with deque := [fork0] }).deque.getLast? = some fork0 ∧ ({ oneCore th with aq := [pkt] }).aq = pkt :: [] ∧
    ({ oneCore th with fifo := [(1, 0)] }).fifo = (1, 0) :: [] :=
  ⟨by decide, by decide, rfl, rfl, rfl, rfl⟩
/-- A task whose next index the dispatcher may give to core 0, and one that is to be placed. -/
def task1 (placed : Bool) : Task :=
  { task0 with next := 0, placed := placed, lr := rec0, image := (List.range 8).map fun i => if i = 4 then 0x4000000001 else 0 }
def sQ (placed : Bool) : State := { sO with tasks := [(1, task1 placed)], subj := { n := 1 } }
theorem wit_TaskDispatch_task : (sQ true).bestTask 0 = some (1, task1 true) ∧ tget (sQ true).tasks 1 = some (task1 true) ∧
    tget (sQ false).tasks 1 = some (task1 false) ∧ (task1 false).placed = false ∧ (task1 false).ready = true ∧
    (∃ u l v, (sQ false).loadOf (task1 false) = (u, .ok l) ∧ l.tooBig (task1 false) = false ∧
      u.placeAll 1 (task1 false).lr.code l.text = some v) ∧
    ∃ u segs, (sQ false).readSegs 2 (task1 false).lr.code ((task1 false).hdr 36 4) 1 0 = (u, .ok segs) :=
  ⟨by decide +kernel, rfl, rfl, rfl, rfl, ⟨_, _, _, rfl, by decide +kernel, rfl⟩, _, _, rfl⟩

theorem wit_CutsAndSeals : s0.Issues false 7 ∧ s0.ctx.pre.sealTarget = none ∧ { th with sealTarget := some 1 }.sealTarget.isSome = true ∧
    s0.sealctl.getLsbD 62 = true ∧ sP.ctx.mode = .probe ∧ sP.cur.isSome = true ∧ sP.view.guard false 7 = true :=
  ⟨issues, rfl, rfl, by decide, rfl, rfl, rfl⟩
theorem wit_CutsAndSeals_steps : serialLe 0 s0.cutNo = true ∧ serialLe 1 s0.cutNo = false ∧ (1 : BitVec 32) = s0.cutNo + 1 ∧
    (∀ y ∈ s0.cores, y.2.rinCur = s0.cutNo) ∧ serialLe (1 - 2) { s0 with sealedNo := -1 }.sealedNo = true ∧
    s0.atRest 0 = true ∧ (at_ .commit th { oneCore th with due := [⟨0, 7, .sreg 1, 3, 1, 9, 0⟩] }).atRest 0 = false ∧
    s0.net = [] ∧ (2 : BitVec 32) ≠ s0.cutNo ∧ (0 : BitVec 32) = s0.cutNo ∧
    (∃ y ∈ [(0, { oneCore th with rinCur := 1 })], (y : Nat × Core).2.rinCur ≠ s0.cutNo) ∧
    (∃ v ∈ [CutUnit.launch], v ≠ CutUnit.core 0) ∧ s0.leader = s0.devIdx ∧ (∀ m ∈ s0.members, m = s0.devIdx) ∧
    s0.sealctl.getLsbD 63 = true ∧ { s0 with cycle := 2 ^ 40 }.cutStart + s0.sealPeriod ≤ 2 ^ 40 ∧
    ({ s0 with sealctl := 0 }).sealctl.getLsbD 63 = false :=
  ⟨by decide, by decide, by decide, by decide, by decide, by decide, by decide, rfl, by decide, by decide, by decide, by decide,
    by decide, by decide, by decide, by decide, by decide⟩
theorem wit_SealingAndRollback : serialLe 0 { s0 with sealedNo := 0 }.sealedNo = true ∧ serialLe 1 { s0 with sealedNo := 0 }.sealedNo = false ∧
    s0.ewb = [] ∧ s0.ewbHeld = [] ∧ (∀ y ∈ s0.cores, y.2.heldReqs = []) ∧ (∀ y ∈ s0.ports, y.2.held = []) ∧
    (s0.coreAt 0).undoBytes < 4096 ∧ 4096 ≤ { oneCore th with undoBytes := 4096 }.undoBytes ∧
    spaceOf 0x0200000080000038 = 1 ∧ wbits 0x0200000080000038 31 12 = 1 ∧ wbits 0x0200000080000038 0 20 = 0x38 ∧
    0x38 % 64 + ([1, 2, 3, 4, 5, 6, 7, 8] : List Byte).length ≤ 64 ∧ s0.domains = [] ∧ s0.ports = [] ∧ s0.leader = s0.devIdx ∧
    { s0 with devIdx := 3, members := [1, 3] }.leader ≠ 3 ∧ tget s0.cores 0 = some (oneCore th) :=
  ⟨by decide, by decide, rfl, rfl, by decide, by decide, by decide, by decide, by decide, by decide, by decide, by decide, rfl, rfl,
    by decide, by decide, rfl⟩
theorem wit_UndoRestores : s0.Canonical ∧ (4095 : Nat) < 4096 ∧ (0x3FFF : Nat) < 0x4000 ∧
    63 + ([1] : List Byte).length ≤ 64 ∧ s0.hasUndo (s0.coreAt 4095).rinCur 4095 0x3FFF false = false :=
  ⟨canonical, by decide, by decide, by decide, rfl⟩
/-- A thread alone at its trap: the bundle's stages have found one. -/
def sAlone : State := at_ .alone th (oneCore th)
/-- A thread that handles an overrun of its own, and is in its handler or not. -/
def thH (h : Bool) : Thread := { th with status := if h then 0x100 else 0, evec := 0x0040000000000100, epc := 0x48 }
theorem wit_TrapsAndReturn : sAlone.ctx.mode = .alone ∧ sAlone.cur = some th ∧ th.guard false 7 = true ∧
    th.isEmpty (.preg 7) = false ∧ (∀ w ∈ sAlone.curCore.due, w.slot ≠ sAlone.ctx.slot) ∧ s0.who me = some th ∧
    (thH false).handles ⟨0x17, 0, 0, 0⟩ = true ∧ (thH true).handles ⟨0x17, 0, 0, 0⟩ = false ∧ th.handles ⟨0x17, 0, 0, 0⟩ = false ∧
    th.run ≠ .stopped ∧ th.handler = none ∧
    (let s := at_ .commit (thH true) (oneCore (thH true)); s.Issues false 7 ∧ s.ctx.pre.status.getLsbD 8 = true ∧
      (s.ctx.pre.epc.setWidth 32 : Word32).toNat % 8 = 0 ∧ (s.ctx.pre.epc.setWidth 32 : Word32).toNat / 65536 = 0) ∧
    s0.ctx.pre.status.getLsbD 8 = false ∧ (0x49 : Word32).toNat % 8 ≠ 0 ∧ (0x10000 : Word32).toNat / 65536 ≠ 0 :=
  ⟨rfl, rfl, rfl, by decide, fun _ h => (List.not_mem_nil h).elim, rfl, by decide, by decide, by decide, by decide, rfl,
    ⟨⟨rfl, rfl, rfl⟩, by decide, by decide, by decide⟩, by decide, by decide, by decide⟩
/-- A domain whose trap queue, at 0x40, has room for sixteen records. -/
def sTq (hd : List (Nat × Byte)) : State :=
  { s0 with domains := [(2, { Domain.none with v := true, ptroot := 0x8000000000000000, tqlogn := 4, tqbase := 0x40 })]
            hbm := [(hbmKey 0 6, 0xC0), (hbmKey 0 7, 0xCC)] ++ hd, subj := { n := 2 } }
theorem wit_TrapRecords : (2303 : Nat) < 2304 ∧ s0.devIdx < 65536 ∧ s0.oldestHeld 2 = none ∧
    ((sTq []).sysRead 2 0x40 12).2 = some (List.replicate 12 0) ∧
    (leNat ((List.replicate 12 (0 : Byte)).take 4) + 2 ^ 32 - leNat (((List.replicate 12 (0 : Byte)).drop 4).take 4)) % 2 ^ 32 < 2 ^ 4 ∧
    ((sTq [(hbmKey 0 0x40, 16)]).sysRead 2 0x40 12).2 = some (16 :: List.replicate 11 0) ∧
    2 ^ 4 ≤ (leNat [16, 0, 0, 0] + 2 ^ 32 - leNat [0, 0, 0, 0]) % 2 ^ 32 ∧
    (∀ x ∈ (s0.coreAt 0).heldTraps, (x.1.getD 2 0).toNat ≠ 2) ∧ (s0.tryPost 2 [List.replicate 64 0]).isNone = true ∧
    ((sTq []).tryPost 2 [List.replicate 64 0]).isSome = true :=
  ⟨by decide, by decide, by decide, by decide +kernel, by decide, by decide +kernel, by decide, by decide, by decide +kernel, by decide +kernel⟩
theorem wit_TrapRecords_held :
    let s := { sTq [] with cores := [(0, { oneCore th with heldTraps := [([0, 0, 2], 1)] })] }
    s.oldestHeld 2 = some (0, [0, 0, 2], 1) ∧ (∃ x ∈ (s.coreAt 0).heldTraps, (x.1.getD 2 0).toNat = 2) ∧
    (s.tryPost 2 (granules 1 [0, 0, 2])).isSome = true := ⟨by decide, by decide, by decide +kernel⟩
theorem wit_ControlRegistersAndCodeLoad : s0.Issues false 7 ∧ s0.Canonical ∧ s0.cur.isSome = true ∧ (0x07F : BitVec 12).toNat = 0x07F :=
  ⟨issues, canonical, rfl, rfl⟩
def thZ : Thread := { th with run := .stopped }
def sCmd (t : Thread) (arg : Word := 0x40) : State := { at_ .commit t (oneCore t) with sysarg := arg, subj := { n := 2 } }
theorem wit_SystemCommands : (sCmd th).subj.b = false ∧ (sCmd th).sysstat.getLsbD 63 = false ∧ (sCmd th).subj.w = 0 ∧ (2 : Nat) < 256 ∧
    (2303 : Nat) < 2304 ∧ { sCmd th with sysstat := 0x8000000000000000 }.sysstat.getLsbD 63 = true ∧ (sCmd th).threadAt 0 0 = some th ∧
    th.kind = 0 ∧ th.handler = none ∧ th.pdid = 2 ∧ th.mwait = none ∧ (sCmd thZ).threadAt 0 0 = some thZ ∧ thZ.run = .stopped ∧
    (sCmd th).threadAt 0 5 = none ∧ ((sCmd th).sysarg.toNat / 2 ^ 57 % 8 = 0 ∧ (sCmd th).sysarg.toNat % 64 = 0 ∧ wbits (sCmd th).sysarg 43 14 = 0) ∧
    (0x41 : Word).toNat % 64 ≠ 0 ∧ ((sCmd th).coreAt 0).v = true ∧ ((sCmd th).coreAt 0).pdid = 2 ∧ ((sCmd th).coreAt 0).freeSlot = some 1 ∧
    ({ sCmd th with saving := some (0, 0) } : State).quiet 0 0 th = true ∧
    ({ sCmd th with saving := some (0, 0) } : State).quiet 0 0 { th with localOut := 1 } = false ∧
    ({ sCmd th with saving := some (0, 0) } : State).mayEnd th = true ∧
    ((List.range 16).filter fun e => (((sCmd th).coreAt 0).ey e).lace.isSome && (((sCmd th).coreAt 0).ey e).owner == 0) = [] :=
  ⟨rfl, rfl, rfl, by decide, by decide, by decide, rfl, by decide, rfl, rfl, rfl, rfl, rfl, rfl, by decide, by decide, rfl, rfl, by decide,
    by decide, by decide, by decide, by decide⟩
theorem wit_ManagementRegisters : (63 : Nat) < 64 ∧ (0x8000004000000000 : Word).getLsbD 63 = true ∧ (s0.wqAt 63).cfg.getLsbD 63 = false ∧
    (0x8000004000000000 : Word).toNat / 2 ^ 36 % 16 = 4 ∧ (0x800000D000000000 : Word).toNat / 2 ^ 36 % 16 > 12 ∧
    (s0.coreAt 0).v = (0x8000000000000002 : Word).getLsbD 63 ∧ (s0.coreAt 0).pdid = (0x8000000000000002 : Word).toNat % 256 ∧
    (let k := s0.coreAt 5; (k.v ≠ (0x8000000000000002 : Word).getLsbD 63 ∧ k.threads = [] ∧ k.aq = [] ∧ k.ring = [] ∧
      ∀ e, e < 16 → (k.ey e).life = .unbound)) ∧ (s0.coreAt 0).threads ≠ [] ∧ 100 ≤ (100 : Word).toNat % 2 ^ 32 ∧
    1000000 < (1000001 : Word).toNat % 2 ^ 32 ∧ (4 : Word).toNat % 8 ≤ 4 ∧ 4 < (5 : Word).toNat % 8 ∧
    (∀ x ∈ s0.tasks, x.2.placed = false) ∧ (∃ x ∈ (sL task0).tasks, x.2.placed = true) ∧ (∀ m ∈ s0.net, m.dst ≠ heldNode 0) :=
  ⟨by decide, by decide, by decide, by decide, by decide, rfl, rfl, by decide, by decide, by decide, by decide, by decide, by decide,
    by decide, by decide, by decide⟩
theorem wit_PackageSteps : s0.throttled = false ∧ { s0 with throttled := true }.throttled = true ∧ ([1] : List Byte) ≠ [] ∧ s0.mailbox = [] ∧
    { s0 with mailbox := [(1, [2])] }.mailbox = (1, [2]) :: [] ∧ (7 : Nat) < 8 ∧
    (∃ n, { s0 with pwrlim := n }.pwrlim < Config.vcoreCurrent s0.draws ∨ Config.vcoreCurrent s0.draws ≤ { s0 with pwrlim := n }.pwrlim) :=
  ⟨rfl, rfl, by decide, rfl, rfl, by decide, 0, by omega⟩
/-- One thread, whose next bundle is `nop` beside `add s1, s2, s3`. -/
def sStep : State :=
  { s0 with
    ctx := Ctx.idle, todo := [0]
    cores := [(0, { oneCore th with codeDir := [⟨1, 0, 0, 65536, 0, false⟩] })]
    istore := [(0x43, 7), (0x44, 0x80), (0x45, 0x21), (0x46, 0x42), (0x47, 0x70)] }
theorem wit_StepRunsDecoded :
    let s := sStep
    let k := s.coreAt 0
    let e : CodeEntry := ⟨1, 0, 0, 65536, 0, false⟩
    let b := s.bundleOf 0 e th.pc
    let p : State := { s with todo := [], ctx := ⟨0, 0, .probe, [], th, k.queues, ⟨th.pc, b, false, false⟩, Finding.none⟩ }
    let fc := probeWord (.nopC ⟨0, false, 7⟩) (p.found (p.beside b))
    let q : State := p.afterPops fc.pops
    s.up = true ∧ s.nextDue = none ∧ s.todo = 0 :: [] ∧ s.setCore 0 k = s ∧ k.threads = [(0, th)] ∧ k.paused = false ∧
    k.slotOff 0 = false ∧ s.saving = none ∧ th.run = .running ∧ th.earliest ≤ s.cycle ∧ th.faulted = [] ∧ th.depart = none ∧
    th.hold = none ∧ th.srep = none ∧ th.parked = false ∧ k.codeEntry th.task th.fetchSeg = some e ∧ th.kind ≠ 2 ∧
    b = 0x7042218007000000 ∧ b.getLsbD 31 = false ∧ decodeC (b.setWidth 32) ((b >>> 32).setWidth 32) = .ok (.nopC ⟨0, false, 7⟩) ∧
    decodeA ((b >>> 32).setWidth 32) = .ok (.add ⟨false, 7⟩ ⟨1, 2, 3⟩) ∧ fc.kindTrap = none ∧
    q.verdict [(false, fc), (true, probeWord (.add ⟨false, 7⟩ ⟨1, 2, 3⟩) q)] = .go :=
  ⟨by decide, by decide, rfl, rfl, rfl, rfl, by decide, rfl, rfl, by decide, rfl, rfl, rfl, rfl, rfl, by decide, by decide,
    by decide, by decide, rfl, rfl, by decide, by decide⟩
theorem wit_StepRunsDecoded_lone :
    let s : State := { sStep with istore := [(0x40, 5), (0x42, 0x9C), (0x43, 7), (0x47, 0x70)] }
    s.bundleOf 0 ⟨1, 0, 0, 65536, 0, false⟩ th.pc = 0x70000000079C0005 := by decide
theorem wit_StepRunsDecoded_due :
    let s : State := { s0 with agenda := [(0, ⟨.powerSample, {}⟩)] }
    (∃ e u, s.nextDue = some (e, u)) ∧ s0.nextDue = none ∧ s0.todo = [] := ⟨⟨_, _, rfl⟩, by decide, rfl⟩
theorem wit_DecodeEncodeAgree : (Instr.add ⟨false, 7⟩ ⟨31, 30, 29⟩).wf = true ∧
    encode (.add ⟨false, 7⟩ ⟨31, 30, 29⟩) = some ⟨true, 0x707FEE80, none⟩ ∧ decodeA 0x707FEE80 = .ok (.add ⟨false, 7⟩ ⟨31, 30, 29⟩) ∧
    decodeC 0x07FC0000 0 = .error ⟨1, 1⟩ := ⟨rfl, by decide, rfl, rfl⟩
theorem wit_StepKeepsCanonical : sStep.Canonical ∧ ∃ t, step sStep = .next t := ⟨⟨rfl, by decide, rfl, rfl, rfl, by decide⟩, _, rfl⟩

/-! Further clauses of those statements, each at a state and operands that meet its hypotheses. -/

/-- An access to the first granule. -/
def acc0 (op : LocalOp) : LocalAcc := ⟨me, org0, 0, false, op⟩
/-- The scratchpad granule 0 of core 0 has its record of the interval. -/
def sU (s : State) : State := { s with undo := [⟨0, 0, 0, false, some [], 0, false, 0, 0⟩] }
/-- The bank of granule 0 has served an access in this cycle. -/
def sBank : State := s0.takeBanks 0 [0]
theorem wit_ScratchpadStores_banks :
    s0.localHeld 0 (acc0 (.read 8 false (.sreg 1) none)) = false ∧ (s0.coreAt 0).bankTaken s0.cycle [0] = false ∧
    ((s0.accWrites 0 (acc0 (.read 8 false (.sreg 1) none))).filter fun g => s0.needsRecord 0 g false) = [] ∧
    (((sU s0).accWrites 0 (acc0 (.tagset 3))).filter fun g => (sU s0).needsRecord 0 g false) = [] ∧
    (sBank.coreAt 0).bankTaken sBank.cycle (sBank.accGrans 0 (acc0 (.tagset 3))) = true ∧
    (∃ g ∈ s0.accWrites 0 (acc0 (.tagset 3)), s0.needsRecord 0 g false = true) ∧ s0.isLocal 0x0200000000000000 = true :=
  ⟨by decide, by decide, by decide, by decide, by decide, ⟨0, by decide, by decide⟩, by decide⟩
theorem wit_MatrixUnit_ends : let s := sM { oneCore th with mops := [{ mop with failed := true }] } { n := 1 }
    let r := sM { oneCore th with mops := [{ mop with remote := some rcmd }] } { n := 1 }
    (s.coreAt 0).mops.find? (·.id == 1) = some { mop with failed := true } ∧
    (r.coreAt 0).mops.find? (·.id == 1) = some { mop with remote := some rcmd } := ⟨rfl, rfl⟩
/-- A lace whose first state receives a vector. -/
def imgV : List Byte := List.replicate 64 0 ++ toLE 8 (2 ^ 63) ++ List.replicate 56 0 ++ toLE 4 (2 ^ 29) ++ List.replicate 508 0
def sV : State :=
  { at_ .commit thS { oneCore thS with eyelets := Core.reset.eyelets.set 2 { ey 1 [data0] with lace := some { lace 1 with image := imgV } } } with
    spad := [] }
theorem wit_ChannelWords_bound : let m : CE := ⟨2, 31, 1, false, false, 0, none⟩
    sV.Issues false 7 ∧ sV.boundReg m.reg.toNat = some strm ∧
    (sV.onWord false).chanCheck ⟨2, 0x13, 0, 1⟩ (pickType none) (payloadBad m (sV.onWord false).view) = .ok (2 ^ 29) :=
  ⟨⟨rfl, rfl, rfl⟩, rfl, by decide⟩
/-- A lace image: state 0 receives a scalar, state 1 is an end. -/
def imgGood : List Byte :=
  [2] ++ List.replicate 63 0 ++ toLE 8 (2 ^ 62) ++ List.replicate 56 0 ++ toLE 4 (2 ^ 29 + 2 ^ 11) ++ List.replicate 12 0 ++
    toLE 4 (7 * 2 ^ 29) ++ List.replicate 492 0
/-- Eyelet 2 of core 0 loads that image. -/
def sLoad (img : List Byte) : State :=
  at_ .commit th { oneCore th with eyelets := Core.reset.eyelets.set 2 { Eyelet.reset with loading := true, pend := img } }
theorem wit_ChannelConnections_load : (sLoad imgGood).isLocal 0x0200000000000000 = true ∧ ((sLoad []).eyAt 0 2).pend = [] ∧
    ((sLoad [0]).eyAt 0 2).pend ≠ [] ∧ laceOf [0] 0 0x10000 = none ∧ ((sLoad imgGood).eyAt 0 2).pend ≠ [] ∧
    ((laceOf imgGood 0 (g0.attr.toNat % 2 ^ 43)).any fun l =>
      decide (0 < l.ring * l.slotLen) && ((sLoad imgGood).ringTrap 0 g0 0x0200000000000000 l).isNone) = true ∧ (0x0000880000010000 : Word).getLsbD 44 = false ∧
    ((sLoad imgGood).who me).isSome = true ∧ ((sLoad imgGood).eyAt 0 2).held = none :=
  ⟨by decide, rfl, by decide, by decide, by decide, by decide +kernel, by decide, rfl, rfl⟩
theorem wit_ChannelConnections_outcome : let r : ConnReq := { creq with src := ⟨0, 0, 2, false⟩, connid := 4, holder := me }
    let s := sE { ey 0 with life := .connecting, members := [] }
    let z := s.eyAt r.src.core r.src.ey
    z.life = .connecting ∧ z.connid = r.connid ∧ z.members = [] ∧ (s.who r.holder).isSome = true ∧ z.lace = some (lace 0) ∧
    ((sE (ey 0)).curCore.ey 2).held = none ∧ ((sE (ey 0)).curCore.ey 2).members.length < 8 :=
  ⟨rfl, rfl, rfl, rfl, rfl, rfl, by decide⟩
/-- The thread has waited at the barrier object of granule 0, and has been released or not. -/
def barx (far : Bool) (freed : Option Nat) : BarX := ⟨0x0200000000000000, org0, some (1, 4), freed, far, true, 0, none⟩
theorem wit_Barriers_waiters : let t (f : Option Nat) : Thread := { th with barX := some (barx false f) }
    let wait (f : Option Nat) := (sB ⟨true, 1, 0⟩ {} (t f)).ctx.pre.barX.filter fun y => y.addr == (0x0200000000000000 : Word) && !y.far
    (wait (some 0)).bind (·.freed) = some 0 ∧ (wait (some 1)).bind (·.freed) = some 1 ∧ (wait none).bind (·.freed) = none ∧
    (sB ⟨true, 1, 0⟩ {} (t none)).threadAt 0 0 = some (t none) ∧ wbits (barx false none).addr 6 14 = 0 ∧
    (sB ⟨true, 1, 0⟩).localHeld 0 arr = false ∧ ((sB ⟨true, 1, 0⟩).coreAt 0).bankTaken 0 [0] = false ∧
    (sU (sB ⟨true, 1, 0⟩)).needsRecord 0 0 false = false ∧ s0.elsewhere 0x1000 = true := by
  decide +kernel
theorem wit_RequestsAtHome_banks : sF.undoBlocks 0 [0] = false ∧ (sF.coreAt 0).bankTaken sF.cycle [0] = false ∧
    (∃ v, sF.logTurn 0 [0] false = some v) ∧ ((sF.takeBanks 0 [0]).coreAt 0).bankTaken sF.cycle [0] = true ∧
    (sU sF).undoBlocks 0 [0] = false ∧ (∀ g ∈ [0], (sU sF).needsRecord 0 g false = false) ∧ (req .read).node = 0 :=
  ⟨by decide, by decide, ⟨_, rfl⟩, by decide, by decide, by decide, rfl⟩
theorem wit_ActiveMessages_known :
    let k : Core := { oneCore th with amen := true, filter := [⟨7, 0, []⟩], codeDir := [⟨1, 0, 0, 64, 0, false⟩] }
    let s := at_ .commit th k
    s.filterWait = [] ∧ s.amWaits amsg0 = false ∧ { amsg0 with tagx := true }.tagx = true ∧ spaceOf amsg0.addr = 1 ∧
    { s with spadTag := [(0, 3)] }.spadTagAt 0 0 ≠ tagOf amsg0.addr ∧ (s.amTag amsg0).2 = none ∧
    { oneCore th with v := false }.v = false ∧ (k.codeEntry 2 0) = none := by decide
theorem wit_Copies_steps : let w := sM { oneCore th with copies := [{ cop with waits := 1 }] } { n := 1 }
    let l := sM { oneCore th with copies := [{ cop with src := 0x0200000000000000 }] } { n := 1 }
    w.copyAt 0 1 = some { cop with waits := 1 } ∧ cop.gran = 0 ∧ cop.waits = 0 ∧ cop.pushWaits = 0 ∧
    l.copyAt 0 1 = some { cop with src := 0x0200000000000000 } ∧
    l.homeOf 0 (addOff 0x0200000000000000 0) = .core 0 ∧ { cop with fail := some (10, 2, 3) }.fail = some (10, 2, 3) := by decide
/-- Core 0 with a thread that was created at core 1. -/
def thO : Thread := { th with tid := 0x100007 }
theorem wit_TaskWords_far : (at_ .commit thO (oneCore thO)).Issues false 7 ∧ creator thO.tid ≠ 0 ∧
    { task0 with portCode := .answered false }.portCode = .answered false ∧
    ({ sL { task0 with portCode := .answered false } with subj := {} }).forkTask = some { task0 with portCode := .answered false } ∧
    (List.replicate 32 fork0).length ≥ 32 := ⟨⟨rfl, rfl, rfl⟩, by decide, rfl, rfl, by decide⟩
theorem wit_TaskDispatch_steals : (oneCore th).slotFree 1 = true ∧ (oneCore th).slotFree 0 = false ∧ (oneCore th).dequeFree ≤ s0.cycle ∧
    s0.cycle < { oneCore th with dequeFree := 1 }.dequeFree ∧ s0.mayStealRec 0 fork0 = false ∧
    { s0 with tasks := [(1, { task0 with lr := { LaunchRec.zero with mode := 1 } })] }.mayStealRec 0 fork0 = true ∧ (oneCore th).wantsWork = true ∧ Core.reset.wantsWork = false ∧
    { oneCore th with stolen := [fork0] }.stolen = fork0 :: [] := by decide
theorem wit_SealingAndRollback_undo : (s0.portAt (sealPort 0)).undoBytes + 4096 ≤ s0.undoRegion ∧
    s0.undoRegion < ({ Port.reset with undoBytes := 0x10000000 } : Port).undoBytes + 4096 := by decide
theorem wit_TrapRecords_release : let x : Nat × Nat × List (List Byte) := (7, 2, [[0]])
    let s := { at_ .commit th { oneCore th with trapWait := [x] } with subj := { b := true } }
    s.readyTraps 0 = [x] := by decide
theorem wit_TrapsAndReturn_waits : s0.trailing 0 7 2 = false ∧ (∀ x ∈ (s0.coreAt 0).trapWait, x.1 ≠ 7) ∧
    { at_ .commit th { oneCore th with unacked := [{ req .write with node := 4096 }] } with domains := [(2, Domain.none)] }.trailing 0 7 2 = true ∧
    s0.saving ≠ some (0, 0) ∧ { s0 with saving := some (0, 0) }.saving = some (0, 0) ∧
    { th with srep := some 3 }.srep.isSome = true ∧ { th with mwait := some (none, .sreg 1) }.mwait = some (none, .sreg 1) := by decide
theorem wit_TrapsAndReturn_saving : { s0 with saving := some (0, 0) }.who me = some th ∧ me.core = 0 ∧ me.slot = 0 := ⟨rfl, rfl, rfl⟩
theorem wit_ManagementRegisters_arms : (s0.wqAt 0).en = false ∧
    ({ s0 with wqs := [(1, { WorkQ.reset with cfg := 0x8000004000000000 })] }.wqAt 1).en = true ∧ s0.priOf 0 false = [] ∧ 4095 < 4096 := by
  decide
/-- A context image of an empty thread of domain 2. -/
def ctx0 : List Byte := [0x43, 0x58, 0x54, 0x43] ++ List.replicate 12 0 ++ [2] ++ List.replicate 3439 0
theorem wit_SystemCommands_images : ((sTq []).vreadLong 2 2 0x40 64 false).2 = some (List.replicate 64 0) ∧
    ((sTq []).vwriteAll 2 0 0x40 [[1, 2], [3]]).2 = .done ∧ ((sTq []).vwriteAll 2 0 0x100000000 [[1, 2], [3]]).2 = .fails ∧
    badContext [] 2 = true ∧ badContext ctx0 2 = false ∧ (imgN ctx0 18 2).testBit 3 = false ∧
    (∀ i, i < 16 → (imageCap ctx0 0 i).isSome = false) := by decide +kernel
/-- 2^20 is beyond the largest FP16 number; −3/2 is an FP32 number. -/
theorem wit_ScalarFloatResults_rounding : (1 : BitVec 2) ≠ 3 ∧ (convert (fmtOf 1) false 0 (.fin false 1 20)).2.getLsbD 2 = true ∧
    (convert (fmtOf 0) false 4 (.fin true 3 (-1))).2.getLsbD 2 = false ∧
    ∃ k c t, readFmt (fmtOf 0) false (convert (fmtOf 0) false 4 (.fin true 3 (-1))).1 = .fin true k c ∧ t ≤ -1 ∧ t ≤ c :=
  ⟨by decide, by decide, by decide, _, _, -200, rfl, by decide, by decide⟩
/-- Segments at a space that is not there, at a tagged host address, and across the end of a device's memory. -/
theorem wit_SegmentAddressAndChecks_home :
    let g5 : Seg := ⟨0x0A00000000000000, 0x0000980000010000⟩
    let gh : Seg := ⟨0x1600000000000000, 0x0000980000010000⟩
    let gx : Seg := ⟨0x040007FFFFFFFFF8, 0x0000980000010000⟩
    let k := s0.coreAt s0.ctx.core
    g5.attr.getLsbD 47 = true ∧ (0 : Int) + 8 ≤ (g5.attr.toNat % 2 ^ 43 : Nat) ∧ 5 ≤ (g5.addr 0).toNat / 2 ^ 57 % 8 ∧
    (gh.addr 0).toNat / 2 ^ 57 % 8 = 3 ∧ (gh.addr 0).toNat / 2 ^ 48 % 2 ^ 9 = 0 ∧ (gh.addr 0).toNat / 2 ^ 60 ≠ 0 ∧
    (gx.addr 0).toNat / 2 ^ 57 % 8 = 2 ∧ tget k.devPlace ((gx.addr 0).toNat / 2 ^ 43 % 2 ^ 14) = some ⟨true, false, 0⟩ ∧
    ((gx.addr 0).toNat + 15) / 2 ^ 43 % 2 ^ 14 ≠ (gx.addr 0).toNat / 2 ^ 43 % 2 ^ 14 ∧ (gx.addr 0).toNat % 8 = 0 ∧
    tget k.place 0 = some ⟨true, false, 0⟩ := by decide
/-- The thread waits at the object of granule 0, which is marked or not. -/
theorem wit_ScratchpadStores_waiters : let t : Thread := { th with barX := some (barx false none) }
    let s (m : Bool) := sB ⟨m, 1, 0⟩ {} t
    ((s true).markAt 0 0).mark = true ∧ ((s false).markAt 0 0).mark = false ∧ (s true).threadAt 0 0 = some t ∧
    t.barX = some (barx false none) ∧ (barx false none).far = false ∧ (barx false none).addr.toNat / 64 % 2 ^ 14 = 0 ∧
    (barx false none).freed = none ∧ (barx false (some 1)).freed.isSome = true ∧ 8 / 64 = 0 := by decide +kernel
/-- Domain 2 is valid at a core that holds its segment set (TrackedResultsAndSegments, QueuesMonitorsThreads, ActiveMessages,
DeparturesAndReports, TaskDispatch); elsewhere it is not. -/
def sSetV : State := { sSet with domains := [(2, { Domain.none with v := true })] }
theorem wit_domain_valid : (sSetV.domAt th.pdid).v = true ∧ tget (sSetV.coreAt 0).segCache th.pdid = some [g0] ∧
    sSetV.threadAt 0 0 = some th ∧ sSetV.curCore.freeSlot = some 1 ∧ sSetV.Issues false 7 ∧ (sSetV.domAt amsg0.pdid).v = true ∧
    (sSetV.domAt task0.pdid).v = true ∧ (sSetV.domAt pkt.pdid).v = true ∧ (s0.domAt pkt.pdid).v = false :=
  ⟨rfl, rfl, rfl, by decide, ⟨rfl, rfl, rfl⟩, rfl, rfl, rfl, rfl⟩
theorem wit_ReductionAndConversionResults_float : s0.Issues false 7 ∧ (2 : BitVec 5).toNat ≤ 2 ∧ (2 : BitVec 2) ≠ 3 :=
  ⟨issues, by decide, by decide⟩
theorem wit_VectorResultAndFrame_bound : sS.boundReg 31 = some strm ∧ sS.cur = some thS ∧ sS.ctx.mode = .commit ∧
    vget none thS.streams (31 - 28) = some strm := ⟨rfl, rfl, rfl, rfl⟩
/-- A sparse product with scales, and a conversion to a block format of one row of sixteen elements. -/
theorem wit_MatrixUnit_sparse :
    let m : MOp := { mop with fn := 2, opt := 0x84, srcs := [⟨1, 0⟩, ⟨2, 0⟩, ⟨3, 0⟩], steps := mop.blockSteps }
    let v : MOp := { mop with fn := 5, dst := ⟨0, 0xD0070000⟩ }
    m.fn = 2 ∧ m.base = 0 ∧ m.scl = true ∧ 0 < tcK (m.src 1).cfg ∧ 0 < tcRows (m.src 0).cfg ∧ v.fn = 5 ∧ (0 : Nat) < tcRows v.dst.cfg ∧
    13 ≤ tcFmt v.dst.cfg ∧ 0 < tcBlocks v.dst.cfg := by decide
theorem wit_RemoteTileCommands_refusals :
    let noFn : Cap := { cap with fmask := 0 }
    let gone : Cap := { cap with v := false, left := true }
    let named (c : Cap) := c.fmask.getLsbD (rcmd.word.toNat / 2 ^ 9 % 16) = true ∧
      ∀ x ∈ (wordNames rcmd.word).1 :: (wordNames rcmd.word).2, c.tmask.getLsbD x = true
    vget noCap ((sCap noFn).coreAt 0).caps 0 = noFn ∧ (noFn.v = true ∧ noFn.key = rcmd.key ∧ noFn.frompd = rcmd.pdid ∧ ¬named noFn) ∧
    vget noCap ((sCap gone).coreAt 0).caps 0 = gone ∧ named gone ∧ gone.left = true ∧ gone.away = none ∧ cap.left = false ∧
    named cap ∧ (th.tileTrap (rcmd.word.toNat / 2 ^ 9 % 16) (rcmd.word.setWidth 9) (wordNames rcmd.word)) = none ∧
    ({ th with twin := 0 }.tileTrap 1 0 (0, [1, 2])).isSome = true := by decide
theorem wit_ChannelEnds_late : let t : Thread := { th with parked := true }
    let s : State := { at_ .commit t { oneCore t with eyelets := Core.reset.eyelets.set 2 (ey 0) } with subj := { n := 2 } }
    (s.threadAt 0 0 = some t ∧ t.parked = true ∧ t.run = .running ∧ (s.eyAt 0 2).life = .opened) ∧
    ¬((s0.threadAt 0 0).map (·.parked) = some true) ∧ ((sD (ey 4)).eyAt 0 1).deleg = some (0, 2) ∧ (2 : Nat) < 16 ∧
    (∃ q ∈ ((sD (ey 4)).eyAt 0 1).members, q.loc = mem1.loc ∧ q.connid = mem1.connid) ∧
    ∀ q ∈ ((sD (ey 4)).eyAt 0 1).members, q.loc = mem1.loc → q.connid ≠ 8 :=
  ⟨⟨rfl, rfl, rfl, rfl⟩, by decide, rfl, by decide, ⟨mem1, .head _, rfl, rfl⟩, by decide⟩
/-- Slot 0 of the one link from core 0 to core 1 is another channel's. -/
theorem wit_RoutesAndLinkSlots_taken : let s : State := { sR with linkSlots := [(16 * (linkPath 0 1).headD 0, 5)] }
    ((s.onWord false).eyAt 0 2).members.head? = some mem1 ∧ mem1.loc.dev = s.devIdx ∧ (linkPath 0 mem1.loc.core)[0]? = (linkPath 0 1).head? ∧
    (linkPath 0 1).length = 1 ∧ tget s.linkSlots (16 * (linkPath 0 1).headD 0 + (0 + 0) % 16) = some 5 ∧ 5 ≠ linkOwner 0 2 ∧
    (1 : Word).getLsbD 0 = true ∧ (1 : Word) ≠ 0 ∧ sR.linkSlots = [] :=
  ⟨rfl, rfl, by decide, by decide, by decide, by decide, by decide, by decide, rfl⟩
theorem wit_QueuesMonitorsThreads_again : let t : Thread := { th with mwait := some (none, .sreg 1) }
    let s := at_ .commit t (oneCore t)
    s.Issues false 7 ∧ s.ctx.pre.mwait = some (none, .sreg 1) ∧ s.ctx.pre.pends = 0 ∧
    { t with mon := t.mon.set 0 ⟨true, 0, true⟩ }.pends ≠ 0 := ⟨⟨rfl, rfl, rfl⟩, rfl, rfl, by decide⟩
/-- A combined arrival at granule 0, which has its record, and one through a segment that asks for the tag. -/
theorem wit_Barriers_arrival : let m (tag : Word) (chk : Bool) : CombMsg := ⟨0, 0, 5, 0x0200000000000000 + tag, 1, chk⟩
    let s := sU (sB ⟨true, 1, 0⟩)
    (s.coreAt 0).netJobs = [] ∧ (s.coreAt 0).bankTaken s.cycle [0] = false ∧ ((s.takeBanks 0 [0]).coreAt 0).bankTaken s.cycle [0] = true ∧
    (m 0x3000000000000000 true).check = true ∧ s.spadTagAt 0 0 ≠ tagOf (m 0x3000000000000000 true).addr ∧
    s.spadTagAt 0 0 = tagOf (m 0 true).addr ∧ (s.markAt 0 0).mark = true ∧ s.undoBlocks 0 [0] = false ∧
    s.needsRecord 0 0 false = false ∧ ((sB ⟨false, 1, 0⟩).markAt 0 0).mark = false := by decide
theorem wit_SlotSupervision_waits : let t : Thread := { th with parked := true }
    let s := at_ .commit t (oneCore t)
    (t.parked = true ∧ t.run = .running ∧ s.gone t = false) ∧ ¬(th.parked = true) ∧ sK.saving ≠ some (0, 0) := by decide
theorem wit_GlobalAccesses_none : (req .read).who.slot ≠ 255 ∧ (req .amsg).kind = .amsg := by decide
/-- A counted answer at granule 0, whose bank is free or taken. -/
theorem wit_AnswersAtIssuer_banks : let r : Req := { req .write with bar := some 0 }
    let s (m : Bool) := sU (sB ⟨m, 1, 0⟩)
    r.who.slot ≠ 255 ∧ r.bar = some 0 ∧ ((s true).coreAt 0).netJobs = [] ∧ ((s true).coreAt 0).bankTaken 0 [0] = false ∧
    ((s true).takeBanks 0 [0] |>.coreAt 0).bankTaken (s true).cycle [0] = true ∧ ((s true).markAt 0 0).mark = true ∧
    (s true).undoBlocks 0 [0] = false ∧ (s true).needsRecord 0 0 false = false ∧ ((s false).markAt 0 0).mark = false ∧
    (∃ x ∈ (s0.coreAt 0).threads, x.2.tid = r.who.tid) ∧ ∀ x ∈ (s0.coreAt 1).threads, x.2.tid ≠ r.who.tid := by decide
/-- Requests that a full hold refused, and records of page faults inside and outside the window of the oldest. -/
theorem wit_PageTranslation_windows :
    let s : State := { s0 with cycle := 600, pri := [preq none, { preq none with va := 0x400000, raised := 513 }], priAlloc := [(0, 4)] }
    let r : State := { s0 with ports := [(3, { Port.reset with refused := [req .read] })] }
    let loose := s.pri.filter fun x => (s.domAt x.pdid).vf == 0 && x.group.isNone
    loose.head? = some (preq none) ∧ (preq none).raised + 512 ≤ s.cycle ∧ (0 : Nat) ∉ s.priOff ∧
    (∃ x ∈ loose, (preq none).raised + 512 < x.raised) ∧ ({ s with cycle := 10 } : State).cycle < (preq none).raised + 512 ∧
    (s0.portAt 3).offers = [] ∧ s0.groupComing 0 = false ∧ req .read ∈ (r.portAt 3).refused ∧ (req .read).who = me ∧
    ofCopy (req .read) = false := by decide
theorem wit_Copies_checked : s0.r15Span 0 (addOff 0x0200000000000000 0) 64 = none ∧
    (s0.r15Span 0 (addOff 0x0A00000000000000 0) 64).isSome = true := by decide
/-- A departure that met an entry in transit, one whose packet the destination has admitted, and one it has not. -/
theorem wit_DeparturesAndReports_admitted :
    let t : Thread := { thD true with parked := true }
    let s (l : List FilterE) : State := { at_ .commit t (oneCore t) with cores := [(0, oneCore t), (1, { Core.reset with filter := l })] }
    (s []).threadAt 0 0 = some t ∧ t.depart = some (dep true) ∧ t.parked = true ∧ t.run = .running ∧ (dep true).sent = true ∧
    (∃ f ∈ (s [⟨7, 1, []⟩]).filterAt (dep true).dest, f.tid = t.tid ∧ serialLe t.seq f.last = true) ∧
    (∀ f ∈ (s []).filterAt (dep true).dest, f.tid = t.tid → serialLe t.seq f.last = false) ∧
    (oneCore th).cassignNext = none ∧ { oneCore th with cassignNext := some 0 }.vacant = false ∧
    s0.homeOf 0 0x040008000000000 ≠ .core 0 := by decide +kernel
theorem wit_TaskWords_deque : (oneCore th).dequeLoad < 32 ∧ 32 ≤ { oneCore th with deque := List.replicate 32 fork0 }.dequeLoad ∧
    (oneCore th).dequeQ = [] ∧ (oneCore th).dequeFree ≤ s0.cycle ∧ s0.cycle < { oneCore th with dequeFree := 1 }.dequeFree := by decide
theorem wit_LaunchUnit_answers : (sub { b := true, n := 0 }).subj.b = true ∧ (sub { b := true, n := 4 }).subj.n ≠ 0 ∧
    (sub { b := true, m := 1 }).subj.m ≠ 0 ∧ (sub { b := true }).subj.m = 0 ∧ (sL task0).subj.b = false ∧
    (sL task0).who { me with tid := 9 } = none := by decide
theorem wit_TaskDispatch_requests : (sQ true).requests = [] ∧ (sQ true).subj.b = false ∧
    ({ sQ true with requests := [0] } : State).requests = [0] ∧ (0 : Nat) ≠ 5 := by decide
theorem wit_TaskDispatch_turns : (oneCore th).slotFree 1 = true ∧ DequeOp.take 1 ∉ (oneCore th).dequeQ ∧
    DequeOp.take 1 ∈ { oneCore th with dequeQ := [.take 1] }.dequeQ ∧ (oneCore th).dequeQ = [] := by decide
/-- Markers of two devices; what another device of the group has sent. -/
theorem wit_CutsAndSeals_markers :
    let s : State := { s0 with members := [0, 1], markers := [(1, 0)], subj := { n := 0 } }
    s.subj.m = 0 ∧ (sub { m := 2 }).subj.m ≠ 0 ∧ (∀ d ∈ s.members, d ≠ s.devIdx → (d, (0 : BitVec 32)) ∈ s.markers) ∧
    ¬(∀ d ∈ s.members, d ≠ s.devIdx → (d, (0 : BitVec 32)) ∈ ({ s with markers := [] } : State).markers) ∧ s.net = [] ∧
    (sub { b := true }).subj.slot = 0 ∧ (sub { slot := 1 }).subj.slot ≠ 0 ∧ (∀ d ∈ s0.members, d = s0.devIdx) ∧
    (∃ m ∈ ({ s0 with net := [⟨1, 0, -1, ⟨.powerSample, {}⟩⟩] } : State).net, m.dst = 0 ∧ serialLt m.rin 0 = true) := by decide
/-- Core 0 and its thread in a sealed record. -/
theorem wit_SealingAndRollback_record :
    let s : State := { s0 with seals := [⟨s0.sealedNo + 1, [(0, oneCore th)], [], none, [], [], [], [], []⟩] }
    (∃ r, s.seals.find? (·.cut == s.sealedNo + 1) = some r ∧ tget r.cores 0 = some (oneCore th)) ∧
    tget s.cores 0 = some (oneCore th) ∧ (oneCore th).out = false ∧ tget (oneCore th).threads 0 = some th ∧
    tget (oneCore th).threads 5 = none ∧ s.subj.b = false ∧ s.domains = [] ∧ (∀ x ∈ s.ports, x.2.held = []) ∧ s.hostWait = [] ∧
    s0.undoBlocks 0 [0] = false ∧ s.leader = s.devIdx :=
  ⟨⟨_, rfl, rfl⟩, rfl, rfl, rfl, rfl, rfl, rfl, by decide, rfl, by decide, by decide⟩
theorem wit_SealingAndRollback_full : ({ s0 with
    ports := [(sealPort 0, { Port.reset with undoBytes := 0x10000000 })]
    cores := [(0, { oneCore th with undoBytes := 131072 })] } : State).undoBlocks 0 [0] = true := by decide
theorem wit_TrapsAndReturn_repeated : { org0 with rep := true }.rep = true ∧ th.srep = none ∧ { th with srep := some 2 }.srep.isSome = true ∧
    org0.pc = th.pc := by decide
/-- A write of a record that finds its page and no room, and one that finds no page. -/
theorem wit_TrapRecords_room : ((sTq []).sysWrite 2 0x80 (List.replicate 64 0) 0).2 = .done ∧
    ((s0.sysWrite 2 0x80 (List.replicate 64 0) 0).2) ≠ .done ∧ Put.fails ≠ .done ∧ s0.ewbRoom 64 = true ∧
    ({ s0 with ewb := [⟨0, false, 2, 0, [1], none⟩] } : State).ewb ≠ [] := by decide +kernel
theorem wit_SystemCommands_turns : let x : SysCmd := ⟨⟨.tlbsync, { n := 2 }⟩, 0x40, true⟩
    let s : State := { sCmd th with sysq := [x], subj := { n := 12 } }
    s.sysq = x :: [] ∧ s.sysq ≠ [] ∧ (sCmd th).sysq = [] ∧ s.subj.slot = 0 ∧ { x with ok := false }.ok = false := by decide
/-- A stopped thread that was leaving; a capability entry in the way of an image; a packet with a reservation. -/
theorem wit_SystemCommands_leaving : let t : Thread := { thD true with run := .stopped, rpc := 0x40 }
    (sCmd t 0).threadAt 0 0 = some t ∧ (t.depart.isSome = true ∧ t.legalPc t.rpc = t.pc) ∧ ¬(thZ.depart.isSome = true) ∧
    (vget noCap ((sCap cap).coreAt 0).caps 0).v = true ∧ (vget noCap ((sCap cap).coreAt 0).caps 0).away = none ∧
    (imageCap (ctx0.take 3200 ++ [1] ++ List.replicate 255 0) 0 0).isSome = true ∧ pkt ∈ { oneCore th with resv := [pkt] }.resv ∧
    (0 : Nat) = (sCmd th).subj.core := by decide +kernel
/-- A thread without tiles, in a repetition. -/
theorem wit_SavedImageRestores : let t : Thread := { th with twin := 0, srep := some 5 }
    let s := at_ .commit t (oneCore t)
    t.pdid < 256 ∧ t.task < 65536 ∧ t.tid / 2 ^ 32 = s.devIdx ∧ t.altlast < 16 ∧ (∀ i, i < 4 → vget 0 t.d i < 64) ∧
    (s.image 0 0 t).length < 2 ^ 64 ∧ (∀ n, t.srep = some n → n < 2 ^ 14) ∧ t.aout < 2 ^ 32 ∧
    ∀ i, i < 4 → vget 0 t.outst i < 2 ^ 16 :=
  ⟨by decide, by decide, by decide, by decide, by decide, by decide +kernel, fun _ h => by cases h; decide, by decide, by decide⟩
/-- Virtual function 0 owns no queue here; a word of SYSCMD with OP 6, and with OP 10. -/
theorem wit_ManagementRegisters_functions : (sub { slot := 1, n := 4 }).subj.slot ≠ 0 ∧ (4 : Nat) ∉ [1, 2, 3, 8, 11, 12] ∧
    (s0.domAt ((s0.wqAt 1).cfg.toNat / 2 ^ 40 % 256)).v = false ∧ s0.subj.slot = 0 ∧ (0x6020000000000000 : Word).toNat % 2 ^ 36 = 0 ∧
    (0x6020000000000000 : Word).toNat / 2 ^ 60 = 6 ∧ 9 < (0xA000000000000000 : Word).toNat / 2 ^ 60 ∧
    (sG none).priOf 0 false = preq none :: [] ∧ (sG none).groupComing 0 = false ∧
    ({ s0 with mgmt := [(0x30C8, 3)] } : State).health 200 = 3 ∧ ({ s0 with mgmt := [(0x30C8, 0)] } : State).health 200 = 0 := by decide
theorem wit_StepRunsDecoded_replay : sStep.replaying = false ∧ th.asleep = false := by decide
theorem wit_EveryFormCompletes : s0.Issues false 7 ∧ s0.cur.isSome = true := ⟨issues, rfl⟩

/-! Single steps; what is expected is worked out by hand from the rule named. -/

/-- The results that an instruction leaves due at core 0: register, value, due cycle. -/
def dueOf (o : Out) : List (RegDst × Nat × Nat) :=
  match o with
  | .next s => (s.coreAt 0).due.map fun w => (w.dst, w.val, w.due)
  | _ => []
/-- The thread in slot 0 of core 0 after an instruction. -/
def after (o : Out) : Thread :=
  match o with
  | .next s => (s.threadAt 0 0).getD Thread.reset
  | _ => Thread.reset
/-- The state with s1 = `a` and s2 = `b`. -/
def regs (a b : Word) : State :=
  let t : Thread := { th with s := (th.s.set 1 a).set 2 b }
  at_ .commit t (oneCore t)
/-- R82: modulo 2^64. -/
theorem test_add_wraps : dueOf (exec (.add g ⟨4, 1, 2⟩) (regs 0xFFFFFFFFFFFFFFFF 3)) = [(.sreg 4, 2, 1)] := by decide
/-- R82: the product of −1 and 2 is −2; its high half is all ones, as an unsigned product it is 1. -/
theorem test_mulh : dueOf (exec (.mulh g ⟨4, 1, 2⟩) (regs 0xFFFFFFFFFFFFFFFF 2)) = [(.sreg 4, 0xFFFFFFFFFFFFFFFF, 3)] ∧
    dueOf (exec (.mulhn g ⟨4, 1, 2⟩) (regs 0xFFFFFFFFFFFFFFFF 2)) = [(.sreg 4, 1, 3)] := by decide
/-- R82: the count is taken modulo 64. -/
theorem test_shift_count : dueOf (exec (.shl g ⟨4, 1, 2⟩) (regs 3 65)) = [(.sreg 4, 6, 1)] ∧
    dueOf (exec (.sra g ⟨4, 1, 2⟩) (regs 0x8000000000000000 63)) = [(.sreg 4, 0xFFFFFFFFFFFFFFFF, 1)] := by decide
/-- R82. -/
theorem test_clz_zero : dueOf (exec (.clz g ⟨4, 1⟩) (regs 0 0)) = [(.sreg 4, 64, 1)] ∧
    dueOf (exec (.ctz g ⟨4, 1⟩) (regs 0x10 0)) = [(.sreg 4, 4, 1)] := by decide
/-- R86: bits 11 to 4 of 0xABCD are 0xBC. -/
theorem test_bfx : dueOf (exec (.bfx g ⟨4, 1, 4, 8⟩) (regs 0xABCD 0)) = [(.sreg 4, 0xBC, 1)] := by decide
/-- R87: −1 is below 1 as a signed number and above it as an unsigned one; both predicates are written. -/
theorem test_cmp_signs :
    dueOf (exec (.cmp g 1 2 1 2 2) (regs 0xFFFFFFFFFFFFFFFF 1)) = [(.preg 1, 1, 1), (.preg 2, 0, 1)] ∧
    dueOf (exec (.cmp g 1 2 1 2 6) (regs 0xFFFFFFFFFFFFFFFF 1)) = [(.preg 1, 0, 1), (.preg 2, 1, 1)] := by decide
/-- R89: 1 + 1 = 2 in FP32, and 1.5 · −2 = −3 in BF16. -/
theorem test_float : dueOf (exec (.fadd g ⟨4, 1, 2, 0, 0⟩) (regs 0x3F800000 0x3F800000)) = [(.sreg 4, 0x40000000, 4)] ∧
    dueOf (exec (.fmul g ⟨4, 1, 2, 0, 2⟩) (regs 0x3FC0 0xC000)) = [(.sreg 4, 0xC040, 4)] := by decide
/-- R58, R68: 65504 is the greatest FP16 number; twice it rounds to infinity. -/
theorem test_float_overflow : dueOf (exec (.fadd g ⟨4, 1, 2, 0, 1⟩) (regs 0x7BFF 0x7BFF)) = [(.sreg 4, 0x7C00, 4)] := by decide
/-- R73: the integer 7 is 1.75 · 2^2 in FP32. -/
theorem test_cvt : dueOf (exec (.cvt g ⟨4, 1, 7, 0, 0⟩) (regs 7 0)) = [(.sreg 4, 0x40E00000, 3)] := by decide
/-- R79, R83: a division makes its destination empty, and its result is due 2 + ⌈3/2⌉ cycles after issue: 7 / 2 = 3. -/
theorem test_div : (after (exec (.div g ⟨4, 1, 2⟩) (regs 7 2))).sEmpty = 0x10 ∧
    (match exec (.div g ⟨4, 1, 2⟩) (regs 7 2) with
      | .next s => (s.agenda.map fun e => (e.1, e.2.ins)).filter fun e => e.1 == 4
      | _ => []) = [(4, .divideComplete ⟨me, .sreg 4, 3, none⟩)] := by decide
/-- R112: `call` with displacement 10 at 0x40. -/
theorem test_call : (after (exec (.call h (.short 10)) s0)).pc = 0x90 ∧
    dueOf (exec (.call h (.short 10)) s0) = [(.sreg 15, 0x48, 1)] := by decide
/-- R114: `loop` transfers while its register, counted down, is not zero. -/
theorem test_loop : (after (exec (.loop h 2 0x3FFC) s0)).pc = 0x20 ∧
    (after (exec (.loop h 2 0x3FFC) (regs 0 1))).pc = 0x40 := by decide
/-- R23: a false guard. -/
theorem test_guard : dueOf (exec (.add ⟨true, 7⟩ ⟨4, 1, 2⟩) (regs 1 2)) = [] := by decide
/-- R1, R120: bytes are stored lowest address first. -/
theorem test_store_order : (s0.spadWrite 0 8 (toLE 4 0x11223344) false).spadRead 0 8 4 = [0x44, 0x33, 0x22, 0x11] := by decide
/-- R129: `.s8` extends the sign. -/
theorem test_load_extends : extend true (leNat [0x80]) 8 = 0xFFFFFFFFFFFFFF80 ∧ extend false (leNat [0x80]) 8 = 0x80 := by decide
/-- R126, R127: the limit is 64 KiB; the last double word passes, the next is out of bounds. -/
theorem test_bounds : trapOf (s0.check ⟨0, 0xFFF8⟩ 8 true false 8) = none ∧
    (trapOf (s0.check ⟨0, 0x10000⟩ 8 true false 8)).map (·.cause) = some 5 ∧
    (trapOf (s0.check ⟨0, 4⟩ 8 true false 8)).map (·.cause) = some 8 := by decide
/-- R161: the complement of vm0, which is zero here, in all 64 bits. -/
theorem test_mask_logic : dueOf (exec (.mnot g 1 0) s0) = [(.mreg 1, 0xFFFFFFFFFFFFFFFF, 2)] := by decide
/-- R264: the eight operations on 3 and 5, at 32 bits. -/
theorem test_atomics : (List.range 8).map (fun op => atomNew op 4 false 3 5 3) =
    [some 8, some 1, some 7, some 6, some 3, some 5, some 5, some 5] := by decide
/-- R264: compare-and-swap of another value writes nothing; a signed minimum. -/
theorem test_atomic_signed : atomNew 7 4 false 3 5 4 = none ∧ atomNew 4 4 true 3 0xFFFFFFFF 0 = some 0xFFFFFFFF := by decide
/-- R239, R240: the last of two arrivals starts the next round. -/
theorem test_barrier_round : ((sB ⟨true, 1, 0⟩).countDown 0 0 1).spadRead 0 0 20 = [2, 0, 0, 0, 0, 0, 0, 0, 2, 0, 0, 0, 0, 0, 0, 0, 5, 0, 0, 0] := by
  decide
/-- R356: the cause, subcode, domain and flags of a trap record, and the bundle's address. -/
theorem test_trap_record : (s0.trapRecord 0 0 2 1 7 1 org0 0x48 ⟨5, 1, 9, 10⟩).take 4 = [5, 1, 2, 1] ∧
    ((s0.trapRecord 0 0 2 1 7 1 org0 0x48 ⟨5, 1, 9, 10⟩).drop 16).take 8 = [0x40, 0, 0, 0, 0x48, 0, 0, 0] := by decide
/-- R360: a handled trap. -/
theorem test_handler : let s := at_ .commit (thH false) (oneCore (thH false))
    let t := after (.next (s.takeTrap me false org0 ⟨0x17, 1, 9, 10⟩))
    t.pc = 0x100 ∧ t.epc = 0x40 ∧ t.ecause = 0x117 ∧ t.eaddr = 9 ∧ t.edetail = 10 ∧ t.status = 0x100 := by decide
/-- R362: `eret`. -/
theorem test_eret : let s := at_ .commit (thH true) (oneCore (thH true))
    (after (exec (.eret h) s)).pc = 0x48 ∧ (after (exec (.eret h) s)).status = 0 := by decide
/-- R365: FFLAGS keeps five bits; TID is not written. -/
theorem test_cwr : (after (exec (.cwr h 1 0x011) (regs 0xFF 0))).fflags = 0x1F ∧
    (after (exec (.cwr h 1 0x000) (regs 5 0))).tid = 7 := by decide
/-- A whole step: the cycle's bundle is `nop` beside `add s1, s2, s3`; s1 = 5 + 9 is due in the next cycle and PC moves on. -/
theorem test_step : (match step sStep with
    | .next s => (((s.threadAt 0 0).getD Thread.reset).pc, (s.coreAt 0).due.map fun w => (w.dst, w.val, w.due))
    | _ => (0, [])) = (0x48, [(.sreg 1, 14, 1)]) := by decide
/-- A step whose bundle is `trap 5` alone stops its thread (R361, R359). -/
theorem test_step_trap : (match step { sStep with istore := [(0x40, 5), (0x42, 0x9C), (0x43, 7), (0x47, 0x70)] } with
    | .next s => ((s.threadAt 0 0).getD Thread.reset).run
    | _ => .running) = .stopped := by decide
/-- An undefined word traps as IllegalInstruction, and the step goes on. -/
theorem test_step_illegal : (match step { sStep with istore := [(0x42, 0xFC), (0x43, 7), (0x47, 0x70)] } with
    | .next s => ((s.threadAt 0 0).getD Thread.reset).run
    | _ => .running) = .stopped := by decide
/-- The word that `withFetchWord` places is the one that runs. -/
theorem test_fetch_word : (match step (State.reset.withFetchWord 32 0x70800005) with
    | .next _ => true
    | _ => false) = true := by decide

end Sys2Proof.Tests
end

section
/-! SUPPORT. The frame of the scalar words of fixed latency (R3, R102): each word's effect only makes results due. -/

namespace Sys2Proof.Machine

theorem State.OnlyResults.resultPP (s : State) (pt pf : BitVec 3) (c : Bool) (flags : BitVec 5) (lat : Nat) :
    s.OnlyResults (s.resultPP pt pf c flags lat) := (State.OnlyResults.resultP s pt lat c flags).trans (.resultP _ _ _ _ _)

/-- A word specification whose effect only makes results due. -/
def WordSpec.OnlyResults (w : WordSpec) : Prop := ∀ s : State, s.OnlyResults (w.effect s)

theorem aluSpec_onlyResults (o : AR) (lat : Nat) (f : Word → Word → Word) : (aluSpec o lat f).OnlyResults :=
  fun s => .result s _ _ _ _
theorem unarySpec_onlyResults (o : AU) (f : Word → Word) : (unarySpec o f).OnlyResults := fun s => .result s _ _ _ _
theorem cmpSpec_onlyResults (pt pf : BitVec 3) (src : List (BitVec 5)) (c : State → Bool) :
    (cmpSpec pt pf src c).OnlyResults := fun s => .resultPP s _ _ _ _ _
theorem predSpec_onlyResults (pd pa pb : BitVec 3) (c : Thread → Bool) : (predSpec pd pa pb c).OnlyResults :=
  fun s => .resultP s _ _ _ _
theorem fpSpec_onlyResults (o : AFP) (d : Bool) (f : Fmt → Nat → Num → Num → Num → Nat × BitVec 5) :
    (fpSpec o d f).OnlyResults := fun s => .result s _ _ _ _
theorem fsSpec_onlyResults (o : AFS) (f : Fmt → Nat → Nat → Nat × BitVec 5) : (fsSpec o f).OnlyResults :=
  fun s => .result s _ _ _ _

/-- An A-word of such a specification changes nothing else, whether its guard holds or not. -/
theorem runA_onlyResults {s t : State} {h : AHead} {w : WordSpec} (hm : s.ctx.mode = .commit) (hw : w.OnlyResults)
    (ht : runA h w s = .next t) : s.OnlyResults t := runWord_onlyResults hw hm ht

/-- Settles O5: every word of the family is an A-word whose effect only makes results due. -/
theorem scalarFrame : Obligations.ScalarFrame := by
  intro i s t hi hm ht
  cases i with
  | nopA h => exact runA_onlyResults hm (fun s => .refl s) ht
  | add h o | sub h o | mul h o | mulh h o | mulhn h o | and h o | or h o | xor h o | andn h o | shl h o | shr h o | sra h o
  | rot h o | min h o | max h o | minn h o | maxn h o | lea h o k =>
    exact runA_onlyResults hm (aluSpec_onlyResults o _ _) ht
  | clz h o | ctz h o | popc h o | mov h o | sext8 h o | sext16 h o | sext32 h o | zext8 h o | zext16 h o | zext32 h o =>
    exact runA_onlyResults hm (unarySpec_onlyResults o _) ht
  | addi h d a imm | bfx h o => exact runA_onlyResults hm (unarySpec_onlyResults _ _) ht
  | sel h o k | movImm h d imm | movK h d k imm | bfi h o | cvt h o =>
    exact runA_onlyResults hm (fun s => .result s _ _ _ _) ht
  | cmp h pt pf a b cc | cmpi h pt pf a cc imm => exact runA_onlyResults hm (cmpSpec_onlyResults _ _ _ _) ht
  | fcmp h pt pf a b fc ft => exact runA_onlyResults hm (fun s => .resultPP s _ _ _ _ _) ht
  | pand h o | por h o | pxor h o | pmov h pd pa na => exact runA_onlyResults hm (predSpec_onlyResults _ _ _ _) ht
  | fadd h o | fsub h o | fmul h o | fma h o => exact runA_onlyResults hm (fpSpec_onlyResults o _ _) ht
  | fmin h o | fmax h o | fsgn h o | fsgnN h o => exact runA_onlyResults hm (fsSpec_onlyResults o _) ht
  | _ => cases hi

end Sys2Proof.Machine
end

section
/-! SUPPORT. Every form completes (R3): a word of a bundle answers where its thread stands there, and the device's other steps
answer in every state, since every branch of their meanings is a next state. -/

namespace Sys2Proof.Machine

/-- The words of a bundle answer under the conditions for normal execution. -/
theorem words_answer {l : List Instr} (hl : l.all (fun i => (headOf i).isSome) = true) {s : State} {neg : Bool}
    {grd : BitVec 3} (hs : s.Issues neg grd) : ∀ i ∈ l, ∃ t, exec i s = .next t := by
  intro i hi
  obtain ⟨g, hg⟩ := Option.isSome_iff_exists.1 (List.all_eq_true.1 hl i hi)
  exact exec_answers i g s hg (by simp [hs.mode]) hs.here

/-- A system command is done, waits its turn, or is refused (R366). -/
theorem State.command_answers (s : State) (i : Instr) (ok : Bool) (act : State → Word → State) :
    ∃ t, s.command i ok act = .next t := by
  unfold State.command
  split
  · exact ⟨_, rfl⟩
  · split <;> exact ⟨_, rfl⟩

/-! In the next two, what is read and what is tried stand for any function of their type, so that no comparison of two
branches evaluates them. -/

theorem execWorkQueueTake_answers (s : State) : ∃ t, execWorkQueueTake s = .next t := by
  unfold execWorkQueueTake
  obtain ⟨read, hread⟩ : ∃ f, State.unitRead = f := ⟨_, rfl⟩
  obtain ⟨offer, hoffer⟩ : ∃ f, State.offer = f := ⟨_, rfl⟩
  rw [hread, hoffer]
  dsimp only
  (repeat' split) <;> exact ⟨_, rfl⟩

theorem execPortCoreCodePlacement_answers (s : State) : ∃ t, execPortCoreCodePlacement s = .next t := by
  unfold execPortCoreCodePlacement
  obtain ⟨read, hread⟩ : ∃ f, State.readSegs = f := ⟨_, rfl⟩
  obtain ⟨place, hplace⟩ : ∃ f, State.placeAll = f := ⟨_, rfl⟩
  rw [hread, hplace]
  dsimp only
  (repeat' split) <;> exact ⟨_, rfl⟩

/-- Every register's branch is a next state, and that of SYSCMD a system command. -/
theorem execRegisterWrite_answers (s : State) : ∃ t, execRegisterWrite s = .next t := by
  unfold execRegisterWrite
  dsimp only
  (repeat' split) <;> simp only [State.command_answers, Host.Outcome.next.injEq, exists_eq']

/-- The device's own steps that need no thread. -/
def stepsAlone : Instr → Bool
  | .illegalEncodingIssue => false
  | i => (headOf i).isNone

/-- Those steps answer a next state: some are one next state, some are system commands, and the rest branch, on what the state
holds, into next states only. -/
theorem exec_answers_of_stepsAlone {i : Instr} (s : State) (h : stepsAlone i = true) : ∃ t, exec i s = .next t := by
  cases i with
  | divideComplete | localLoadWriteback | trackedRegisterWrite | streamReadAvailable | streamPushQueued | globalRead
  | globalWrite | atomicAtHome | flushReadAtHome | countedAckArrival | amsgArrival | filterRefusalRetry
  | lateReplyForward | combinedArrival | prgResponse | hostWrite | fixedLatencyWrite | hsiftComplete | vectorUnitFree
  | replyConfirm | pageWalkComplete | wakeNotice | faultRecordReoffer | forwardingExpiry | thermslotUpdate
  | mwaitDeadline | snagScan | heldTrapRecordRelease | stealRetry | childEnd | sealRecordAck | linkFailure
  | portTraining | deviceReset | healthUpdate | codeMissFetch | placementTableWrite | hbmRefresh =>
    exact ⟨_, rfl⟩
  | save | restore | resume | endThread | segsync | tlbsync | remove | domsync | prienable =>
    unfold exec
    delta execSave execRestore execResume execEndThread execSegsync execTlbsync execRemove execDomsync execPrienable
    exact State.command_answers _ _ _ _
  | localAccessPerformed | segldComplete | elaceComplete | remoteCommandArrival | remoteCommandReply
  | connectRequestArrival | connectOutcome | portEndpointConnect | channelMessageArrival | allowanceReturn
  | closeNoticeArrival | closeAcknowledge | moveNotice | markArrival | rehome | acknowledgementArrival | amsgReply
  | faultNotice | packetArrival | arrivalReport | reservationGrant | reservationRetry | packetResendTimeout
  | combinerReply | trapReportAfterIssue | commitRequest | growRequest | launchSubmit | durableReport | hostRead
  | attestationRequest | matrixStep | matrixOpFinish | scaleReadComplete | tselFinish | loadPathFinish
  | heldRequestTimeout | portStreamSend | portStreamWrite | portStreamStop | portEndpointClosed | channelWatchdog
  | amsgHandlerStart | requestResendTimeout | pageRequestGroup | copyGranule | departure | reservationWatchdog
  | threadPlacement | thermalDisplacement | powerSample | queueTimerTick | combinerReread | slotWatchdog
  | undoOverflow | hostRingPoll | dependenceDecrement | taskPlacement | dispatchRequest | stealRequest | taskFinish
  | taskDiscard | cutRequest | sealTimer | cutMessage | coreCut | sealMarker | sealedMessage | uncorrectableError
  | rollback | wqcfgWrite | cassignWrite | sealctlWrite | undocfgWrite | tilePayloadComplete =>
    unfold exec
    dsimp only
    dsimp only [execLocalAccessPerformed, execSegldComplete, execElaceComplete, execRemoteCommandArrival,
      execRemoteCommandReply, execConnectRequestArrival, execConnectOutcome, execPortEndpointConnect,
      execChannelMessageArrival, execAllowanceReturn, execCloseNoticeArrival, execCloseAcknowledge,
      execMoveNotice, execMarkArrival, execRehome, execAcknowledgementArrival, execAmsgReply, execFaultNotice,
      execPacketArrival, execArrivalReport, execReservationGrant, execReservationRetry, execPacketResendTimeout,
      execCombinerReply, execTrapReportAfterIssue, execCommitRequest, execGrowRequest, execLaunchSubmit,
      execDurableReport, execHostRead, execAttestationRequest, execMatrixStep, execMatrixOpFinish,
      execScaleReadComplete, execTselFinish, execLoadPathFinish, execHeldRequestTimeout, execPortStreamSend,
      execPortStreamWrite, execPortStreamStop, execPortEndpointClosed, execChannelWatchdog,
      execAmsgHandlerStart, execRequestResendTimeout, execPageRequestGroup, execCopyGranule, execDeparture,
      execReservationWatchdog, execThreadPlacement, execThermalDisplacement, execPowerSample,
      execQueueTimerTick, execCombinerReread, execSlotWatchdog, execUndoOverflow, execHostRingPoll,
      execDependenceDecrement, execTaskPlacement, execDispatchRequest, execStealRequest, execTaskFinish,
      execTaskDiscard, execCutRequest, execSealTimer, execCutMessage, execCoreCut, execSealMarker,
      execSealedMessage, execUncorrectableError, execRollback, execWqcfgWrite, execCassignWrite,
      execSealctlWrite, execUndocfgWrite, execTilePayloadComplete]
    (repeat' split) <;> exact ⟨_, rfl⟩
  | workQueueTake => exact execWorkQueueTake_answers s
  | portCoreCodePlacement => exact execPortCoreCodePlacement_answers s
  | registerWrite => exact execRegisterWrite_answers s
  | _ => cases h

theorem steps_answer {l : List Instr} (hl : l.all stepsAlone = true) (s : State) : ∀ i ∈ l, ∃ t, exec i s = .next t :=
  fun i hi => exec_answers_of_stepsAlone s (List.all_eq_true.1 hl i hi)

/-- The step of a word that fails to decode needs the thread whose word it is. -/
theorem illegalEncodingIssue_answers (s : State) (h : s.cur.isSome = true) :
    ∃ t, exec .illegalEncodingIssue s = .next t := by
  show ∃ t, execIllegalEncodingIssue s = .next t
  simp [execIllegalEncodingIssue, cur_isNone_of h]

/-- Settles O60: the forms of the first two lists are words of a bundle, those of the next two are steps that need no thread. -/
theorem everyFormCompletes : Obligations.EveryFormCompletes := by
  refine ⟨?cWords, ?aWords, ?withOperands, fun s => steps_answer rfl s, illegalEncodingIssue_answers⟩
  case cWords =>
    intros
    rename_i hs i hi
    exact words_answer rfl hs i hi
  case aWords =>
    intros
    rename_i hs i hi
    exact words_answer rfl hs i hi
  case withOperands =>
    intros
    rename_i i hi
    exact steps_answer rfl _ i hi

end Sys2Proof.Machine
end

section
/-! SUPPORT. A step, from what is due to the bundle that issues and the message that arrives (R5, R45, R94, R103). -/

namespace Sys2Proof.Machine

/-! What a step does first: what is due, then the cores, then what is on its way (R5, R94). -/

theorem step_of_due {s s' : State} {e : Ev} (hu : s.up = true) (h : s.nextDue = some (e, s')) :
    step s = exec e.ins s' := by
  simp [step, h, hu]

theorem step_of_turn {s : State} {c : Nat} {r : List Nat} (hu : s.up = true) (h : s.nextDue = none)
    (ht : s.todo = c :: r) : step s = ({ s with todo := r } : State).issueCore c := by
  simp [step, h, hu, ht]

theorem step_of_onward {s : State} (hu : s.up = true) (h : s.nextDue = none) (ht : s.todo = []) : step s = s.onward := by
  simp [step, h, hu, ht]

/-! Arrivals (R19, R336). -/

/-- The places of `arrivable` hold messages that may arrive, given those before them. -/
theorem State.mayArrive_of_mem_arrivable {s : State} {n : Nat} (l : List NetMsg) : ∀ {k : Nat} {ahead : List NetMsg},
    n ∈ s.arrivable k ahead l → ∃ j m, n = k + j ∧ l[j]? = some m ∧ s.mayArrive (ahead ++ l.take j) m = true := by
  induction l with
  | nil => intro k ahead h; cases h
  | cons m r ih =>
    intro k ahead h
    have later (h : n ∈ s.arrivable (k + 1) (ahead ++ [m]) r) :
        ∃ j x, n = k + j ∧ (m :: r)[j]? = some x ∧ s.mayArrive (ahead ++ (m :: r).take j) x = true := by
      obtain ⟨j, x, rfl, hx, ha⟩ := ih h
      exact ⟨j + 1, x, by omega, by simpa using hx, by simpa using ha⟩
    unfold State.arrivable at h
    split at h
    case isTrue hm =>
      rcases List.mem_cons.1 h with rfl | h
      · exact ⟨0, m, rfl, rfl, by simpa using hm⟩
      · exact later h
    case isFalse => exact later h

/-- What a message that may arrive meets: a node of this device in its interval, and nothing of its source ahead. -/
theorem State.arrivable_spec {s : State} {n : Nat} (h : n ∈ s.arrivable 0 [] s.net) :
    ∃ m, s.net[n]? = some m ∧ m.dst < 8192 ∧ serialLe m.rin (s.rinOf m.dst) = true ∧
      ∀ j x, j < n → s.net[j]? = some x → x.precedes m = false := by
  obtain ⟨j, m, rfl, hm, ha⟩ := State.mayArrive_of_mem_arrivable s.net h
  simp only [State.mayArrive, List.nil_append, Bool.and_eq_true, decide_eq_true_eq, Bool.not_eq_true',
    List.any_eq_false, Bool.not_eq_true] at ha
  obtain ⟨⟨⟨hd, hr⟩, -⟩, hp⟩ := ha
  refine ⟨m, by simpa using hm, hd, hr, fun i x hi hx => hp x ?_⟩
  exact List.mem_take_iff_getElem.2 (by
    obtain ⟨hl, rfl⟩ := List.getElem?_eq_some_iff.1 hx
    exact ⟨i, by omega, rfl⟩)

/-- An arrival is the message's instruction, performed where the message has left the paths. -/
theorem State.deliverAt_of_getElem? {s : State} {n : Nat} {m : NetMsg} (h : s.net[n]? = some m) :
    ∃ w : State, (s.logged m = false → w.net = s.net.eraseIdx n) ∧ w.subj = m.ev.subj ∧
      s.deliverAt n = exec m.ev.ins w := by
  unfold State.deliverAt
  rw [h]
  refine ⟨_, fun hl => ?_, rfl, rfl⟩
  have hl' : ({ s with net := s.net.eraseIdx n } : State).logged m = false := hl
  simp [hl']

/-- A draw among `n` values gives one below `n`, and changes the counter of draws alone. -/
theorem State.draw_spec (s : State) {n : Nat} (h : 0 < n) :
    (∃ d, (s.draw n).1 = { s with draws := d }) ∧ (s.draw n).2 < n := by
  unfold State.draw
  split
  · exact ⟨⟨s.draws, rfl⟩, h⟩
  · exact ⟨⟨s.draws + 1, rfl⟩, Nat.mod_lt _ h⟩

/-- Once nothing is due, time goes on or one of the messages that may arrive does. -/
theorem State.onward_cases (s : State) :
    (∃ d, s.onward = .next ({ s with draws := d } : State).tick) ∨
      ∃ n d, n ∈ s.arrivable 0 [] s.net ∧ s.onward = ({ s with draws := d } : State).deliverAt n := by
  cases hr : s.replays (s.arrivable 0 [] s.net) with
  | cons i r =>
    have hi : i ∈ s.replays (s.arrivable 0 [] s.net) := hr ▸ List.mem_cons_self
    exact .inr ⟨i, s.draws, (List.mem_filter.1 hi).1, by simp only [State.onward, hr]⟩
  | nil =>
    obtain ⟨⟨d, hd⟩, hlt⟩ := s.draw_spec (by omega : 0 < (s.arrivable 0 [] s.net).length + 1)
    cases hn : (s.draw ((s.arrivable 0 [] s.net).length + 1)).2 with
    | zero => exact .inl ⟨d, by rw [← hd]; simp only [State.onward, hr, hn]⟩
    | succ n =>
      have hl : n < (s.arrivable 0 [] s.net).length := by omega
      refine .inr ⟨(s.arrivable 0 [] s.net).getD n 0, d, ?_, by rw [← hd]; simp only [State.onward, hr, hn]⟩
      rw [List.getD_eq_getElem?_getD, List.getElem?_eq_getElem hl, Option.getD_some]
      exact List.getElem_mem hl

/-! The bundle a slot fetches, and what the stages see of it (R45, R295). -/

/-- Which bundle a thread fetches depends on its core's code directory alone. -/
theorem State.bundleAt_modCore (s : State) (c j : Nat) (f : Core → Core) (t : Thread)
    (hf : (f (s.coreAt c)).codeDir = (s.coreAt c).codeDir) : (s.modCore c f).bundleAt j t = s.bundleAt j t := by
  have hk : ((s.modCore c f).coreAt j).codeDir = (s.coreAt j).codeDir := by
    rw [State.coreAt_modCore]
    split
    case isTrue h => rw [hf, h]
    case isFalse => rfl
  unfold State.bundleAt Core.codeEntry
  rw [hk]
  rfl

/-- The bundle of a core's code that holds the thread's PC is looked at (R295). -/
theorem State.look_of_codeEntry {s : State} {c sl : Nat} {t : Thread} {e : CodeEntry}
    (he : (s.coreAt c).codeEntry t.task t.fetchSeg = some e) (hk : t.kind = 2 → t.pc.toNat % 65536 < e.len) :
    s.look c sl t = s.lookBundle c sl t (s.bundleOf c e t.pc) := by
  have hin : (t.kind == 2 && decide (t.pc.toNat % 65536 ≥ e.len)) = false := by
    by_cases h : t.kind = 2
    · simp [h, hk h]
    · simp [h]
  simp [State.look, he, hin]

theorem State.bundleAt_of_codeEntry {s : State} {c : Nat} {t : Thread} {e : CodeEntry}
    (he : (s.coreAt c).codeEntry t.task t.fetchSeg = some e) : s.bundleAt c t = s.bundleOf c e t.pc := by
  simp [State.bundleAt, he]

/-- The state in which a bundle's words are probed (R45). -/
def State.probing (s : State) (c sl : Nat) (t : Thread) (b : Word) : State :=
  { s with ctx := ⟨c, sl, .probe, [], t, (s.coreAt c).queues, ⟨t.pc, b, false, t.srep.isSome⟩, Finding.none⟩ }
/-- What the probe of a bundle's C-word finds. -/
def State.findingC (s : State) (c sl : Nat) (t : Thread) (b : Word) (ci : Instr) : Finding :=
  probeWord ci ((s.probing c sl t b).found ((s.probing c sl t b).beside b))
/-- The state in which the bundle's A-word is probed, after the C-word's pops (R28). -/
def State.probingA (s : State) (c sl : Nat) (t : Thread) (b : Word) (ci : Instr) : State :=
  (s.probing c sl t b).afterPops (s.findingC c sl t b ci).pops

section Decoded
variable {s : State} {c sl : Nat} {t : Thread} {b : Word} {ci : Instr}
  (hc : decodeC (b.setWidth 32) ((b >>> 32).setWidth 32) = .ok ci) (hr : t.srep = none)
  (hk : (s.findingC c sl t b ci).kindTrap = none)
include hc hr hk

theorem State.lookBundle_of_decodes {a : Option Instr} (ha : aWordOf b = .ok a) :
    s.lookBundle c sl t b = (s.probing c sl t b).lookWords none b ci a (s.findingC c sl t b ci) := by
  rw [← hr]
  unfold State.findingC State.probing at *
  simp only [State.lookBundle, hc, hk, ha]

/-- A bundle with a literal is its C-word (R25). -/
theorem State.lookBundle_of_lone (hb : b.getLsbD 31 = true) :
    s.lookBundle c sl t b = .words ci none (s.findingC c sl t b ci) Finding.none
      ((s.probingA c sl t b ci).verdict [(false, s.findingC c sl t b ci)]) :=
  State.lookBundle_of_decodes hc hr hk (by simp [aWordOf, loneBit, hb])

/-- A bundle without one is its two words. -/
theorem State.lookBundle_of_pair {ai : Instr} (hb : b.getLsbD 31 = false)
    (hd : decodeA ((b >>> 32).setWidth 32) = .ok ai) :
    s.lookBundle c sl t b =
      .words ci (some ai) (s.findingC c sl t b ci) (probeWord ai (s.probingA c sl t b ci))
        ((s.probingA c sl t b ci).verdict
          [(false, s.findingC c sl t b ci), (true, probeWord ai (s.probingA c sl t b ci))]) :=
  State.lookBundle_of_decodes hc hr hk (by unfold aWordOf loneBit; rw [hb, hd]; rfl)

end Decoded

/-! The issue itself (R103). -/

/-- The C-word acts first, unless what it changes is for later bundles (R28, R46). -/
theorem commitWords_of_first {ci ai : Instr} {pops : List Nat} {s u v : State} (hl : actsLast ci = false)
    (hs : s.afterPops [] = s) (hc : exec ci s = .next u) (ha : exec ai (u.afterPops pops) = .next v) :
    commitWords ci (some ai) pops s = .next v := by
  simp only [commitWords, execBoth, hl, Bool.false_eq_true, if_false, hs, hc, ha]

/-- `qcfg` and `cwr` act after the A-word (R60, R233). -/
theorem commitWords_of_last {ci ai : Instr} {pops : List Nat} {s u v : State} (hl : actsLast ci = true)
    (ha : exec ai (s.afterPops pops) = .next u) (hc : exec ci (u.afterPops []) = .next v) :
    commitWords ci (some ai) pops s = .next v := by
  simp only [commitWords, execBoth, hl, if_true, ha, hc]

/-- The state in which both words of a bundle act: the thread is past it (R46, R103). -/
def State.committing (s : State) (c sl : Nat) (t : Thread) (b : Word) (fa : Finding) : State :=
  ({ s with ctx := ⟨c, sl, .commit, [], t, (s.coreAt c).queues, ⟨t.pc, b, false, t.srep.isSome⟩, fa⟩ } : State).advance
    (stallOf b)

theorem State.countRep_of_srep {t : Thread} (h : t.srep = none) (s : State) (c sl : Nat) : s.countRep c sl t = s := by
  simp only [State.countRep, h]

/-- Both words act, and the thread ends if `done` has issued (R103, R327). -/
theorem State.issueLook_of_go {s v : State} {c sl : Nat} {t : Thread} {b : Word} {ci : Instr} {ai : Option Instr}
    {fc fa : Finding} (hb : s.bundleAt c t = b) (hr : t.srep = none)
    (hv : commitWords ci ai fc.pops (s.committing c sl t b fa) = .next v) :
    s.issueLook c sl t (.words ci ai fc fa .go) = .next (({ v with ctx := Ctx.idle } : State).finishDone c sl) := by
  subst hb
  unfold State.committing at hv
  simp only [State.issueLook, State.issueWords, State.nextBundle, hv, State.countRep_of_srep hr]

/-- A trap of the stages is taken, and neither word acts (R5, R45). -/
theorem State.issueLook_of_trap {s : State} {c sl : Nat} {t : Thread} {b : Word} {ci : Instr} {ai : Option Instr}
    {fc fa : Finding} {w : Bool} {i : TrapInfo} (hb : s.bundleAt c t = b) :
    s.issueLook c sl t (.words ci ai fc fa (.trap w i false)) =
      .next ((({ s with ctx := Ctx.idle } : State).modThread c sl fun t =>
        { t with parked := false, earliest := s.cycle + 1 }).takeTrap ⟨c, sl, t.tid⟩ false
          ⟨t.pc, b, w, t.srep.isSome⟩ i) := by
  have hn (f : Thread → Thread) : (({ s with ctx := Ctx.idle } : State).modThread c sl f).bundleAt c t = b :=
    (State.bundleAt_modCore { s with ctx := Ctx.idle } c c _ t rfl).trans hb
  rw [← hn fun t => { t with parked := false, earliest := s.cycle + 1 }]
  rfl

/-! The one slot of a core that is ready (R94–R98). -/

theorem Core.chooseRound_singleton (k : Core) {sl : Nat} (h : sl < 16) : k.chooseRound [sl] = some sl := by
  unfold Core.chooseRound
  have hmem : sl ∈ (List.range 16).map fun i => (k.last + 1 + i) % 16 :=
    List.mem_map.2 ⟨(sl + 15 * (k.last + 1)) % 16, List.mem_range.2 (Nat.mod_lt _ (by decide)), by omega⟩
  cases hf : ((List.range 16).map fun i => (k.last + 1 + i) % 16).find? [sl].contains with
  | none => simpa using List.find?_eq_none.1 hf sl hmem
  | some x => simpa using List.find?_some hf

theorem Core.chooseGreedy_singleton (k : Core) (sl : Nat) : k.chooseGreedy [sl] = some sl := by
  have hold : k.oldest [sl] = some sl := rfl
  unfold Core.chooseGreedy
  dsimp only
  split
  case h_1 g hg =>
    obtain ⟨-, hg⟩ := Option.filter_eq_some_iff.1 hg
    simp only [List.contains_cons, List.contains_nil, Bool.or_false, Bool.and_eq_true, beq_iff_eq] at hg
    obtain ⟨⟨rfl, -⟩, -⟩ := hg
    rfl
  case h_2 =>
    split
    case isTrue =>
      cases hy : k.yielded.getLsbD sl <;> simp [hy, hold, Core.oldest]
    case isFalse hok =>
      by_cases hgr : k.greedy = some sl
      · simp [Core.waiting, hgr, Core.guardOk] at hok
      · simp [Core.waiting, hgr, Core.insertW]

/-- Of one ready slot, either policy chooses that one (R97, R98). -/
theorem Core.choose_singleton (k : Core) {sl : Nat} (h : sl < 16) : k.choose [sl] = some sl := by
  unfold Core.choose
  split
  · exact k.chooseRound_singleton h
  · exact k.chooseGreedy_singleton sl

/-- The thread in slot `sl` of core `c` is the only one there, and its next bundle waits for nothing (R94). -/
structure State.LoneReady (s : State) (c sl : Nat) (t : Thread) : Prop where
  slot : sl < 16
  listed : s.setCore c (s.coreAt c) = s
  replay : s.replaying = false
  threads : (s.coreAt c).threads = [(sl, t)]
  paused : (s.coreAt c).paused = false
  slotOn : (s.coreAt c).slotOff sl = false
  saving : s.saving = none
  run : t.run = .running
  earliest : t.earliest ≤ s.cycle
  faulted : t.faulted = []
  depart : t.depart = none
  hold : t.hold = none
  srep : t.srep = none
  parked : t.parked = false
  asleep : t.asleep = false

section LoneReady
variable {s : State} {c sl : Nat} {t : Thread} (h : s.LoneReady c sl t)
include h

theorem State.LoneReady.threadAt : s.threadAt c sl = some t := by
  simp [State.threadAt, h.threads, tget]

theorem State.LoneReady.modThread_of_fixed {f : Thread → Thread} (hf : f t = t) : s.modThread c sl f = s := by
  have hk : tmod (s.coreAt c).threads sl f = (s.coreAt c).threads := by simp [h.threads, tmod, hf]
  calc s.modThread c sl f = s.setCore c { s.coreAt c with threads := tmod (s.coreAt c).threads sl f } := rfl
    _ = s.setCore c (s.coreAt c) := by rw [hk]
    _ = s := h.listed

theorem State.LoneReady.tested : s.tested c sl t = true := by
  simp [State.tested, Core.heldUp, Core.holdOver, h.run, h.earliest, h.saving, h.faulted, h.depart, h.hold]

theorem State.LoneReady.passOver : s.passOver c sl = s :=
  h.modThread_of_fixed (by simp [Thread.passed, h.srep])

/-- A slot whose bundle may issue or traps is ready as it stands. -/
theorem State.LoneReady.testSlot {ci : Instr} {ai : Option Instr} {fc fa : Finding} {v : Verdict}
    (hl : s.look c sl t = .words ci ai fc fa v) (hv : v = .go ∨ ∃ w i own, v = .trap w i own) :
    s.testSlot c sl = (s, some (.words ci ai fc fa v)) := by
  unfold State.testSlot
  rcases hv with rfl | ⟨w, i, own, rfl⟩ <;>
    simp [h.threadAt, h.tested, h.hold, h.passOver, hl, h.asleep, h.parked]

/-- The core's cycle is the issue of that slot's bundle, or its trap (R96). -/
theorem State.LoneReady.issueCore {ci : Instr} {ai : Option Instr} {fc fa : Finding} {v : Verdict}
    (hl : s.look c sl t = .words ci ai fc fa v) (hv : v = .go ∨ ∃ w i own, v = .trap w i own) :
    s.issueCore c =
      (s.setCore c ((s.coreAt c).chosen [sl] (some sl))).issueLook c sl t (.words ci ai fc fa v) := by
  have hslots : s.testSlots c [sl] = (s, [(sl, .words ci ai fc fa v)]) := by
    simp [State.testSlots, h.testSlot hl hv]
  have hthread : (s.setCore c ((s.coreAt c).chosen [sl] (some sl))).threadAt c sl = some t := by
    simp [State.threadAt, Core.chosen, h.threads, tget]
  simp [State.issueCore, h.paused, h.replay, h.threads, hslots, Core.enabled, State.displaced, h.slotOn,
    Core.choose_singleton _ h.slot, State.displace, hthread]

end LoneReady

/-- Being ready alone does not depend on the cores still to issue. -/
theorem State.LoneReady.todo {s : State} {c sl : Nat} {t : Thread} (h : s.LoneReady c sl t) (r : List Nat) :
    ({ s with todo := r } : State).LoneReady c sl t :=
  { h with listed := congrArg (fun s : State => { s with todo := r }) h.listed }

/-- Settles O56: what is due and what arrives are `exec` of its instruction; a lone ready slot is chosen, and its bundle issues or
traps as the stages decide. -/
theorem stepRunsDecoded : Obligations.StepRunsDecoded := by
  intro s hu
  refine ⟨fun e s' h => step_of_due hu h, ?issue, ?onward⟩
  case issue =>
    intro c r sl t e ci hdue htodo hsl k b s1 org p fc q hlisted hreplay hthreads hpaused hon hsaving hrun hearliest
      hfaulted hdepart hhold hsrep hparked hasleep hentry hlen hdec s2 s3 ends traps
    have hs : s1.LoneReady c sl t := State.LoneReady.todo
      ⟨hsl, hlisted, hreplay, hthreads, hpaused, hon, hsaving, hrun, hearliest, hfaulted, hdepart, hhold, hsrep, hparked,
        hasleep⟩ r
    have hstep : step s = s1.issueCore c := step_of_turn hu hdue htodo
    have hlook : s1.look c sl t = s1.lookBundle c sl t b := State.look_of_codeEntry hentry hlen
    have hb : s2.bundleAt c t = b :=
      (s1.bundleAt_modCore c c (·.chosen [sl] (some sl)) t rfl).trans (State.bundleAt_of_codeEntry hentry)
    have hs3 (fa : Finding) : s2.committing c sl t b fa = s3 fa := by
      simp only [s2, s3, State.committing, State.coreAt_setCore_same]
      rfl
    have hgo {ai fa v} (hl : s1.lookBundle c sl t b = .words ci ai fc fa .go)
        (hv : commitWords ci ai fc.pops (s3 fa) = .next v) : step s = ends v := by
      rw [hstep, hs.issueCore (hlook.trans hl) (.inl rfl)]
      exact State.issueLook_of_go hb hsrep ((congrArg _ (hs3 fa)).trans hv)
    have htrap {ai fa w i} (hl : s1.lookBundle c sl t b = .words ci ai fc fa (.trap w i false)) : step s = traps w i := by
      rw [hstep, hs.issueCore (hlook.trans hl) (.inr ⟨w, i, false, rfl⟩)]
      exact State.issueLook_of_trap hb
    refine ⟨fun hlone hk hv v hx => ?_, fun hlone hk i hv => ?_, fun ai w i hpair hd hk hv => ?_,
      fun ai hpair hd hk hv => ⟨fun hl u v hc ha => ?_, fun hl u v ha hc => ?_⟩⟩
    · exact hgo ((State.lookBundle_of_lone hdec hsrep hk hlone).trans (congrArg _ hv)) hx
    · exact htrap ((State.lookBundle_of_lone hdec hsrep hk hlone).trans (congrArg _ hv))
    · exact htrap ((State.lookBundle_of_pair hdec hsrep hk hpair hd).trans (congrArg _ hv))
    · refine hgo ((State.lookBundle_of_pair hdec hsrep hk hpair hd).trans (congrArg _ hv)) ?_
      exact commitWords_of_first hl rfl hc ha
    · refine hgo ((State.lookBundle_of_pair hdec hsrep hk hpair hd).trans (congrArg _ hv)) ?_
      exact commitWords_of_last hl ha hc
  case onward =>
    intro hdue htodo
    rw [step_of_onward hu hdue htodo]
    rcases s.onward_cases with htick | ⟨n, d, hn, ho⟩
    · exact .inl htick
    · obtain ⟨m, hm, hdst, hrin, hahead⟩ := State.arrivable_spec hn
      obtain ⟨w, hnet, hsubj, hexec⟩ := State.deliverAt_of_getElem? (s := { s with draws := d }) hm
      exact .inr ⟨m, n, w, hm, hdst, hrin, hahead, hnet, hsubj, ho.trans hexec⟩

end Sys2Proof.Machine
end

section
/-! SUPPORT. Addresses and their checks (R14, R15, R126, R127): the parts of an address, the condition under which each
step of the checks fails, and the one trap that the first failing step names. -/

namespace Sys2Proof.Machine

/-! The parts of an address (R14, R126). -/

theorem Seg.addr_toNat (g : Seg) (off : Int) :
    (g.addr off).toNat = g.base.toNat / 2 ^ 57 * 2 ^ 57 + (((g.base.toNat % 2 ^ 57 : Nat) + off) % (2 ^ 57 : Int)).toNat := by
  have hb := g.base.isLt
  simp only [Seg.addr, wd, wbits, bits, BitVec.toNat_ofNat]
  omega

/-- An offset leaves TAG and SPACE of its base as they are (R126). -/
theorem Seg.addr_high (g : Seg) (off : Int) : (g.addr off).toNat / 2 ^ 57 = g.base.toNat / 2 ^ 57 := by
  rw [Seg.addr_toNat]
  omega

/-- Base plus offset modulo 2^57 (R126). -/
theorem Seg.addr_low (g : Seg) (off : Int) :
    (((g.addr off).toNat % 2 ^ 57 : Nat) : Int) = ((g.base.toNat % 2 ^ 57 : Nat) + off) % (2 ^ 57 : Int) := by
  rw [Seg.addr_toNat]
  omega

/-- The address of the last byte of an access of `n` bytes at `a` (R15). -/
def lastByte (a : Word) (n : Nat) : Word :=
  wd (a.toNat / 2 ^ 57 * 2 ^ 57 + (a.toNat % 2 ^ 57 + (n - 1)) % 2 ^ 57)

theorem Seg.addr_lastByte (a : Word) {n : Nat} (h : 1 < n) : Seg.addr ⟨a, 0⟩ ((n : Int) - 1) = lastByte a n := by
  apply BitVec.eq_of_toNat_eq
  have ha := a.isLt
  simp only [Seg.addr_toNat, lastByte, wd, BitVec.toNat_ofNat]
  omega

/-- TAG is what stands above SPACE (R14). -/
theorem tagOf_toNat (a : Word) : (tagOf a).toNat = a.toNat / 2 ^ 60 := by
  have ha := a.isLt
  simp only [tagOf, BitVec.toNat_setWidth, BitVec.toNat_ushiftRight, Nat.shiftRight_eq_div_pow]
  omega

/-! The check of R15 at an interface: an address that names no home, and a tagged one where no tag may stand. -/

/-- The device number `d` has no entry at the interface of core `c`, and is not this device. -/
def State.NoDevice (s : State) (c d : Nat) : Prop :=
  d ≠ 0x3FFF ∧ ∀ p, tget (s.coreAt c).devPlace d = some p → p.valid = false
/-- The core number `l` has no entry there. -/
def State.NoCore (s : State) (c l : Nat) : Prop := ∀ p, tget (s.coreAt c).place l = some p → p.valid = false
/-- The address names no home there (R15). -/
def State.NoHome (s : State) (c : Nat) (x : Word) : Prop :=
  5 ≤ x.toNat / 2 ^ 57 % 8 ∨ (x.toNat / 2 ^ 57 % 8 = 0 ∧ x.toNat / 2 ^ 43 % 2 ^ 14 ≠ 0) ∨
  (x.toNat / 2 ^ 57 % 8 = 1 ∧ (x.toNat / 2 ^ 20 % 2 ^ 11 ≠ 0 ∨ 786432 ≤ x.toNat % 2 ^ 20 ∨
    s.NoDevice c (x.toNat / 2 ^ 43 % 2 ^ 14) ∨ s.NoCore c (x.toNat / 2 ^ 31 % 2 ^ 12))) ∨
  (x.toNat / 2 ^ 57 % 8 = 2 ∧ s.NoDevice c (x.toNat / 2 ^ 43 % 2 ^ 14)) ∨
  (x.toNat / 2 ^ 57 % 8 = 3 ∧ x.toNat / 2 ^ 48 % 2 ^ 9 ≠ 0) ∨
  (x.toNat / 2 ^ 57 % 8 = 4 ∧ x.toNat / 2 ^ 32 % 2 ^ 25 ≠ 0)
/-- The address is one of SPACE 3 or 4 with a tag, which is a TagMismatch at step 7 (DEDUCED, log 15). -/
def Tagged (a : Word) : Prop := (a.toNat / 2 ^ 57 % 8 = 3 ∨ a.toNat / 2 ^ 57 % 8 = 4) ∧ a.toNat / 2 ^ 60 ≠ 0
/-- The two addresses of one SPACE do not keep to one unit's space (log 66). -/
def Apart (a z : Word) : Prop :=
  (a.toNat / 2 ^ 57 % 8 = 1 ∧ z.toNat / 2 ^ 31 % 2 ^ 26 ≠ a.toNat / 2 ^ 31 % 2 ^ 26) ∨
  (a.toNat / 2 ^ 57 % 8 = 2 ∧ z.toNat / 2 ^ 43 % 2 ^ 14 ≠ a.toNat / 2 ^ 43 % 2 ^ 14)

theorem State.devOk_eq_false (s : State) (c d : Nat) : s.devOk c d = false ↔ s.NoDevice c d := by
  unfold State.devOk State.NoDevice
  cases tget (s.coreAt c).devPlace d <;> simp
theorem State.coreOk_eq_false (s : State) (c l : Nat) : s.coreOk c l = false ↔ s.NoCore c l := by
  unfold State.coreOk State.NoCore
  cases tget (s.coreAt c).place l <;> simp

theorem tagOf_ne_zero (a : Word) : (tagOf a != 0) = true ↔ a.toNat / 2 ^ 60 ≠ 0 := by
  rw [bne_iff_ne, ne_eq, ← BitVec.toNat_inj, tagOf_toNat]
  rfl

/-- The shape of R15's answer: no home, then a tag where none may stand, then nothing against the address. -/
theorem r15_branch {b t : Bool} {P T : Prop} {o : Option (Nat × Nat)} (hb : b = true ↔ P) (ht : t = true ↔ T)
    (ho : o = if b = true then some (5, 2) else if t = true then some (7, 1) else none) :
    (P → o = some (5, 2)) ∧ (¬P → T → o = some (7, 1)) ∧ (¬P → ¬T → o = none) := by
  rw [ho]
  exact ⟨fun hp => if_pos (hb.2 hp), fun hp h => (if_neg (mt hb.1 hp)).trans (if_pos (ht.2 h)),
    fun hp h => (if_neg (mt hb.1 hp)).trans (if_neg (mt ht.1 h))⟩

/-- R15 answers one of three. -/
theorem State.r15_cases (s : State) (c : Nat) (a : Word) :
    (s.NoHome c a → s.r15 c a = some (5, 2)) ∧ (¬s.NoHome c a → Tagged a → s.r15 c a = some (7, 1)) ∧
    (¬s.NoHome c a → ¬Tagged a → s.r15 c a = none) := by
  obtain ⟨n, hn⟩ : ∃ n, spaceOf a = n := ⟨_, rfl⟩
  have hs : a.toNat / 2 ^ 57 % 8 = n := hn
  have htag : (tagOf a != 0) = true ↔ a.toNat / 2 ^ 60 ≠ 0 := tagOf_ne_zero a
  unfold State.r15 State.NoHome Tagged
  simp only [hn, hs, ← State.devOk_eq_false, ← State.coreOk_eq_false]
  match n with
  | 0 => exact r15_branch (b := wbits a 43 14 != 0) (t := false) (by simp [wbits, bits]) (by simp) rfl
  | 1 =>
    exact r15_branch (t := false)
      (b := wbits a 20 11 != 0 || offOf a ≥ 786432 || !s.devOk c (wbits a 43 14) || !s.coreOk c (wbits a 31 12))
      (by simp [wbits, bits, offOf, or_assoc]) (by simp) rfl
  | 2 => exact r15_branch (b := !s.devOk c (wbits a 43 14)) (t := false) (by simp [wbits, bits]) (by simp) rfl
  | 3 =>
    exact r15_branch (b := wbits a 48 9 != 0) (t := tagOf a != 0) (by simp [wbits, bits]) (by rw [htag]; simp)
      (by cases tagOf a != 0 <;> rfl)
  | 4 =>
    exact r15_branch (b := wbits a 32 25 != 0) (t := tagOf a != 0) (by simp [wbits, bits]) (by rw [htag]; simp)
      (by cases tagOf a != 0 <;> rfl)
  | n + 5 => exact r15_branch (b := true) (t := false) (by simp) (by simp) rfl

theorem oneUnit_eq_false (a z : Word) : oneUnit a z = false ↔ Apart a z := by
  obtain ⟨n, hn⟩ : ∃ n, spaceOf a = n := ⟨_, rfl⟩
  have hs : a.toNat / 2 ^ 57 % 8 = n := hn
  unfold oneUnit Apart
  simp only [hn, hs]
  match n with
  | 1 | 2 => simp [wbits, bits]
  | 0 | n + 3 => simp

/-- An offset keeps an address tagged, or untagged, as its base is. -/
theorem tagged_addr (g : Seg) (off : Int) : Tagged (g.addr off) ↔ Tagged g.base := by
  have h := g.addr_high off
  have h60 : (g.addr off).toNat / 2 ^ 60 = g.base.toNat / 2 ^ 60 := by omega
  unfold Tagged
  rw [h, h60]

theorem tagged_lastByte (a : Word) {n : Nat} (h : 1 < n) : Tagged (lastByte a n) ↔ Tagged a := by
  rw [← Seg.addr_lastByte a h, tagged_addr]

/-- R15 is asked of the first and then of the last byte of an access, which must lie in one unit's space (log 66). -/
theorem State.r15Span_cases (s : State) (c : Nat) (a : Word) (n : Nat) :
    (s.NoHome c a → s.r15Span c a n = some (5, 2)) ∧
    (¬s.NoHome c a → Tagged a → s.r15Span c a n = some (7, 1)) ∧
    (¬s.NoHome c a → ¬Tagged a → 1 < n → Apart a (lastByte a n) ∨ s.NoHome c (lastByte a n) →
      s.r15Span c a n = some (5, 2)) ∧
    (¬s.NoHome c a → ¬Tagged a → n ≤ 1 ∨ (¬Apart a (lastByte a n) ∧ ¬s.NoHome c (lastByte a n)) →
      s.r15Span c a n = none) := by
  obtain ⟨hhome, htag, hnone⟩ := s.r15_cases c a
  obtain ⟨hlastHome, -, hlastNone⟩ := s.r15_cases c (lastByte a n)
  have hwide (hn : 1 < n) (hr : s.r15 c a = none) :
      s.r15Span c a n = if oneUnit a (lastByte a n) = true then s.r15 c (lastByte a n) else some (5, 2) := by
    simp only [State.r15Span, hr, Seg.addr_lastByte a hn, Nat.not_le.2 hn, if_false]
    rfl
  refine ⟨fun h => ?_, fun h ht => ?_, fun h ht hn hbad => ?_, fun h ht hok => ?_⟩
  · simp [State.r15Span, hhome h]
  · simp [State.r15Span, htag h ht]
  · rw [hwide hn (hnone h ht)]
    split
    case isTrue hu => exact hlastHome (hbad.resolve_left (by simp [← oneUnit_eq_false, hu]))
    case isFalse => rfl
  · by_cases hn : 1 < n
    · obtain ⟨hapart, hlast⟩ := hok.resolve_left (Nat.not_le.2 hn)
      have hu : oneUnit a (lastByte a n) = true := by rwa [← oneUnit_eq_false, Bool.not_eq_false] at hapart
      rw [hwide hn (hnone h ht), if_pos hu]
      exact hlastNone hlast (by rwa [tagged_lastByte a hn])
    · simp [State.r15Span, hnone h ht, Nat.not_lt.1 hn]

/-! The steps of R127. -/

/-- The segment grants the right that an access needs (step 4). -/
abbrev Seg.Grants (g : Seg) (r w : Bool) : Prop :=
  (r = true → g.attr.getLsbD 43 = true) ∧ (w = true → g.attr.getLsbD 44 = true)
/-- The access lies within LIMIT (step 5). -/
abbrev Seg.Holds (g : Seg) (off : Int) (size : Nat) : Prop := 0 ≤ off ∧ off + size ≤ (g.attr.toNat % 2 ^ 43 : Nat)

/-- Step 7: R15 names its trap, or lets the access pass. -/
def State.spanCheck (s : State) (a : Word) (size : Nat) : Except TrapInfo Word :=
  match s.r15Span s.ctx.core a size with
  | some t => .error (trapAt t.1 t.2 a (if t.1 = 7 then wd ((tagOf a).toNat * 16) else 0))
  | none => .ok a

theorem State.spanCheck_of_some {s : State} {a : Word} {n : Nat} {t : Nat × Nat} (h : s.r15Span s.ctx.core a n = some t) :
    s.spanCheck a n = .error (trapAt t.1 t.2 a (if t.1 = 7 then wd ((tagOf a).toNat * 16) else 0)) := by
  simp only [State.spanCheck, h]
theorem State.spanCheck_of_none {s : State} {a : Word} {n : Nat} (h : s.r15Span s.ctx.core a n = none) :
    s.spanCheck a n = .ok a := by
  simp only [State.spanCheck, h]

/-- What step 7 names, by what is against the address (R15). -/
theorem State.spanCheck_cases (s : State) (a : Word) (n : Nat) :
    (s.NoHome s.ctx.core a → s.spanCheck a n = .error ⟨5, 2, a, 0⟩) ∧
    (¬s.NoHome s.ctx.core a → Tagged a → s.spanCheck a n = .error ⟨7, 1, a, wd (16 * (a.toNat / 2 ^ 60))⟩) ∧
    (¬s.NoHome s.ctx.core a → ¬Tagged a → 1 < n → Apart a (lastByte a n) ∨ s.NoHome s.ctx.core (lastByte a n) →
      s.spanCheck a n = .error ⟨5, 2, a, 0⟩) ∧
    (¬s.NoHome s.ctx.core a → ¬Tagged a → n ≤ 1 ∨ (¬Apart a (lastByte a n) ∧ ¬s.NoHome s.ctx.core (lastByte a n)) →
      s.spanCheck a n = .ok a) := by
  obtain ⟨hhome, htag, hlast, hnone⟩ := s.r15Span_cases s.ctx.core a n
  refine ⟨fun h => ?_, fun h ht => ?_, fun h ht hn hbad => ?_, fun h ht hok => ?_⟩
  · exact State.spanCheck_of_some (hhome h)
  · rw [State.spanCheck_of_some (htag h ht), tagOf_toNat, Nat.mul_comm]
    rfl
  · exact State.spanCheck_of_some (hlast h ht hn hbad)
  · exact State.spanCheck_of_none (hnone h ht hok)

/-- Only the access's own address can pass. -/
theorem State.eq_of_spanCheck_eq_ok {s : State} {a x : Word} {n : Nat} (h : s.spanCheck a n = .ok x) : x = a := by
  cases hr : s.r15Span s.ctx.core a n with
  | none => rw [State.spanCheck_of_none hr] at h; exact (Except.ok.inj h).symm
  | some t => rw [State.spanCheck_of_some hr] at h; cases h

/-- The first failing step names the trap. -/
theorem State.segCheck_eq (s : State) (g : Seg) (off : Int) (size : Nat) (r w : Bool) (align : Nat) :
    s.segCheck g off size r w align =
      if ¬g.attr.getLsbD 47 = true then .error ⟨6, 1, g.base, 0⟩
      else if ¬g.Grants r w then .error ⟨6, 3, g.base, 0⟩
      else if ¬g.Holds off size then .error ⟨5, 1, g.addr off, 0⟩
      else if (g.addr off).toNat % align ≠ 0 then .error ⟨8, 0, g.addr off, 0⟩
      else s.spanCheck (g.addr off) size := by
  have hvalid : (!g.valid) = true ↔ ¬g.attr.getLsbD 47 = true := by simp [Seg.valid]
  have hgrants : ((r && !g.r) || (w && !g.w)) = true ↔ ¬g.Grants r w := by
    have hbits : ∀ r w x y : Bool, ((r && !x) || (w && !y)) = true ↔ ¬((r = true → x = true) ∧ (w = true → y = true)) := by
      decide
    exact hbits r w _ _
  have hholds : (decide (off < 0) || decide (off + size > g.limit)) = true ↔ ¬g.Holds off size := by
    rw [Bool.or_eq_true, decide_eq_true_iff, decide_eq_true_iff, Seg.limit, wbits, bits]
    omega
  unfold State.segCheck
  simp only [hvalid, hgrants, hholds, bne_iff_ne]
  cases hr : s.r15Span s.ctx.core (g.addr off) size with
  | none => rw [State.spanCheck_of_none hr]; rfl
  | some t => rw [State.spanCheck_of_some hr]; rfl

/-- What passes has passed every step. -/
theorem State.passed_of_segCheck_eq_ok {s : State} {g : Seg} {off : Int} {size align : Nat} {r w : Bool} {x : Word}
    (h : s.segCheck g off size r w align = .ok x) :
    x = g.addr off ∧ g.attr.getLsbD 47 = true ∧ g.Grants r w ∧ g.Holds off size ∧ (g.addr off).toNat % align = 0 := by
  rw [State.segCheck_eq] at h
  by_cases hv : g.attr.getLsbD 47 = true
  case neg => rw [if_pos hv] at h; cases h
  rw [if_neg (not_not_intro hv)] at h
  by_cases hg : g.Grants r w
  case neg => rw [if_pos hg] at h; cases h
  rw [if_neg (not_not_intro hg)] at h
  by_cases hh : g.Holds off size
  case neg => rw [if_pos hh] at h; cases h
  rw [if_neg (not_not_intro hh)] at h
  by_cases ha : (g.addr off).toNat % align = 0
  case neg => rw [if_pos ha] at h; cases h
  rw [if_neg (not_not_intro ha)] at h
  exact ⟨State.eq_of_spanCheck_eq_ok h, hv, hg, hh, ha⟩

/-- Settles O10: the address by its two parts, and the checks step by step (logs 15 and 66 for what step 7 asks). -/
theorem segmentAddressAndChecks : Obligations.SegmentAddressAndChecks := by
  refine ⟨fun s g off sg ix idx l k => ⟨g.addr_high off, g.addr_low off, rfl, ?disp⟩, fun s g off size align r w => ?check⟩
  case disp => cases l <;> rfl
  case check =>
    intro a v rights inside chk
    have step3 := s.segCheck_eq g off size r w align
    have step4 (hv : v = true) := step3.trans (if_neg (not_not_intro hv))
    have step5 (hv : v = true) (hr : rights) := (step4 hv).trans (if_neg (not_not_intro hr))
    have step6 (hv : v = true) (hr : rights) (hi : inside) := (step5 hv hr).trans (if_neg (not_not_intro hi))
    have step7 (hv : v = true) (hr : rights) (hi : inside) (ha : a.toNat % align = 0) : chk = s.spanCheck a size :=
      (step6 hv hr hi).trans (if_neg (not_not_intro ha))
    refine ⟨fun hv => step3.trans (if_pos (Bool.eq_false_iff.1 hv)), fun hv hr => (step4 hv).trans (if_pos hr),
      fun hv hr hi => (step5 hv hr).trans (if_pos hi), fun hv hr hi ha => (step6 hv hr hi).trans (if_pos ha),
      fun hv hr hi ha hnone => (step7 hv hr hi ha).trans (State.spanCheck_of_none hnone),
      fun x hx => State.passed_of_segCheck_eq_ok hx, fun hv hr hi ha => ?_⟩
    rw [step7 hv hr hi ha]
    exact s.spanCheck_cases a size

end Sys2Proof.Machine
end

section
/-! SUPPORT. The management region (R16, R304, R332, R342, R352–R354, R385, R386): what a write of each register does, what
starts at a queue, what a change of CASSIGN waits for, and that a function's foreign write does nothing. -/

namespace Sys2Proof.Machine

theorem wbits_zero (w : Word) (n : Nat) : wbits w 0 n = w.toNat % 2 ^ n := by
  rw [wbits, bits, Nat.pow_zero, Nat.div_one]

/-! What is to come (R3). -/

theorem mem_agendaInsert (l : List (Nat × Ev)) (c : Nat) (e : Ev) : (c, e) ∈ agendaInsert l c e := by
  induction l with
  | nil => exact List.mem_singleton.2 rfl
  | cons x r ih =>
    rw [agendaInsert]
    split
    · exact List.mem_cons_of_mem _ ih
    · exact List.mem_cons_self

/-! Queues (R304, R305). -/

/-- Starting a queue only adds a step to come. -/
theorem State.startQueue_adds (s : State) (q : Nat) : ∃ a, s.startQueue q = { s with agenda := a } := by
  unfold State.startQueue
  dsimp only
  (repeat' split) <;> exact ⟨_, rfl⟩

@[simp] theorem State.wqAt_startQueue (s : State) (q m : Nat) : (s.startQueue q).wqAt m = s.wqAt m := by
  obtain ⟨a, h⟩ := s.startQueue_adds q
  rw [h]
  rfl

theorem State.sameMemory_startQueue (s : State) (t : Table WorkQ) (q : Nat) :
    s.SameMemory (({ s with wqs := t } : State).startQueue q) := by
  obtain ⟨a, h⟩ := ({ s with wqs := t } : State).startQueue_adds q
  rw [h]
  exact ⟨rfl, rfl, rfl, rfl, rfl, rfl, rfl, fun _ => rfl⟩
theorem State.sameThreads_startQueue (s : State) (t : Table WorkQ) (q : Nat) :
    s.SameThreads (({ s with wqs := t } : State).startQueue q) := by
  obtain ⟨a, h⟩ := ({ s with wqs := t } : State).startQueue_adds q
  rw [h]
  exact fun _ _ => rfl

theorem State.startQueue_of_disabled {s : State} {q : Nat} (h : (s.wqAt q).en = false) : s.startQueue q = s := by
  simp [State.startQueue, h]

/-- An enabled queue has its step to come: a poll in host memory, a take in device memory (R305). -/
theorem State.startQueue_of_enabled {s : State} {q : Nat} (h : (s.wqAt q).en = true) :
    ∃ e ∈ (s.startQueue q).agenda, e.2.subj.n = q ∧
      e.2.ins = (if spaceOf (s.wqAt q).base = 3 then .hostRingPoll else .workQueueTake) := by
  have hstep (i : Instr) : ∃ e ∈ (if s.queueComing q i then s else s.after 1 i { n := q }).agenda,
      e.2.subj.n = q ∧ e.2.ins = i := by
    split
    case isTrue hc =>
      obtain ⟨e, he, hq⟩ := List.any_eq_true.1 hc
      rw [Bool.and_eq_true, beq_iff_eq, beq_iff_eq] at hq
      exact ⟨e, he, hq.2, hq.1⟩
    case isFalse => exact ⟨_, mem_agendaInsert _ _ _, rfl, rfl⟩
  simp only [State.startQueue, h, Bool.not_true, Bool.false_eq_true, if_false]
  split
  · exact hstep .hostRingPoll
  · exact hstep .workQueueTake

@[simp] theorem State.wqAt_tset_same (s : State) (q : Nat) (w : WorkQ) :
    ({ s with wqs := tset s.wqs q w } : State).wqAt q = w := by simp [State.wqAt]
theorem State.wqAt_tset_ne (s : State) {q m : Nat} (w : WorkQ) (h : m ≠ q) :
    ({ s with wqs := tset s.wqs q w } : State).wqAt m = s.wqAt m := by simp [State.wqAt, h]

/-- The physical function may write every queue (R386). -/
theorem State.mayQueue_of_physical {s : State} (h : s.subj.slot = 0) (l : List Nat) : s.mayQueue l = true := by
  simp [State.mayQueue, State.physical, h]
/-- A virtual function may write a queue whose domains are its own. -/
theorem State.mayQueue_of_virtual {s : State} (h : s.subj.slot ≠ 0) (l : List Nat) :
    s.mayQueue l = true ↔ ∀ p ∈ l, (s.domAt p).v = true ∧ (s.domAt p).vf + 1 = s.subj.slot := by
  simp [State.mayQueue, State.physical, h]

/-! An empty core, and what waits for it (R353). -/

theorem Core.vacant_iff (k : Core) : k.vacant = true ↔
    k.threads = [] ∧ k.aq = [] ∧ k.ring = [] ∧ ∀ e, e < 16 → (k.ey e).life = .unbound := by
  have hey : k.eyelets.toList.all (·.life == .unbound) = true ↔ ∀ e, e < 16 → (k.ey e).life = .unbound := by
    simp only [List.all_eq_true, beq_iff_eq, List.forall_mem_iff_forall_getElem, Vector.length_toList, Vector.getElem_toList]
    exact forall₂_congr fun e he => by simp [Core.ey, vget, he]
  simp only [Core.vacant, Bool.and_eq_true, List.isEmpty_iff, hey, and_assoc]

/-- A core under a new assignment: it starts without tiles, tags, code and held descriptors (R353). -/
def Core.assigned (k : Core) (w : Word) : Core :=
  { k with
    v := w.getLsbD 63
    amen := w.getLsbD 62
    pdid := w.toNat % 256
    cassignNext := none
    tiles := []
    tagTable := []
    codeDir := []
    caps := Core.reset.caps
    segCache := [] }

theorem State.assign_setCore (s : State) (c : Nat) (k : Core) (w : Word) :
    (s.setCore c { k with cassignNext := some w }).assign c =
      if k.vacant = true then (s.setCore c { k with cassignNext := some w }).setCore c (k.assigned w)
      else s.setCore c { k with cassignNext := some w } := by
  unfold State.assign Core.assigned
  rw [State.coreAt_setCore_same]
  dsimp only
  rw [wbits_zero]
  by_cases hk : k.vacant = true
  · rw [if_pos hk]
    exact if_neg (by rw [Bool.not_eq_true', Bool.not_eq_false]; exact hk)
  · rw [if_neg hk]
    exact if_pos (by rw [Bool.not_eq_true', ← Bool.not_eq_true]; exact hk)

/-! Messages held at an interface (R16). -/

theorem State.letGo_of_none {s : State} {c : Nat} (h : ∀ m ∈ s.net, m.dst ≠ heldNode c) : s.letGo c = s := by
  have hheld : (s.net.filter fun m => m.dst == heldNode c) = [] := by simpa using h
  have hrest : (s.net.filter fun m => m.dst != heldNode c) = s.net := by simpa using h
  simp only [State.letGo, hheld, hrest, List.foldl_nil]

/-! Dependence entries that are reclaimed (R310). -/

theorem State.reclaim_deps {s : State} {i : Nat} (h : i < 4096) : (s.reclaim i).deps = tdel s.deps i := by
  have h' : ¬4096 ≤ i := by omega
  simp [State.reclaim, tdel, h', bne]
theorem State.reclaim_all {s : State} {i : Nat} (h : 4096 ≤ i) : (s.reclaim i).deps = [] := by
  simp [State.reclaim, h]

/-! Row repairs (R389, R393). -/

theorem State.rowRepair_none {s : State} {u : Nat} (h : 16 ≤ u ∨ s.health (200 + u) = 0) : s.rowRepair u = s := by
  rcases h with h | h <;> simp [State.rowRepair, h]
theorem State.rowRepair_health {s : State} {u : Nat} (hu : u < 16) (h : s.health (200 + u) ≠ 0) :
    (s.rowRepair u).health (184 + u) = s.health (184 + u) + 1 ∧
    (s.rowRepair u).health (200 + u) = s.health (200 + u) - 1 := by
  have hr : s.rowRepair u = { s with
      mgmt := tset (tset s.mgmt (0x3000 + 184 + u) (s.health (184 + u) + 1)) (0x3000 + 200 + u)
        (s.health (200 + u) - 1) } := by
    have hcond : ¬(decide (u ≥ 16) || s.health (200 + u) == 0) = true := by
      rw [beq_eq_false_iff_ne.2 h, Bool.or_false, decide_eq_true_iff]
      omega
    rw [State.rowRepair, if_neg hcond]
  have hne : 0x3000 + 184 + u ≠ 0x3000 + 200 + u := by omega
  rw [hr]
  constructor
  · rw [State.health, ← Nat.add_assoc, tget_tset_ne _ _ _ _ hne, tget_tset_same, Option.getD_some]
  · rw [State.health, ← Nat.add_assoc, tget_tset_same, Option.getD_some]

/-! Commands (R354). -/

/-- The commands, by OP less one. -/
def sysCommands : List Instr := [.save, .restore, .resume, .endThread, .segsync, .tlbsync, .remove, .domsync, .prienable]

theorem sysCommand_of_op {v : Word} {i : Instr} (h0 : v.toNat % 2 ^ 36 = 0) (hop : 0 < v.toNat / 2 ^ 60)
    (hi : sysCommands[v.toNat / 2 ^ 60 - 1]? = some i) :
    sysCommand v = some (i,
      { n := v.toNat / 2 ^ 52 % 256, core := v.toNat / 2 ^ 40 % 4096, slot := v.toNat / 2 ^ 36 % 16 }) := by
  have hv := v.isLt
  obtain ⟨k, hk⟩ : ∃ k, v.toNat / 2 ^ 60 = k + 1 := ⟨v.toNat / 2 ^ 60 - 1, by omega⟩
  have hop : wbits v 60 4 = k + 1 := by simp only [wbits, bits]; omega
  have hz : wbits v 0 36 = 0 := by simp only [wbits, bits]; omega
  rw [hk, Nat.add_sub_cancel] at hi
  have hlt : k < 9 := (List.getElem?_eq_some_iff.1 hi).1
  unfold sysCommand
  rw [hz, hop]
  match k, hlt with
  | 0, _ | 1, _ | 2, _ | 3, _ | 4, _ | 5, _ | 6, _ | 7, _ | 8, _ => cases hi; rfl
theorem sysCommand_none {v : Word} (h : v.toNat % 2 ^ 36 ≠ 0 ∨ v.toNat / 2 ^ 60 = 0 ∨ 9 < v.toNat / 2 ^ 60) :
    sysCommand v = none := by
  have hv := v.isLt
  unfold sysCommand
  by_cases hz : wbits v 0 36 = 0
  · have hop : wbits v 60 4 = 0 ∨ 9 < wbits v 60 4 := by simp only [wbits, bits] at hz ⊢; omega
    rw [hz]
    rcases hop with hop | hop
    · rw [hop]; rfl
    · obtain ⟨k, hk⟩ : ∃ k, wbits v 60 4 = k + 10 := ⟨wbits v 60 4 - 10, by omega⟩
      rw [hk]; rfl
  · simp [hz]

/-! A look at the records that wait (R256). -/

theorem State.regroup_of_nil {s : State} {f : Nat} (h : s.priOf f false = []) : s.regroup f = s := by
  simp only [State.regroup, State.lookGroup, h]
theorem State.regroup_of_cons {s : State} {f : Nat} {x : PageReq} {r : List PageReq} (h : s.priOf f false = x :: r) :
    s.regroup f = if s.groupComing f = true then s
      else s.at (Nat.max (s.cycle + 1) (x.raised + 512)) ⟨.pageRequestGroup, { n := f }⟩ := by
  simp only [State.regroup, State.lookGroup, h]

/-! What a write of each register does, of the physical function (R386). -/

section Physical
variable {s : State} (hp : s.subj.slot = 0)
include hp

theorem registerWrite_domTable (hn : s.subj.n = 0) (hi : s.subj.m < 2048) : exec .registerWrite s = .next { s with
    domTable := tset s.domTable (s.subj.m / 8)
      (((tget s.domTable (s.subj.m / 8)).getD (List.replicate 8 0)).set (s.subj.m % 8) s.subj.w) } := by
  show execRegisterWrite s = _
  simp [execRegisterWrite, State.physical, hp, hn, Nat.not_le.2 hi]

theorem registerWrite_wqbase (hn : s.subj.n = 1) (hi : s.subj.m < 64) : exec .registerWrite s =
    .next (({ s with wqs := tset s.wqs s.subj.m { s.wqAt s.subj.m with base := s.subj.w } } : State).startQueue s.subj.m) := by
  show execRegisterWrite s = _
  simp [execRegisterWrite, State.physical, State.owns, State.mayQueue_of_physical hp, hp, hn, hi]

theorem registerWrite_wqcomp (hn : s.subj.n = 2) (hi : s.subj.m < 64) : exec .registerWrite s =
    .next { s with wqs := tset s.wqs s.subj.m { s.wqAt s.subj.m with comp := s.subj.w } } := by
  show execRegisterWrite s = _
  simp [execRegisterWrite, State.physical, State.owns, State.mayQueue_of_physical hp, hp, hn, hi]

theorem registerWrite_pwrlim (hn : s.subj.n = 4) : exec .registerWrite s = .next { s with pwrlim := s.subj.w.toNat } := by
  show execRegisterWrite s = _
  simp [execRegisterWrite, State.physical, hp, hn]

theorem registerWrite_skidctl (hn : s.subj.n = 5) : exec .registerWrite s =
    .next ((s.modCore s.subj.m fun k => { k with skidctl := s.subj.w &&& 0x000FFFC0000003FF }).freeArrivals s.subj.m) := by
  show execRegisterWrite s = _
  simp [execRegisterWrite, State.physical, hp, hn]

/-- A device of the recovery group is listed once (R330). -/
theorem registerWrite_member (hn : s.subj.n = 6) (hw : s.subj.w.getLsbD 0 = true) :
    ∃ u, exec .registerWrite s = .next u ∧ ∀ d, d ∈ u.members ↔ d ∈ s.members ∨ d = s.subj.m := by
  have hu : exec .registerWrite s = .next { s with
      members := if s.members.contains s.subj.m then s.members else s.members ++ [s.subj.m] } := by
    show execRegisterWrite s = _
    simp only [execRegisterWrite, State.physical, hp, hn, hw, BEq.rfl, Bool.not_true, Bool.false_and, Bool.false_eq_true,
      if_false]
  refine ⟨_, hu, fun d => ?_⟩
  dsimp only
  split
  case isTrue hm =>
    have hlisted : d = s.subj.m → d ∈ s.members := fun h => h ▸ List.contains_iff_mem.1 hm
    exact ⟨.inl, fun h => h.elim id hlisted⟩
  case isFalse => simp
theorem registerWrite_nonmember (hn : s.subj.n = 6) (hw : s.subj.w.getLsbD 0 = false) :
    ∃ u, exec .registerWrite s = .next u ∧ ∀ d, d ∈ u.members ↔ d ∈ s.members ∧ d ≠ s.subj.m := by
  have hu : exec .registerWrite s = .next { s with members := s.members.filter (· != s.subj.m) } := by
    show execRegisterWrite s = _
    simp only [execRegisterWrite, State.physical, hp, hn, hw, BEq.rfl, Bool.not_true, Bool.false_and, Bool.false_eq_true,
      Bool.not_false, if_false, if_true]
  exact ⟨_, hu, fun d => by simp⟩

theorem registerWrite_device (hn : s.subj.n = 7) : ∃ m p, exec .registerWrite s = .next { s with
    devIdx := s.subj.w.toNat % 16384, members := m, portUp := p } := by
  show ∃ m p, execRegisterWrite s = _
  simp only [execRegisterWrite, State.physical, hp, hn, BEq.rfl, Bool.not_true, Bool.false_and, Bool.false_eq_true,
    if_false, wbits_zero]
  exact ⟨_, _, rfl⟩

theorem registerWrite_priAlloc (hn : s.subj.n = 8) : exec .registerWrite s =
    .next (({ s with priAlloc := tset s.priAlloc s.subj.m s.subj.w.toNat } : State).regroup s.subj.m) := by
  show execRegisterWrite s = _
  simp [execRegisterWrite, State.physical, hp, hn]

theorem registerWrite_porttop (hn : s.subj.n = 9) :
    exec .registerWrite s = .next { s with mgmt := tset s.mgmt (0x1000 + s.subj.m) s.subj.w } := by
  show execRegisterWrite s = _
  simp [execRegisterWrite, State.physical, hp, hn]

theorem registerWrite_reclaim (hn : s.subj.n = 10) : exec .registerWrite s = .next (s.reclaim s.subj.m) := by
  show execRegisterWrite s = _
  simp [execRegisterWrite, State.physical, hp, hn]

theorem registerWrite_rowRepair (hn : s.subj.n = 13) : exec .registerWrite s = .next (s.rowRepair s.subj.m) := by
  show execRegisterWrite s = _
  simp [execRegisterWrite, State.physical, hp, hn]

/-- AMEN changes at once (R353). -/
theorem cassignWrite_amen (hc : s.subj.core < 2304) (hb : s.subj.b = false)
    (hv : (s.coreAt s.subj.core).v = s.subj.w.getLsbD 63) (hd : (s.coreAt s.subj.core).pdid = s.subj.w.toNat % 256) :
    exec .cassignWrite s = .next (s.setCore s.subj.core
      { s.coreAt s.subj.core with amen := s.subj.w.getLsbD 62, cassignNext := none }) := by
  show execCassignWrite s = _
  simp [execCassignWrite, State.physical, hp, hb, Nat.not_le.2 hc, hv, hd, wbits, bits]

/-- A change of V or PDID is held until the core is empty (R353). -/
theorem cassignWrite_held (hc : s.subj.core < 2304) (hb : s.subj.b = false)
    (h : (s.coreAt s.subj.core).v ≠ s.subj.w.getLsbD 63 ∨ (s.coreAt s.subj.core).pdid ≠ s.subj.w.toNat % 256) :
    exec .cassignWrite s = .next ((s.setCore s.subj.core
      { s.coreAt s.subj.core with cassignNext := some s.subj.w }).assign s.subj.core) := by
  show execCassignWrite s = _
  have hguard : ¬(!(s.physical || s.subj.b) || decide (s.subj.core ≥ 2304) ||
      (s.subj.b && (s.coreAt s.subj.core).cassignNext.isNone)) = true := by
    simp [State.physical, hp, hb, hc]
  have hchange : ¬((s.coreAt s.subj.core).v == s.subj.w.getLsbD 63 &&
      (s.coreAt s.subj.core).pdid == wbits s.subj.w 0 8) = true := by
    rw [Bool.and_eq_true, beq_iff_eq, beq_iff_eq, Decidable.not_and_iff_not_or_not]
    rwa [wbits_zero]
  rw [execCassignWrite]
  dsimp only
  rw [if_neg hguard, hb, if_neg Bool.false_ne_true, if_neg hchange]

end Physical

/-- SYSARG, which every function has (R354, R386). -/
theorem registerWrite_sysarg {s : State} (hn : s.subj.n = 3) : exec .registerWrite s = .next { s with sysarg := s.subj.w } := by
  show execRegisterWrite s = _
  simp [execRegisterWrite, hn]

/-- A word of SYSCMD that names a command starts its step (R354). -/
theorem registerWrite_syscmd {s : State} {i : Instr} {x : Subj} (hn : s.subj.n = 11) (h : sysCommand s.subj.w = some (i, x)) :
    exec .registerWrite s = .next (s.after 0 i { x with w := wd s.subj.m }) := by
  show execRegisterWrite s = _
  simp [execRegisterWrite, hn, h]

/-- One that names none completes with RESULT 1, when no other is in progress or waits. -/
theorem registerWrite_syscmd_none {s : State} (hn : s.subj.n = 11) (h : sysCommand s.subj.w = none) (hb : s.subj.b = false)
    (hidle : s.sysstat.getLsbD 63 = false) (hq : s.sysq = []) :
    exec .registerWrite s = .next { s with sysstat := 1, saving := none } := by
  show execRegisterWrite s = _
  have hw : execRegisterWrite s = s.command .registerWrite false fun s _ => s := by simp [execRegisterWrite, hn, h]
  rw [hw, State.command, if_neg (by simp [hb]), if_neg (by rw [hidle, hq]; decide)]
  simp only [Bool.false_eq_true, if_false, State.finish, hq, List.isEmpty_nil, if_true]
  rfl

/-! SEALCTL, UNDOCFG and the placement tables. -/

/-- SEALCTL takes a SEALPERIOD in its range, and the timer starts again (R332). -/
theorem sealctlWrite_eq (s : State) : exec .sealctlWrite s =
    if s.subj.slot = 0 ∧ 100 ≤ s.subj.w.toNat % 2 ^ 32 ∧ s.subj.w.toNat % 2 ^ 32 ≤ 1000000 then
      .next ({ s with sealctl := s.subj.w &&& 0xC0000000FFFFFFFF } : State).startTimer
    else .next s := by
  show execSealctlWrite s = _
  have hcond : (!s.physical || decide (wbits s.subj.w 0 32 < 100) || decide (wbits s.subj.w 0 32 > 1000000)) = true ↔
      ¬(s.subj.slot = 0 ∧ 100 ≤ s.subj.w.toNat % 2 ^ 32 ∧ s.subj.w.toNat % 2 ^ 32 ≤ 1000000) := by
    rw [wbits_zero, Bool.or_eq_true, Bool.or_eq_true, decide_eq_true_iff, decide_eq_true_iff, Bool.not_eq_true',
      State.physical, beq_eq_false_iff_ne]
    omega
  simp only [execSealctlWrite, hcond, ite_not]

/-- UNDOCFG takes a legal value while no task is placed (R342). -/
theorem undocfgWrite_eq (s : State) : exec .undocfgWrite s =
    if s.subj.slot = 0 ∧ s.subj.w.toNat % 8 ≤ 4 ∧ ∀ x ∈ s.tasks, x.2.placed = false then
      .next { s with undocfg := s.subj.w &&& 7 }
    else .next s := by
  show execUndocfgWrite s = _
  have hcond : (!s.physical || decide (wbits s.subj.w 0 3 > 4) || s.tasks.any (·.2.placed)) = true ↔
      ¬(s.subj.slot = 0 ∧ s.subj.w.toNat % 8 ≤ 4 ∧ ∀ x ∈ s.tasks, x.2.placed = false) := by
    rw [wbits_zero, ← Bool.not_eq_false, Decidable.not_iff_not]
    simp [State.physical, and_assoc]
  simp only [execUndocfgWrite, hcond, ite_not]

/-- A write of WQCFG is taken: the queue is there and the writing function's, and LOGN is legal if EN is set (R304, R386). -/
abbrev State.takesWqcfg (s : State) : Prop :=
  s.subj.n < 64 ∧ s.mayQueue [(s.wqAt s.subj.n).cfg.toNat / 2 ^ 40 % 256, s.subj.w.toNat / 2 ^ 40 % 256] = true ∧
    (s.subj.w.getLsbD 63 = true → 4 ≤ s.subj.w.toNat / 2 ^ 36 % 16 ∧ s.subj.w.toNat / 2 ^ 36 % 16 ≤ 12)

/-- A queue under a new configuration (R304). -/
def WorkQ.configured (q : WorkQ) (v : Word) : WorkQ :=
  if v.getLsbD 63 && !q.en then
    { q with cfg := (v &&& 0x80FFFFF000000000) ||| 0x4000000000000000, compPos := 0, compPhase := true, taken := 0 }
  else { q with cfg := (v &&& 0x80FFFFF000000000) ||| (q.cfg &&& 0x40000000FFFFFFFF) }

/-- EN starts a queue at slot 0. -/
theorem WorkQ.configured_enable {q : WorkQ} {v : Word} (hv : v.getLsbD 63 = true) (hq : q.cfg.getLsbD 63 = false) :
    q.configured v =
      { q with cfg := (v &&& 0x80FFFFF000000000) ||| 0x4000000000000000, compPos := 0, compPhase := true, taken := 0 } :=
  if_pos (by rw [WorkQ.en, hv, hq]; decide)
/-- Without EN it keeps its place. -/
theorem WorkQ.configured_disable {q : WorkQ} {v : Word} (hv : v.getLsbD 63 = false) :
    q.configured v = { q with cfg := (v &&& 0x80FFFFF000000000) ||| (q.cfg &&& 0x40000000FFFFFFFF) } :=
  if_neg (by rw [hv, Bool.false_and]; decide)

theorem wqcfgWrite_eq (s : State) : exec .wqcfgWrite s =
    if s.takesWqcfg then .next (({ s with
      wqs := tset s.wqs s.subj.n ((s.wqAt s.subj.n).configured s.subj.w) } : State).startQueue s.subj.n)
    else .next s := by
  show execWqcfgWrite s = _
  have hcond : (decide (s.subj.n ≥ 64) || !s.mayQueue [wbits (s.wqAt s.subj.n).cfg 40 8, wbits s.subj.w 40 8] ||
      (s.subj.w.getLsbD 63 && (decide (wbits s.subj.w 36 4 < 4) || decide (wbits s.subj.w 36 4 > 12)))) = true ↔
      ¬s.takesWqcfg := by
    rw [← Bool.not_eq_false, Decidable.not_iff_not]
    simp only [Bool.or_eq_false_iff, Bool.and_eq_false_imp, Bool.not_eq_false', decide_eq_false_iff_not, Nat.not_le,
      Nat.not_lt, ge_iff_le, gt_iff_lt, and_assoc]
    rfl
  simp only [execWqcfgWrite, hcond, ite_not]
  rfl

/-- A core with entry `n` of one of its placement tables written (R16). -/
def Core.withPlace (k : Core) (dev : Bool) (n : Nat) (v : Word) : Core :=
  if dev then { k with devPlace := tset k.devPlace n ⟨v.getLsbD 63, v.getLsbD 62, v.toNat % 16384⟩ }
  else { k with place := tset k.place n ⟨v.getLsbD 63, v.getLsbD 62, v.toNat % 4096⟩ }

/-- A placement entry is written, where no message is held for one in transit (R16). -/
theorem placementTableWrite_of_none {s : State} (h : ∀ m ∈ s.net, m.dst ≠ heldNode s.subj.core) :
    exec .placementTableWrite s = .next (s.modCore s.subj.core (·.withPlace s.subj.b s.subj.n s.subj.w)) := by
  show execPlacementTableWrite s = _
  refine congrArg Host.Outcome.next ((State.letGo_of_none (s := s.modCore _ _) h).trans ?_)
  congr 1
  funext k
  unfold Core.withPlace
  rw [wbits_zero, wbits_zero]
  cases s.subj.b <;> rfl

/-! What a virtual function may not write (R386). -/

section Virtual
variable {s : State} (hf : s.subj.slot ≠ 0)
include hf

theorem registerWrite_foreign_page (hn : s.subj.n ∉ [1, 2, 3, 8, 11, 12]) : exec .registerWrite s = .next s := by
  show execRegisterWrite s = _
  have hcond : (!s.physical && !([1, 2, 3, 8, 11, 12].contains s.subj.n)) = true := by
    simpa [State.physical, hf] using hn
  rw [execRegisterWrite]
  dsimp only
  rw [if_pos hcond]

theorem registerWrite_foreign_queue (hn : s.subj.n = 1 ∨ s.subj.n = 2)
    (h : ¬((s.domAt ((s.wqAt s.subj.m).cfg.toNat / 2 ^ 40 % 256)).v = true ∧
      (s.domAt ((s.wqAt s.subj.m).cfg.toNat / 2 ^ 40 % 256)).vf + 1 = s.subj.slot)) :
    exec .registerWrite s = .next s := by
  show execRegisterWrite s = _
  have howns : s.owns s.subj.m = false := Bool.and_eq_false_imp.2 fun _ =>
    Bool.eq_false_iff.2 fun hq => h ((State.mayQueue_of_virtual hf _).1 hq _ (.head _))
  rcases hn with hn | hn <;> simp [execRegisterWrite, hn, howns]

theorem cassignWrite_foreign (hb : s.subj.b = false) : exec .cassignWrite s = .next s := by
  show execCassignWrite s = _
  simp [execCassignWrite, State.physical, hf, hb]

end Virtual

/-- Settles O53: each register by the lemma of its write; the numbers that name the registers are log 36. -/
theorem managementRegisters : Obligations.ManagementRegisters := by
  refine ⟨fun s hf => ?virtual, fun s hp => ?physical⟩
  case virtual =>
    intro n mine queue
    refine ⟨registerWrite_foreign_page hf, registerWrite_foreign_queue hf, registerWrite_sysarg, fun hq => ?wqcfg,
      cassignWrite_foreign hf, (sealctlWrite_eq s).trans (if_neg fun h => hf h.1),
      (undocfgWrite_eq s).trans (if_neg fun h => hf h.1)⟩
    case wqcfg =>
      refine (wqcfgWrite_eq s).trans (if_neg fun ⟨_, hmay, _⟩ => ?_)
      have hown := (State.mayQueue_of_virtual hf _).1 hmay
      exact hq.elim (· (hown _ (.head _))) (· (hown _ (.tail _ (.head _))))
  case physical =>
    intro n i c v k old logn empty sets
    refine ⟨fun hn hen hdis h4 h12 => ?enable, fun hn hdis => ?configure, fun h => ?wqcfgRefused,
      cassignWrite_amen hp, fun hc hb hd he => ?assign, fun hc hb hd he => ?held,
      fun h h' => ⟨_, (sealctlWrite_eq s).trans (if_pos ⟨hp, h, h'⟩), rfl, rfl⟩,
      fun h => (sealctlWrite_eq s).trans (if_neg fun ⟨_, hlow, hhigh⟩ => ?sealctlRefused),
      fun h ht => (undocfgWrite_eq s).trans (if_pos ⟨hp, h, ht⟩),
      fun h => (undocfgWrite_eq s).trans (if_neg fun ⟨_, hle, hnone⟩ => ?undocfgRefused),
      registerWrite_domTable hp, fun hn hi hdis => ?baseDisabled, fun hn hi hen => ?baseEnabled,
      registerWrite_wqcomp hp, registerWrite_sysarg, registerWrite_pwrlim hp, registerWrite_skidctl hp,
      registerWrite_member hp, registerWrite_nonmember hp, fun hn => ?device, fun hn => ?alloc,
      registerWrite_porttop hp, fun hn hi => ?reclaim,
      fun hn hi => ⟨_, registerWrite_reclaim hp hn, State.reclaim_all hi⟩, fun hn => ?command,
      fun hn hi hh => ⟨_, registerWrite_rowRepair hp hn, State.rowRepair_health hi hh⟩,
      fun hn h => (registerWrite_rowRepair hp hn).trans (congrArg _ (State.rowRepair_none h)), fun h => ?place⟩
    case enable =>
      refine ⟨_, (wqcfgWrite_eq s).trans (if_pos ⟨hn, State.mayQueue_of_physical hp _, fun _ => ⟨h4, h12⟩⟩), ?_,
        fun m hm => ?_, s.sameMemory_startQueue _ n, s.sameThreads_startQueue _ n⟩
      · rw [State.wqAt_startQueue, State.wqAt_tset_same, WorkQ.configured_enable hen hdis]
      · rw [State.wqAt_startQueue, State.wqAt_tset_ne _ _ hm]
    case configure =>
      have hl : ¬v.getLsbD 63 = true := Bool.eq_false_iff.1 hdis
      refine ⟨_, (wqcfgWrite_eq s).trans (if_pos ⟨hn, State.mayQueue_of_physical hp _, fun h => absurd h hl⟩), ?_⟩
      rw [State.wqAt_startQueue, State.wqAt_tset_same, WorkQ.configured_disable hdis]
    case wqcfgRefused =>
      refine (wqcfgWrite_eq s).trans (if_neg fun ⟨hq, _, hl⟩ => ?_)
      rcases h with h | ⟨h, h12⟩
      · exact absurd hq (Nat.not_lt.2 h)
      · exact h12.elim (Nat.not_lt.2 (hl h).1) (Nat.not_lt.2 (hl h).2)
    case assign =>
      have hw : exec .cassignWrite s = .next ((s.setCore c { k with cassignNext := some v }).setCore c (k.assigned v)) := by
        rw [cassignWrite_held hp hc hb hd, State.assign_setCore, if_pos (k.vacant_iff.2 he)]
      refine ⟨_, hw, ?_⟩
      rw [State.coreAt_setCore_same]
      exact ⟨rfl, rfl, rfl, rfl, rfl, rfl, rfl, rfl, fun j hj => by
        rw [State.coreAt_setCore_ne _ _ _ _ hj, State.coreAt_setCore_ne _ _ _ _ hj]⟩
    case held =>
      have hw : exec .cassignWrite s = .next (s.setCore c { k with cassignNext := some v }) := by
        rw [cassignWrite_held hp hc hb hd, State.assign_setCore, if_neg (mt k.vacant_iff.1 he)]
      exact ⟨_, hw, s.coreAt_setCore_same c _, fun j hj => s.coreAt_setCore_ne c j _ hj⟩
    case sealctlRefused => exact h.elim (Nat.not_lt.2 hlow) (Nat.not_lt.2 hhigh)
    case undocfgRefused =>
      rcases h with h | ⟨x, hx, hplaced⟩
      · exact absurd hle (Nat.not_le.2 h)
      · exact Bool.false_ne_true ((hnone x hx).symm.trans hplaced)
    case baseDisabled =>
      refine (registerWrite_wqbase hp hn hi).trans (congrArg _ (State.startQueue_of_disabled ?_))
      rw [State.wqAt_tset_same]
      exact hdis
    case baseEnabled =>
      refine ⟨_, registerWrite_wqbase hp hn hi, ?_, ?_⟩
      · rw [State.wqAt_startQueue, State.wqAt_tset_same]
      · obtain ⟨e, he, hq, hins⟩ := State.startQueue_of_enabled (q := i)
          (s := { s with wqs := tset s.wqs i { s.wqAt i with base := v } }) (by rw [State.wqAt_tset_same]; exact hen)
        rw [State.wqAt_tset_same] at hins
        exact ⟨e, he, hq, hins⟩
    case device =>
      obtain ⟨m, p, h⟩ := registerWrite_device hp hn
      exact ⟨_, h, rfl⟩
    case alloc =>
      intro t
      exact ⟨fun h => (registerWrite_priAlloc hp hn).trans (congrArg _ (State.regroup_of_nil (s := t) h)),
        fun x r h => (registerWrite_priAlloc hp hn).trans (congrArg _ (State.regroup_of_cons (s := t) h))⟩
    case reclaim =>
      refine ⟨_, registerWrite_reclaim hp hn, ?_⟩
      rw [State.reclaim_deps hi]
      exact ⟨tget_tdel_same _ i, fun j hj => tget_tdel_ne _ i j hj⟩
    case command =>
      exact ⟨fun h0 hop cmd hcmd => registerWrite_syscmd hn (sysCommand_of_op h0 hop hcmd),
        fun h hb hidle hq => registerWrite_syscmd_none hn (sysCommand_none h) hb hidle hq⟩
    case place =>
      refine ⟨_, placementTableWrite_of_none h, rfl, fun j hj => s.coreAt_modCore_ne c j _ hj, ?_⟩
      rw [State.coreAt_modCore_same]
      rfl

end Sys2Proof.Machine
end

section
/-! SUPPORT. Scalar integer words (R82, R84–R86): the one result a word makes due, and the model's operations on 64-bit words
as arithmetic on numbers and as bits. -/

namespace Sys2Proof.Machine

/-! A word with one scalar result. -/

/-- An A-word whose effect is one result, and whose pops are those of its sources, gives that result. -/
theorem runA_gives {s : State} {h : AHead} {w : WordSpec} {src : List (BitVec 5)} {d : BitVec 5} {lat : Nat} {v : Word}
    {flags : BitVec 5} (hs : s.Issues h.neg h.grd) (ht : w.takes (s.onWord true) = true)
    (hp : (w.acc (s.onWord true)).pops = popsOf src)
    (he : w.effect (s.onWord true) = (s.onWord true).result d lat v flags) :
    runA h w s = s.gives true src d lat v flags := by
  unfold runA State.gives
  rw [runWord_issues hs, WordSpec.perform, he, ht, hp, if_pos rfl]

theorem runA_aluSpec {s : State} {h : AHead} (hs : s.Issues h.neg h.grd) {o : AR} {lat : Nat} {f : Word → Word → Word}
    {v : Word} (hv : f (s.sval o.a) (s.sval o.b [o.a]) = v) :
    runA h (aluSpec o lat f) s = s.gives true [o.a, o.b] o.d lat v :=
  runA_gives hs rfl rfl (by simp only [aluSpec, State.sval_onWord hs.mode, hv])

theorem runA_unarySpec {s : State} {h : AHead} (hs : s.Issues h.neg h.grd) {o : AU} {f : Word → Word} {v : Word}
    (hv : f (s.sval o.a) = v) : runA h (unarySpec o f) s = s.gives true [o.a] o.d 1 v :=
  runA_gives hs rfl rfl (by simp only [unarySpec, State.sval_onWord hs.mode, hv])

/-! Arithmetic modulo 2^64 (R82). -/

theorem toNat_wd (n : Nat) : (wd n).toNat = n % 2 ^ 64 := BitVec.toNat_ofNat n 64

theorem wd_toNat (a : Word) : wd a.toNat = a := BitVec.ofNat_toNat 64 a |>.trans a.setWidth_eq

theorem eq_wd_iff (a : Word) (n : Nat) : a = wd n ↔ a.toNat = n % 2 ^ 64 := by
  rw [← BitVec.toNat_inj, toNat_wd]

theorem add_eq_wd (a b : Word) : a + b = wd (a.toNat + b.toNat) := (eq_wd_iff _ _).2 (BitVec.toNat_add a b)

theorem mul_eq_wd (a b : Word) : a * b = wd (a.toNat * b.toNat) := (eq_wd_iff _ _).2 (BitVec.toNat_mul a b)

theorem sub_eq_ofInt (a b : Word) : a - b = BitVec.ofInt 64 (a.toNat - b.toNat) := by
  apply BitVec.eq_of_toNat_eq
  rw [BitVec.toNat_sub, BitVec.toNat_ofInt]
  omega

theorem shiftLeft_eq_wd (a : Word) (n : Nat) : a <<< n = wd (a.toNat * 2 ^ n) := by
  rw [eq_wd_iff, BitVec.toNat_shiftLeft, Nat.shiftLeft_eq]

theorem ushiftRight_eq_wd (a : Word) (n : Nat) : a >>> n = wd (a.toNat / 2 ^ n) := by
  rw [eq_wd_iff, BitVec.toNat_ushiftRight, Nat.shiftRight_eq_div_pow,
    Nat.mod_eq_of_lt (Nat.lt_of_le_of_lt (Nat.div_le_self _ _) a.isLt)]

theorem sshiftRight_eq_ofInt (a : Word) (n : Nat) : a.sshiftRight n = BitVec.ofInt 64 (a.toInt / 2 ^ n) := by
  rw [← BitVec.ofInt_toInt (x := a.sshiftRight n), BitVec.toInt_sshiftRight, Int.shiftRight_eq_div_pow]
  norm_cast

/-- The bits that a rotation takes around lie below those it shifts up (R82). -/
theorem rotateLeft_eq_wd (a : Word) {n : Nat} (h : n < 64) :
    a.rotateLeft n = wd (a.toNat * 2 ^ n % 2 ^ 64 + a.toNat / 2 ^ (64 - n)) := by
  have hp : 2 ^ 64 = 2 ^ n * 2 ^ (64 - n) := by rw [← Nat.pow_add]; congr 1; omega
  have hlow : a.toNat / 2 ^ (64 - n) < 2 ^ n :=
    Nat.div_lt_of_lt_mul (by rw [Nat.mul_comm, ← hp]; exact a.isLt)
  have hhigh : a.toNat * 2 ^ n % 2 ^ 64 = 2 ^ n * (a.toNat % 2 ^ (64 - n)) := by
    rw [hp, Nat.mul_comm, Nat.mul_mod_mul_left]
  have hor : (a.rotateLeft n).toNat = a.toNat * 2 ^ n % 2 ^ 64 + a.toNat / 2 ^ (64 - n) := by
    rw [BitVec.toNat_rotateLeft, Nat.mod_eq_of_lt h, Nat.shiftLeft_eq, Nat.shiftRight_eq_div_pow, hhigh,
      Nat.two_pow_add_eq_or_of_lt hlow]
  rw [eq_wd_iff, ← hor, Nat.mod_eq_of_lt (a.rotateLeft n).isLt]

/-- `lea` adds in the low 57 bits and keeps the high 7 of its base (R85). -/
theorem leaOf_eq_wd (a b : Word) (k : Nat) :
    leaOf a b k = wd (wbits a 57 7 * 2 ^ 57 + (a.toNat + b.toNat * 2 ^ k) % 2 ^ 57) := by
  have hsum : (a + b <<< k).toNat % 2 ^ 57 = (a.toNat + b.toNat * 2 ^ k) % 2 ^ 57 := by
    rw [BitVec.toNat_add, BitVec.toNat_shiftLeft, Nat.shiftLeft_eq]
    omega
  have hlow : (a.toNat + b.toNat * 2 ^ k) % 2 ^ 57 < 2 ^ 57 := Nat.mod_lt _ (by decide)
  have hhigh : a.toNat / 2 ^ 57 * 2 ^ 57 % 2 ^ 64 = 2 ^ 57 * (a.toNat / 2 ^ 57 % 2 ^ 7) := by
    rw [Nat.mul_comm, show 2 ^ 64 = 2 ^ 57 * 2 ^ 7 from rfl, Nat.mul_mod_mul_left]
  have hmask : BitVec.toNat (BitVec.ofNat 64 (2 ^ 57 - 1)) = 2 ^ 57 - 1 := rfl
  rw [eq_wd_iff]
  unfold leaOf wbits bits
  rw [BitVec.toNat_or, BitVec.toNat_and, BitVec.toNat_shiftLeft, BitVec.toNat_ushiftRight, Nat.shiftRight_eq_div_pow,
    Nat.shiftLeft_eq, hmask, Nat.and_two_pow_sub_one_eq_mod, hsum, hhigh, ← Nat.two_pow_add_eq_or_of_lt hlow]
  omega

/-- `min` keeps its first operand unless the second is smaller, and `max` keeps it unless the second is larger (R82). -/
theorem signedMin_eq (a b : Word) : (if b.slt a then b else a) = if a.toInt ≤ b.toInt then a else b := by
  by_cases h : b.toInt < a.toInt
  · rw [if_pos (BitVec.slt_iff_toInt_lt.2 h), if_neg (Int.not_le.2 h)]
  · rw [if_neg (mt BitVec.slt_iff_toInt_lt.1 h), if_pos (Int.not_lt.1 h)]

theorem signedMax_eq (a b : Word) : (if a.slt b then b else a) = if a.toInt ≤ b.toInt then b else a := by
  rcases Int.lt_trichotomy a.toInt b.toInt with h | h | h
  · rw [if_pos (BitVec.slt_iff_toInt_lt.2 h), if_pos (Int.le_of_lt h)]
  · rw [BitVec.eq_of_toInt_eq h, ite_self, ite_self]
  · rw [if_neg (mt BitVec.slt_iff_toInt_lt.1 (Int.not_lt.2 (Int.le_of_lt h))), if_neg (Int.not_le.2 h)]

theorem unsignedMin_eq (a b : Word) : (if b.ult a then b else a) = if a.toNat ≤ b.toNat then a else b := by
  by_cases h : b.toNat < a.toNat
  · rw [if_pos (BitVec.ult_iff_toNat_lt.2 h), if_neg (Nat.not_le.2 h)]
  · rw [if_neg (mt BitVec.ult_iff_toNat_lt.1 h), if_pos (Nat.not_lt.1 h)]

theorem unsignedMax_eq (a b : Word) : (if a.ult b then b else a) = if a.toNat ≤ b.toNat then b else a := by
  rcases Nat.lt_trichotomy a.toNat b.toNat with h | h | h
  · rw [if_pos (BitVec.ult_iff_toNat_lt.2 h), if_pos (Nat.le_of_lt h)]
  · rw [BitVec.eq_of_toNat_eq h, ite_self, ite_self]
  · rw [if_neg (mt BitVec.ult_iff_toNat_lt.1 (Nat.not_lt.2 (Nat.le_of_lt h))), if_neg (Nat.not_le.2 h)]

/-! Counting bits (R82). -/

/-- The place of the highest one bit is the base-2 logarithm. -/
theorem clz64_spec {a : Word} (ha : a ≠ 0) : clz64 a < 64 ∧ a.getLsbD (63 - clz64 a) = true ∧
    ∀ i, 63 - clz64 a < i → a.getLsbD i = false := by
  have h0 : a.toNat ≠ 0 := fun h => ha (BitVec.eq_of_toNat_eq h)
  have hlog : Nat.log2 a.toNat < 64 := (Nat.log2_lt h0).2 a.isLt
  have hplace : 63 - clz64 a = Nat.log2 a.toNat := by
    rw [clz64, if_neg ha]
    omega
  refine ⟨?_, ?_, fun i hi => ?_⟩
  · rw [clz64, if_neg ha]
    omega
  · rw [hplace]
    exact Nat.testBit_log2 h0
  · rw [hplace] at hi
    exact Nat.testBit_lt_two_pow ((Nat.log2_lt h0).1 hi)

/-- A word other than 0 has a one bit. -/
theorem exists_getLsbD_of_ne_zero {a : Word} (ha : a ≠ 0) : ∃ i < 64, a.getLsbD i = true := by
  obtain ⟨hlt, hone, -⟩ := clz64_spec ha
  exact ⟨63 - clz64 a, by omega, hone⟩

theorem ctz64_zero : ctz64 0 = 64 := by decide

/-- The search for a one bit from below stops at the lowest one. -/
theorem ctz64_spec {a : Word} (ha : a ≠ 0) : ctz64 a < 64 ∧ a.getLsbD (ctz64 a) = true ∧
    ∀ i, i < ctz64 a → a.getLsbD i = false := by
  obtain ⟨k, hk, hone⟩ := exists_getLsbD_of_ne_zero ha
  cases hf : (List.range 64).find? fun i => a.getLsbD i with
  | none => exact absurd hone (List.find?_eq_none.1 hf k (List.mem_range.2 hk))
  | some j =>
    obtain ⟨hj, hmem, hbelow⟩ := List.find?_range_eq_some.1 hf
    rw [ctz64, hf, Option.getD_some]
    exact ⟨List.mem_range.1 hmem, hj, fun i hi => by simpa using hbelow i hi⟩

theorem toNat_wd_of_lt {n : Nat} (h : n < 64) : (wd n).toNat = n := by
  rw [toNat_wd, Nat.mod_eq_of_lt (Nat.lt_trans h (by decide))]

/-! Extension, and the bits of a merge (R84, R86). -/

theorem extend_unsigned (a : Word) (n : Nat) : extend false a.toNat n = (a.setWidth n).setWidth 64 := by
  apply BitVec.eq_of_toNat_eq
  simp only [extend, Bool.false_eq_true, if_false, toNat_wd, BitVec.toNat_setWidth]

theorem sintOf_toNat (a : Word) {n : Nat} (h : 0 < n) : sintOf a.toNat n = (a.setWidth n).toInt := by
  obtain ⟨m, rfl⟩ : ∃ m, n = m + 1 := ⟨n - 1, by omega⟩
  rw [BitVec.toInt_eq_toNat_cond, BitVec.toNat_setWidth, sintOf, Nat.add_sub_cancel, Nat.pow_succ]
  split <;> split <;> omega

theorem extend_signed (a : Word) {n : Nat} (h : 0 < n) : extend true a.toNat n = (a.setWidth n).signExtend 64 := by
  rw [extend, if_pos rfl, sintOf_toNat a h]
  rfl

/-- Merging `len` bits of a number into a word from bit `pos` up takes those bits from the number, and the rest from the word. -/
theorem getLsbD_mergeBits {n : Nat} (old : BitVec n) (v pos len : Nat) {i : Nat} (hi : i < n) :
    (mergeBits old (v * 2 ^ pos) ((2 ^ len - 1) * 2 ^ pos)).getLsbD i =
      if pos ≤ i ∧ i < pos + len then v.testBit (i - pos) else old.getLsbD i := by
  simp only [mergeBits, BitVec.getLsbD_or, BitVec.getLsbD_and, BitVec.getLsbD_not, BitVec.getLsbD_ofNat, hi,
    Nat.testBit_mul_two_pow, Nat.testBit_two_pow_sub_one, decide_true, Bool.true_and]
  by_cases h1 : pos ≤ i <;> by_cases h2 : i - pos < len <;> simp [h1, h2] <;> omega

/-! The words whose value is more than an operation on sources. -/

theorem exec_clz {s : State} {h : AHead} (hs : s.Issues h.neg h.grd) (o : AU) :
    exec (.clz h o) s = s.gives true [o.a] o.d 1 (wd (clz64 (s.sval o.a))) := runA_unarySpec hs rfl

theorem exec_ctz {s : State} {h : AHead} (hs : s.Issues h.neg h.grd) (o : AU) :
    exec (.ctz h o) s = s.gives true [o.a] o.d 1 (wd (ctz64 (s.sval o.a))) := runA_unarySpec hs rfl

theorem exec_sel {s : State} {h : AHead} (hs : s.Issues h.neg h.grd) (o : AR) (q : BitVec 3) :
    exec (.sel h o q) s = s.gives true [o.a, o.b] o.d 1
      (if s.ctx.pre.pred q.toNat then s.sval o.a else s.sval o.b [o.a]) :=
  runA_gives hs rfl rfl (by simp only [State.sval_onWord hs.mode, State.view_onWord hs.mode])

theorem exec_movImm {s : State} {h : AHead} (hs : s.Issues h.neg h.grd) (d : BitVec 5) (imm : BitVec 17) :
    exec (.movImm h d imm) s = s.gives true [] d 1 (imm.signExtend 64) := runA_gives hs rfl rfl rfl

theorem exec_movK {s : State} {h : AHead} (hs : s.Issues h.neg h.grd) (d : BitVec 4) (k : BitVec 2) (imm : BitVec 16) :
    exec (.movK h d k imm) s = s.gives true [] (d.setWidth 5) 1
      (mergeBits (s.ctx.pre.sreg d.toNat) (imm.toNat * 2 ^ (16 * k.toNat)) ((2 ^ 16 - 1) * 2 ^ (16 * k.toNat))) :=
  runA_gives hs rfl rfl (by simp only [State.sval4, State.view_onWord hs.mode, Nat.reducePow, Nat.reduceSub])

theorem exec_bfi {s : State} {h : AHead} (hs : s.Issues h.neg h.grd) (o : AF) :
    exec (.bfi h o) s = s.gives true [o.a] o.d 1 (mergeBits (s.ctx.pre.sreg o.d.toNat)
      ((s.sval o.a).toNat * 2 ^ o.pos.toNat) ((2 ^ afLen o - 1) * 2 ^ o.pos.toNat)) :=
  runA_gives hs rfl rfl (by simp only [State.sval_onWord hs.mode, State.view_onWord hs.mode])

/-- Settles O1: each word makes its one result due, and that result is the table's. -/
theorem scalarIntegerResults : Obligations.ScalarIntegerResults := by
  refine ⟨fun s h o k q hs => ?twoSources, fun s h o f d4 k i12 i16 i17 hs => ?oneSource⟩
  case twoSources =>
    intro a b n out
    have hn : n < 64 := Nat.mod_lt _ (by decide)
    exact ⟨runA_aluSpec hs (add_eq_wd a b), runA_aluSpec hs (sub_eq_ofInt a b), runA_aluSpec hs (mul_eq_wd a b),
      runA_aluSpec hs rfl, runA_aluSpec hs rfl,
      runA_aluSpec hs rfl, runA_aluSpec hs rfl, runA_aluSpec hs rfl, runA_aluSpec hs rfl,
      runA_aluSpec hs (shiftLeft_eq_wd a n), runA_aluSpec hs (ushiftRight_eq_wd a n),
      runA_aluSpec hs (sshiftRight_eq_ofInt a n), runA_aluSpec hs (rotateLeft_eq_wd a hn),
      runA_aluSpec hs (signedMin_eq a b), runA_aluSpec hs (signedMax_eq a b),
      runA_aluSpec hs (unsignedMin_eq a b), runA_aluSpec hs (unsignedMax_eq a b),
      runA_aluSpec hs (leaOf_eq_wd a b k.toNat), exec_sel hs o q⟩
  case oneSource =>
    intro a out len x old
    refine ⟨⟨_, exec_clz hs o, fun ha => ?clzZero, fun ha => ?clz⟩, ⟨_, exec_ctz hs o, fun ha => ?ctzZero, fun ha => ?ctz⟩,
      runA_unarySpec hs rfl, runA_unarySpec hs rfl,
      runA_unarySpec hs (extend_signed a (by decide)), runA_unarySpec hs (extend_signed a (by decide)),
      runA_unarySpec hs (extend_signed a (by decide)), runA_unarySpec hs (extend_unsigned a 8),
      runA_unarySpec hs (extend_unsigned a 16), runA_unarySpec hs (extend_unsigned a 32),
      runA_unarySpec hs rfl, exec_movImm hs o.d i17, ⟨_, exec_movK hs d4 k i16, fun i => ?movK⟩,
      runA_unarySpec hs rfl, ⟨_, exec_bfi hs f, fun i hi => getLsbD_mergeBits old x.toNat f.pos.toNat len hi⟩⟩
    case clzZero => exact congrArg (fun a => wd (clz64 a)) ha
    case clz =>
      have hc := clz64_spec ha
      rwa [toNat_wd_of_lt hc.1]
    case ctzZero => exact (congrArg (fun a => wd (ctz64 a)) ha).trans (congrArg wd ctz64_zero)
    case ctz =>
      have hc := ctz64_spec ha
      rwa [toNat_wd_of_lt hc.1]
    case movK =>
      by_cases hi : i < 64
      · exact getLsbD_mergeBits _ _ _ _ hi
      · have hk : ¬(16 * k.toNat ≤ i ∧ i < 16 * k.toNat + 16) := by omega
        rw [if_neg hk, BitVec.getLsbD_of_ge _ _ (by omega), BitVec.getLsbD_of_ge _ _ (by omega)]

end Sys2Proof.Machine
end

section
/-! SUPPORT. Divisions (R79, R83): the result to come, and what the issue of a division leaves unchanged. -/

namespace Sys2Proof.Machine

/-! Quotients and remainders on numbers (R83). -/

theorem sdiv_eq_ofInt (a b : Word) : a.sdiv b = BitVec.ofInt 64 (a.toInt.tdiv b.toInt) :=
  BitVec.eq_of_toInt_eq (by rw [BitVec.toInt_sdiv, BitVec.toInt_ofInt])

theorem srem_eq_ofInt (a b : Word) : a.srem b = BitVec.ofInt 64 (a.toInt - a.toInt.tdiv b.toInt * b.toInt) := by
  rw [Int.mul_comm, ← Int.tmod_def, ← BitVec.toInt_srem, BitVec.ofInt_toInt]

theorem udiv_eq_wd (a b : Word) : a / b = wd (a.toNat / b.toNat) := by
  rw [← BitVec.toNat_udiv, wd_toNat]

theorem umod_eq_wd (a b : Word) : a % b = wd (a.toNat % b.toNat) := by
  rw [← BitVec.toNat_umod, wd_toNat]

theorem divRem_signed (a b : Word) : divRem true a b = (if b = 0 then allOnes else BitVec.ofInt 64 (a.toInt.tdiv b.toInt),
    if b = 0 then a else BitVec.ofInt 64 (a.toInt - a.toInt.tdiv b.toInt * b.toInt)) := by
  rw [← sdiv_eq_ofInt, ← srem_eq_ofInt, divRem]
  split <;> rfl

theorem divRem_unsigned (a b : Word) : divRem false a b = (if b = 0 then allOnes else wd (a.toNat / b.toNat),
    if b = 0 then a else wd (a.toNat % b.toNat)) := by
  rw [← udiv_eq_wd, ← umod_eq_wd, divRem]
  split <;> rfl

/-- A division that issues: its destination is tracked, its slot's divider is held, and its result is to come. -/
theorem runA_divSpec {s : State} {h : AHead} (hs : s.Issues h.neg h.grd) {o : AR} {signed quotient : Bool} {v : Word}
    (hv : (if quotient then (divRem signed (s.sval o.a) (s.sval o.b [o.a])).1
      else (divRem signed (s.sval o.a) (s.sval o.b [o.a])).2) = v) :
    runA h (divSpec o signed quotient) s =
      .next (((((s.onWord true).track o.d).1.modCore s.ctx.core fun k =>
          { k with divBusy := setBit k.divBusy s.ctx.slot true }).after
        (divLatency signed (s.sval o.a) (s.sval o.b [o.a]))
        (.divideComplete ⟨(s.onWord true).me, ((s.onWord true).track o.d).2, v.toNat, none⟩)).popAll
          (popsOf [o.a, o.b])) := by
  subst hv
  unfold runA
  rw [runWord_issues hs, WordSpec.perform]
  simp only [divSpec, State.sval_onWord hs.mode, scalarAcc_pops, if_true]
  rfl

/-! The frame. -/

theorem getLsbD_setBit_ne {n : Nat} (v : BitVec n) {i j : Nat} (b : Bool) (h : j ≠ i) :
    (setBit v i b).getLsbD j = v.getLsbD j := by
  have hone : (BitVec.ofNat n 1 <<< i).getLsbD j = false :=
    (BitVec.getLsbD_twoPow i j).trans (by simp [h.symm])
  cases b with
  | true => rw [setBit, if_pos rfl, BitVec.getLsbD_or, hone, Bool.or_false]
  | false =>
    rw [setBit, if_neg Bool.false_ne_true, BitVec.getLsbD_and, BitVec.getLsbD_not, hone]
    by_cases hj : j < n
    · simp [hj]
    · rw [BitVec.getLsbD_of_ge v j (by omega), Bool.false_and]

/-- The full/empty bits of scalar registers other than `r` are as before, and so is all else of the thread. -/
def Thread.MarksOnly (r : Nat) (t u : Thread) : Prop :=
  ∃ e, u = { t with sEmpty := e } ∧ ∀ x, x ≠ r → e.getLsbD x = t.sEmpty.getLsbD x

theorem Thread.MarksOnly.refl (r : Nat) (t : Thread) : t.MarksOnly r t := ⟨t.sEmpty, rfl, fun _ _ => rfl⟩

theorem Thread.MarksOnly.trans {r : Nat} {t u v : Thread} (h : t.MarksOnly r u) (g : u.MarksOnly r v) : t.MarksOnly r v := by
  obtain ⟨e, rfl, he⟩ := h
  obtain ⟨e', rfl, he'⟩ := g
  exact ⟨e', rfl, fun x hx => (he' x hx).trans (he x hx)⟩

/-- Marking the destination of a scalar field marks at most that register. -/
theorem Thread.marksOnly_mark_dest (s : State) (c : BitVec 5) (t : Thread) (e : Bool) :
    t.MarksOnly c.toNat (t.mark (s.dest c).2 e) := by
  unfold State.dest
  split
  · exact ⟨setBit t.sEmpty c.toNat e, rfl, fun x hx => getLsbD_setBit_ne _ _ hx⟩
  · exact .refl _ t

/-- What the issue of a division into register `r` changes (R79, R83): queues, the steps to come, the marks of that register
and its slot's divider. -/
structure State.OnlyDivision (s t : State) (r : Nat) : Prop where
  parts : t = { s with ctx := t.ctx, agenda := t.agenda, cores := t.cores }
  ctx : t.ctx = { s.ctx with org := t.ctx.org }
  others : s.SameOthers t s.ctx.core
  core : t.coreAt s.ctx.core = { s.coreAt s.ctx.core with
    threads := (t.coreAt s.ctx.core).threads
    queues := (t.coreAt s.ctx.core).queues
    divBusy := (t.coreAt s.ctx.core).divBusy }
  slots : ∀ sl, sl ≠ s.ctx.slot → t.threadAt s.ctx.core sl = s.threadAt s.ctx.core sl ∧
    (t.coreAt s.ctx.core).divBusy.getLsbD sl = (s.coreAt s.ctx.core).divBusy.getLsbD sl
  thread : ∀ th, s.threadAt s.ctx.core s.ctx.slot = some th →
    ∃ u, t.threadAt s.ctx.core s.ctx.slot = some u ∧ th.MarksOnly r u

theorem State.OnlyDivision.refl (s : State) (r : Nat) : s.OnlyDivision s r :=
  ⟨rfl, rfl, fun _ _ => rfl, rfl, fun _ _ => ⟨rfl, rfl⟩, fun th h => ⟨th, h, .refl r th⟩⟩

theorem State.OnlyDivision.trans {s t u : State} {r : Nat} (h : s.OnlyDivision t r) (g : t.OnlyDivision u r) :
    s.OnlyDivision u r := by
  obtain ⟨gparts, gctx, gothers, gcore, gslots, gthread⟩ := g
  have hc : t.ctx.core = s.ctx.core := by rw [h.ctx]
  have hsl : t.ctx.slot = s.ctx.slot := by rw [h.ctx]
  rw [hc] at gothers gcore gslots gthread
  rw [hsl] at gslots gthread
  constructor
  case parts =>
    rw [gparts]
    simp only
    rw [h.parts]
  case ctx =>
    rw [gctx]
    simp only
    rw [h.ctx]
  case others => exact fun k hk => (gothers k hk).trans (h.others k hk)
  case core =>
    rw [gcore]
    simp only
    rw [h.core]
  case slots =>
    exact fun sl hs => ⟨(gslots sl hs).1.trans (h.slots sl hs).1, (gslots sl hs).2.trans (h.slots sl hs).2⟩
  case thread =>
    intro th hth
    obtain ⟨v, hv, hmarks⟩ := h.thread th hth
    obtain ⟨w, hw, hmarks'⟩ := gthread v hv
    exact ⟨w, hw, hmarks.trans hmarks'⟩

theorem State.OnlyDivision.onWord (s : State) (a : Bool) (r : Nat) : s.OnlyDivision (s.onWord a) r :=
  ⟨rfl, rfl, fun _ _ => rfl, rfl, fun _ _ => ⟨rfl, rfl⟩, fun th h => ⟨th, h, .refl r th⟩⟩

theorem State.OnlyDivision.after (s : State) (n : Nat) (i : Instr) (r : Nat) : s.OnlyDivision (s.after n i) r :=
  ⟨rfl, rfl, fun _ _ => rfl, rfl, fun _ _ => ⟨rfl, rfl⟩, fun th h => ⟨th, h, .refl r th⟩⟩

theorem State.OnlyDivision.modQueue (s : State) (q : Nat) (f : Queue → Queue) (r : Nat) :
    s.OnlyDivision (s.modQueue s.ctx.core q f) r := by
  refine ⟨rfl, rfl, fun k hk => ?_, ?_, fun sl _ => ⟨s.threadAt_modQueue _ _ _ _ _, ?_⟩, fun th h => ⟨th, ?_, .refl r th⟩⟩
  · simp [State.modQueue, hk]
  · simp [State.modQueue]
  · simp [State.modQueue]
  · rwa [State.threadAt_modQueue]

theorem State.OnlyDivision.popAll (l : List Nat) (r : Nat) : ∀ s : State, s.OnlyDivision (s.popAll l) r := by
  induction l with
  | nil => exact fun s => .refl s r
  | cons q l ih => exact fun s => (State.OnlyDivision.modQueue s q _ r).trans (ih _)

theorem State.OnlyDivision.modCur (s : State) {r : Nat} {f : Thread → Thread} (hf : ∀ t, Thread.MarksOnly r t (f t)) :
    s.OnlyDivision (s.modCur f) r := by
  refine ⟨rfl, rfl, fun k hk => ?_, ?_, fun sl hs => ⟨?_, ?_⟩, fun th h => ⟨f th, ?_, hf th⟩⟩
  · simp [State.modCur, State.modThread, hk]
  · simp [State.modCur, State.modThread]
  · exact s.threadAt_modThread_ne _ _ _ _ _ fun hsame => hs hsame.2
  · simp [State.modCur, State.modThread]
  · rw [State.modCur, State.threadAt_modThread_same, h, Option.map_some]

/-- The divider of the issuing slot is taken. -/
theorem State.OnlyDivision.holdDivider (s : State) (r : Nat) :
    s.OnlyDivision (s.modCore s.ctx.core fun k => { k with divBusy := setBit k.divBusy s.ctx.slot true }) r := by
  refine ⟨rfl, rfl, fun k hk => ?_, ?_, fun sl hs => ⟨?_, ?_⟩, fun th h => ⟨th, ?_, .refl r th⟩⟩
  · simp [hk]
  · simp
  · simp
  · rw [State.coreAt_modCore_same, getLsbD_setBit_ne _ _ hs]
  · simpa using h

theorem State.OnlyDivision.dest (s : State) (c : BitVec 5) (r : Nat) : s.OnlyDivision (s.dest c).1 r := by
  unfold State.dest
  split
  · exact .refl s r
  · exact .modQueue s _ _ r

theorem State.OnlyDivision.track (s : State) (c : BitVec 5) : s.OnlyDivision (s.track c).1 c.toNat :=
  (State.OnlyDivision.dest s c _).trans (.modCur _ fun t => Thread.marksOnly_mark_dest s c t true)

theorem State.ctx_track (s : State) (c : BitVec 5) : (s.track c).1.ctx = { s.ctx with org := (s.track c).1.ctx.org } :=
  (State.OnlyDivision.track s c).ctx

theorem divSpec_onlyDivision (o : AR) (signed quotient : Bool) (s : State) :
    s.OnlyDivision ((divSpec o signed quotient).effect s) o.d.toNat := by
  have hheld := State.OnlyDivision.holdDivider (s.track o.d).1 o.d.toNat
  rw [State.ctx_track] at hheld
  exact (State.OnlyDivision.track s o.d).trans (hheld.trans (.after _ _ _ _))

/-- A division issues within its frame, whether its guard holds or not. -/
theorem runA_divSpec_onlyDivision {s t : State} {h : AHead} {o : AR} {signed quotient : Bool} (hm : s.ctx.mode = .commit)
    (ht : runA h (divSpec o signed quotient) s = .next t) : s.OnlyDivision t o.d.toNat := by
  rcases runWord_commit_cases hm ht with rfl | rfl
  · exact .onWord s true _
  · exact (State.OnlyDivision.onWord s true _).trans ((divSpec_onlyDivision o _ _ _).trans (.popAll _ _ _))

/-- Settles O4: quotient and remainder are those of the numbers, and every part of a division's issue is within the frame. -/
theorem divisionStartsAndFrame : Obligations.DivisionStartsAndFrame := by
  refine ⟨fun s h o hs => ?result, fun h o s t hm ht => ?frame⟩
  case result =>
    intro s1 a b na lat out
    exact ⟨runA_divSpec hs (congrArg Prod.fst (divRem_signed a b)), runA_divSpec hs (congrArg Prod.snd (divRem_signed a b)),
      runA_divSpec hs (congrArg Prod.fst (divRem_unsigned a b)), runA_divSpec hs (congrArg Prod.snd (divRem_unsigned a b))⟩
  case frame =>
    have hframe : s.OnlyDivision t o.d.toNat := by
      rcases ht with ht | ht | ht | ht <;> exact runA_divSpec_onlyDivision hm ht
    obtain ⟨hparts, -, hothers, hcore, hslots, hthread⟩ := hframe
    refine ⟨hparts, hothers, hcore, fun sl hsl => ⟨(hslots sl hsl).1, fun _ _ => (hslots sl hsl).2⟩, fun th hth => ?_⟩
    obtain ⟨u, hu, e, rfl, he⟩ := hthread th hth
    exact ⟨e, hu, he⟩

end Sys2Proof.Machine
end

section
/-! SUPPORT. Float vector words (R156, R157): lanes put together from a function are given one by one; and the special operands
of the approximations (R167). -/

namespace Sys2Proof.Machine

/-! Words whose result is put together from lanes (R147, R156). -/

/-- A vector word whose result is gathered from a function's lanes gives exactly those lanes. -/
theorem State.lanesGive_of_gather {s : State} {h : AHead} {i : Instr} {u : VecUse} {b n : Nat}
    {F : State → List Nat → Nat → Nat × Nat × BitVec 5} {f : Nat → Option (Nat × BitVec 5)} (hs : s.Issues h.neg h.grd)
    (hi : exec i s = runA h (vecSpec u F) s)
    (hF : F (s.onWord true) ((List.range u.srcs.length).map (s.vsrc u.srcs)) (s.vdst u) = gather n b f) :
    s.lanesGive i u b n f := by
  have hsrc : (s.onWord true).vsrc u.srcs = fun k => s.vsrc u.srcs k := funext (State.vsrc_onWord hs.mode true u.srcs)
  refine ⟨(gather n b f).1, (gather n b f).2.1, (gather n b f).2.2, ?_, gather_lane b f n, fun j => gather_flags b f j n⟩
  rw [hi, ← hF]
  unfold runA
  rw [runWord_issues hs, WordSpec.perform]
  simp only [vecSpec, vecUse_pops, State.vdst_onWord hs.mode, hsrc, popsOf_nil, ite_self]

section FloatWords
variable {s : State} {h : AHead} {i : Instr} {lat : Nat} (hs : s.Issues h.neg h.grd)
include hs

/-- A two-source float word applies its operation to the active lanes. -/
theorem State.lanesGive_vrFloat {o : VR} {acc : Bool} {g : Fmt → Nat → Nat → Nat → Nat → Nat × BitVec 5}
    (hi : exec i s = runA h (vrFloat o acc lat g) s) :
    s.lanesGive i (vrUse o false acc lat) (fltWidth o.w) (2 ^ o.g.toNat * laneCount (fltWidth o.w)) fun k =>
      if active (s.ctx.pre.mreg o.vm.toNat) (fltWidth o.w) k then
        some (g (fmtOf o.w.toNat) (effRM 7 s.ctx.pre.rm) (lane (s.vsrc (vrUse o false acc lat).srcs 0) (fltWidth o.w) k)
          (lane (s.vsrc (vrUse o false acc lat).srcs 1) (fltWidth o.w) k)
          (lane (s.vdst (vrUse o false acc lat)) (fltWidth o.w) k))
      else none := by
  unfold vrFloat at hi
  refine State.lanesGive_of_gather hs hi ?_
  simp only [State.view_onWord hs.mode]
  rfl

/-- A one-source float word applies its operation to the active lanes. -/
theorem State.lanesGive_vuFloat {o : VU} {g : Fmt → Nat → Nat × BitVec 5} (hi : exec i s = runA h (vuFloat o lat g) s) :
    s.lanesGive i (vuUse o false lat) (fltWidth o.w) (2 ^ o.g.toNat * laneCount (fltWidth o.w)) fun k =>
      if active (s.ctx.pre.mreg o.vm.toNat) (fltWidth o.w) k then
        some (g (fmtOf o.w.toNat) (lane (s.vsrc (vuUse o false lat).srcs 0) (fltWidth o.w) k))
      else none := by
  unfold vuFloat at hi
  refine State.lanesGive_of_gather hs hi ?_
  simp only [State.view_onWord hs.mode]
  rfl

end FloatWords

theorem lane_lt (v b k : Nat) : lane v b k < 2 ^ b := Nat.mod_lt _ (Nat.two_pow_pos b)

/-- Every format has a bit: a layout its sign bit, an integer type a whole byte. -/
theorem Fmt.width_fmtOf_pos (c : Nat) : 0 < (fmtOf c).width := by
  have hflt (eb mb bias : Nat) : 0 < (Fmt.flt eb mb bias).width := by
    show 0 < 1 + eb + mb
    omega
  have hint (signed : Bool) (k : Nat) : 0 < (Fmt.int signed (8 * 2 ^ k)).width :=
    Nat.mul_pos (by decide) (Nat.two_pow_pos k)
  unfold fmtOf
  (repeat' split) <;> simp only [hflt, hint]

/-- Inverting the top bit of a lane adds it, modulo the lane's width. -/
theorem xor_top_eq_add_mod {x b : Nat} (hb : 0 < b) (hx : x < 2 ^ b) :
    x ^^^ 2 ^ (b - 1) = (x + 2 ^ (b - 1)) % 2 ^ b := by
  obtain ⟨m, rfl⟩ : ∃ m, b = m + 1 := ⟨b - 1, by omega⟩
  rw [Nat.add_sub_cancel, Nat.add_comm]
  apply Nat.eq_of_testBit_eq
  intro j
  rw [Nat.testBit_xor, Nat.testBit_two_pow, Nat.testBit_mod_two_pow]
  rcases Nat.lt_trichotomy j m with hj | rfl | hj
  · rw [Nat.testBit_two_pow_add_gt hj, decide_eq_false (Nat.ne_of_gt hj), decide_eq_true (show j < m + 1 by omega),
      Bool.xor_false, Bool.true_and]
  · rw [Nat.testBit_two_pow_add_eq, decide_eq_true rfl, decide_eq_true (Nat.lt_succ_self j), Bool.xor_true, Bool.true_and]
  · have hxj : x.testBit j = false :=
      Nat.testBit_lt_two_pow (Nat.lt_of_lt_of_le hx (Nat.pow_le_pow_right (by decide) hj))
    rw [hxj, decide_eq_false (Nat.ne_of_lt hj), decide_eq_false (show ¬j < m + 1 by omega), Bool.xor_false, Bool.false_and]

theorem xor_top_lane (w : BitVec 2) (v k : Nat) :
    lane v (fltWidth w) k ^^^ 2 ^ ((fmtOf w.toNat).width - 1) =
      (lane v (fltWidth w) k + 2 ^ ((fmtOf w.toNat).width - 1)) % 2 ^ (fmtOf w.toNat).width :=
  xor_top_eq_add_mod (Fmt.width_fmtOf_pos _) (lane_lt _ _ _)

/-! Special operands of the approximations (R167). -/

section Special
variable {f : Fmt} {x : Nat}

theorem rcpLane_nan {g : Bool} (h : readFmt f false x = .nan g) :
    rcpLane f x = special f (.nan false) (if g then fNV else 0) := by
  simp only [rcpLane, h]
theorem rsqLane_nan {g : Bool} (h : readFmt f false x = .nan g) :
    rsqLane f x = special f (.nan false) (if g then fNV else 0) := by
  simp only [rsqLane, h]
theorem exp2Lane_nan {g : Bool} (h : readFmt f false x = .nan g) :
    exp2Lane f x = special f (.nan false) (if g then fNV else 0) := by
  simp only [exp2Lane, h]
theorem log2Lane_nan {g : Bool} (h : readFmt f false x = .nan g) :
    log2Lane f x = special f (.nan false) (if g then fNV else 0) := by
  simp only [log2Lane, h]

theorem rcpLane_inf {n : Bool} (h : readFmt f false x = .inf n) : rcpLane f x = special f (.fin n 0 0) 0 := by
  simp only [rcpLane, h]
theorem rsqLane_inf {n : Bool} (h : readFmt f false x = .inf n) :
    rsqLane f x = if n then special f (.nan false) fNV else special f (.fin false 0 0) 0 := by
  simp only [rsqLane, h]
theorem exp2Lane_inf {n : Bool} (h : readFmt f false x = .inf n) :
    exp2Lane f x = if n then special f (.fin false 0 0) 0 else special f (.inf false) 0 := by
  simp only [exp2Lane, h]
theorem log2Lane_inf {n : Bool} (h : readFmt f false x = .inf n) :
    log2Lane f x = if n then special f (.nan false) fNV else special f (.inf false) 0 := by
  simp only [log2Lane, h]

theorem rcpLane_zero {n : Bool} {e : Int} (h : readFmt f false x = .fin n 0 e) : rcpLane f x = special f (.inf n) fDZ := by
  simp only [rcpLane, h, if_true]
theorem rsqLane_zero {n : Bool} {e : Int} (h : readFmt f false x = .fin n 0 e) : rsqLane f x = special f (.inf n) fDZ := by
  simp only [rsqLane, h, if_true]
theorem log2Lane_zero {n : Bool} {e : Int} (h : readFmt f false x = .fin n 0 e) :
    log2Lane f x = special f (.inf true) fDZ := by
  simp only [log2Lane, h, if_true]

theorem rsqLane_negative {m : Nat} {e : Int} (h : readFmt f false x = .fin true m e) (hm : m ≠ 0) :
    rsqLane f x = special f (.nan false) fNV := by
  simp only [rsqLane, h, hm, if_true, if_false]
theorem log2Lane_negative {m : Nat} {e : Int} (h : readFmt f false x = .fin true m e) (hm : m ≠ 0) :
    log2Lane f x = special f (.nan false) fNV := by
  simp only [log2Lane, h, hm, if_true, if_false]

end Special

/-- The bits of the special results in the three float formats, with any flags. -/
theorem special_bits {ft : Nat} (h : ft < 3) (n : Bool) (fl : BitVec 5) :
    special (fmtOf ft) (.nan false) fl = (if ft = 0 then 0x7FC00000 else if ft = 1 then 0x7E00 else 0x7FC0, fl) ∧
    special (fmtOf ft) (.inf n) fl = ((if n then (if ft = 0 then 0x80000000 else 0x8000) +
      (if ft = 0 then 0x7F800000 else if ft = 1 then 0x7C00 else 0x7F80)
      else if ft = 0 then 0x7F800000 else if ft = 1 then 0x7C00 else 0x7F80), fl) ∧
    special (fmtOf ft) (.fin n 0 0) fl = ((if n then if ft = 0 then 0x80000000 else 0x8000 else 0), fl) := by
  obtain rfl | rfl | rfl : ft = 0 ∨ ft = 1 ∨ ft = 2 := by omega
  all_goals cases n <;> exact ⟨rfl, rfl, rfl⟩

/-- Settles O17: every lane is the scalar operation of its lanes, and the special results have the bits of their format. -/
theorem vectorFloatLanes : Obligations.VectorFloatLanes := by
  refine ⟨fun s h o q hs => ?lanes, fun ft x hft => ?special⟩
  case lanes =>
    intro t f b mode on two num c one
    refine ⟨?vaddF, ?vsubF, ?vmulF, ?vfma, ?vfms, ?vminF, ?vmaxF, ?vabsF, ?vnegF, ?vrcp, ?vrsq, ?vexp2, ?vlog2⟩
    case vaddF => exact (State.lanesGive_vrFloat (i := .vaddF h o) hs rfl :)
    case vsubF => exact (State.lanesGive_vrFloat (i := .vsubF h o) hs rfl :)
    case vmulF => exact (State.lanesGive_vrFloat (i := .vmulF h o) hs rfl :)
    case vfma => exact (State.lanesGive_vrFloat (i := .vfma h o) hs rfl :)
    case vfms => exact (State.lanesGive_vrFloat (i := .vfms h o) hs rfl :)
    case vminF => exact (State.lanesGive_vrFloat (i := .vminF h o) hs rfl :)
    case vmaxF => exact (State.lanesGive_vrFloat (i := .vmaxF h o) hs rfl :)
    case vabsF => exact (State.lanesGive_vuFloat (i := .vabsF h q) hs rfl :)
    case vrcp => exact (State.lanesGive_vuFloat (i := .vrcp h q) hs rfl :)
    case vrsq => exact (State.lanesGive_vuFloat (i := .vrsq h q) hs rfl :)
    case vexp2 => exact (State.lanesGive_vuFloat (i := .vexp2 h q) hs rfl :)
    case vlog2 => exact (State.lanesGive_vuFloat (i := .vlog2 h q) hs rfl :)
    case vnegF =>
      have hflip := State.lanesGive_vuFloat (i := .vnegF h q) hs rfl
      simp only [xor_top_lane] at hflip
      exact hflip
  case special =>
    intro f v nan inf top sgn
    have hnan (fl : BitVec 5) : special f (.nan false) fl = (nan, fl) := (special_bits hft false fl).1
    have hinf (n : Bool) (fl : BitVec 5) : special f (.inf n) fl = (sgn n inf, fl) := (special_bits hft n fl).2.1
    have hzero (n : Bool) (fl : BitVec 5) : special f (.fin n 0 0) fl = (sgn n 0, fl) := (special_bits hft n fl).2.2
    refine ⟨fun g hv => ?nan, fun n hv => ?inf, fun n e hv => ?zero, fun m e hv hm => ?negative⟩
    case nan =>
      simp only [List.forall_mem_cons, List.not_mem_nil, false_imp_iff, implies_true, and_true, rcpLane_nan hv,
        rsqLane_nan hv, exp2Lane_nan hv, log2Lane_nan hv, hnan]
      exact ⟨rfl, rfl, rfl, rfl⟩
    case inf =>
      rw [rcpLane_inf hv, rsqLane_inf hv, exp2Lane_inf hv, log2Lane_inf hv, hnan, hinf, hzero, hzero]
      cases n <;> exact ⟨rfl, rfl, rfl, rfl⟩
    case zero =>
      rw [rcpLane_zero hv, rsqLane_zero hv, log2Lane_zero hv, hinf, hinf]
      exact ⟨rfl, rfl, rfl⟩
    case negative =>
      rw [rsqLane_negative hv hm, log2Lane_negative hv hm, hnan]
      exact ⟨rfl, rfl⟩

end Sys2Proof.Machine
end

section
/-! SUPPORT. Vector results (R102, R147, R153) and the frame of the vector words: what a result to registers makes due, what a
result to a write stream reserves and queues, and what taking the operands and giving the result leave unchanged. -/

namespace Sys2Proof.Machine

/-! A result that is due to registers (R102, R147). -/

@[simp] theorem State.threadAt_addDue (s : State) (d : RegDst) (lat v m : Nat) (f : BitVec 5) (c sl : Nat) :
    (s.addDue d lat v m f).threadAt c sl = s.threadAt c sl := by
  simp [State.addDue]

@[simp] theorem State.view_addDue (s : State) (d : RegDst) (lat v m : Nat) (f : BitVec 5) :
    (s.addDue d lat v m f).view = s.view := by
  have hcur : (s.addDue d lat v m f).cur = s.cur := s.threadAt_addDue d lat v m f _ _
  unfold State.view
  rw [hcur]
  rfl

theorem State.due_addDue (s : State) (d : RegDst) (lat v m : Nat) (f : BitVec 5) :
    ((s.addDue d lat v m f).coreAt s.ctx.core).due =
      (s.coreAt s.ctx.core).due ++ [⟨s.ctx.slot, s.view.tid, keptDst d, v, m, s.cycle + lat, f⟩] := by
  simp [State.addDue]

/-- Results made due one after the other leave threads and scratchpads, and stand after those already due, in order. -/
theorem State.foldl_addDue {α : Type} (d : α → RegDst) (lat : Nat) (v m : α → Nat) (f : α → BitVec 5) (l : List α) (s : State) :
    let t := l.foldl (fun s i => s.addDue (d i) lat (v i) (m i) (f i)) s
    t.threadAt = s.threadAt ∧ t.spad = s.spad ∧
    (t.coreAt s.ctx.core).due = (s.coreAt s.ctx.core).due ++
      l.map fun i => ⟨s.ctx.slot, s.view.tid, keptDst (d i), v i, m i, s.cycle + lat, f i⟩ := by
  induction l generalizing s with
  | nil => exact ⟨rfl, rfl, (List.append_nil _).symm⟩
  | cons i l ih =>
    obtain ⟨hthreads, hspad, hdue⟩ := ih (s.addDue (d i) lat (v i) (m i) (f i))
    refine ⟨hthreads.trans (funext fun c => funext fun sl => s.threadAt_addDue _ _ _ _ _ c sl), hspad, hdue.trans ?_⟩
    rw [State.view_addDue]
    exact (congrArg (· ++ _) (s.due_addDue _ _ _ _ _)).trans (List.append_assoc _ _ _)

/-- A group none of whose registers is bound stands for no stream. -/
theorem State.streamOf_of_unbound {s : State} {r n : Nat} (h : s.boundReg r = none) : s.streamOf (r, n) = none := by
  unfold State.streamOf
  split
  · exact h
  · rfl

theorem State.vresult_of_registers {s : State} {u : VecUse} {g : Nat × Nat} (hu : u.dst = some g) (hs : s.streamOf g = none)
    (val mask : Nat) (fl : BitVec 5) : s.vresult u val mask fl = (List.range g.2).foldl (fun s i =>
      s.addDue (.vreg (g.1 + i)) u.lat (val / 2 ^ (512 * i) % 2 ^ 512) (mask / 2 ^ (512 * i) % 2 ^ 512)
        (if i = 0 then fl else 0)) s := by
  simp only [State.vresult, hu, hs]

/-! A result that is pushed (R153). -/

/-- The push's entry and granule are taken, its flags are due, and it is queued when the result is due. -/
theorem State.vresult_of_stream {s : State} {u : VecUse} {g : Nat × Nat} {x : Stream} (hu : u.dst = some g)
    (hs : s.streamOf g = some x) (hm : s.ctx.mode = .commit) (val mask : Nat) (fl : BitVec 5) :
    s.vresult u val mask fl = (((s.reservePush g.1).addDue .none u.lat 0 0 fl).after u.lat
      (.streamPushQueued s.me s.ctx.org g.1 ⟨x.off x.pos, x.noundo, if x.tagx then none else some x.tag⟩
        (BitVec.ofNat 512 val) (byteMask mask))) := by
  have hme : (s.reservePush g.1).me = s.me := by
    simp only [State.me, State.view_of_commit hm, State.view_of_commit (s := s.reservePush g.1) hm]
    rfl
  simp only [State.vresult, hu, hs, hme]
  rfl

theorem State.cur_reservePush {s : State} {r : Nat} {th : Thread} {y : Stream} (hc : s.cur = some th)
    (hy : vget none th.streams (r - 28) = some y) :
    (s.reservePush r).cur = some (th.setStream r (some { y with pos := y.pos + 1, pushes := y.pushes + 1 })) := by
  have hat : s.threadAt s.ctx.core s.ctx.slot = some th := hc
  refine (s.threadAt_modThread_same _ _ _).trans ?_
  rw [hat, Option.map_some, hy]

/-! The frame (R102, R153). -/

/-- The streams of a thread and the count of its local accesses may differ; nothing else of it does. -/
def Thread.OnlyStreams (t u : Thread) : Prop := ∃ x n, u = { t with streams := x, localOut := n }

theorem Thread.OnlyStreams.refl (t : Thread) : t.OnlyStreams t := ⟨t.streams, t.localOut, rfl⟩

theorem Thread.OnlyStreams.trans {t u v : Thread} (h : t.OnlyStreams u) (g : u.OnlyStreams v) : t.OnlyStreams v := by
  obtain ⟨x, n, rfl⟩ := h
  obtain ⟨x', n', rfl⟩ := g
  exact ⟨x', n', rfl⟩

theorem Thread.OnlyStreams.setStream (t : Thread) (r : Nat) (x : Option Stream) : t.OnlyStreams (t.setStream r x) :=
  ⟨_, t.localOut, rfl⟩

/-- The times of the local access queue and of the vector unit may differ; nothing else of the core does. -/
def Core.OnlyUnits (k l : Core) : Prop :=
  l = { k with localFree := l.localFree, localAt := l.localAt, vecUntil := l.vecUntil }

/-- What a vector word changes at issue: steps to come, queue entries, results due, the local access queue and the vector
unit of its core, and its thread's streams and count of local accesses. -/
structure State.OnlyVector (s t : State) : Prop where
  parts : t = { s with ctx := t.ctx, agenda := t.agenda, cores := t.cores }
  ctx : t.ctx = { s.ctx with org := t.ctx.org }
  others : s.SameOthers t s.ctx.core
  core : t.coreAt s.ctx.core = { s.coreAt s.ctx.core with
    threads := (t.coreAt s.ctx.core).threads
    queues := (t.coreAt s.ctx.core).queues
    due := (t.coreAt s.ctx.core).due
    localFree := (t.coreAt s.ctx.core).localFree
    localAt := (t.coreAt s.ctx.core).localAt
    vecUntil := (t.coreAt s.ctx.core).vecUntil }
  slots : ∀ sl, sl ≠ s.ctx.slot → t.threadAt s.ctx.core sl = s.threadAt s.ctx.core sl
  thread : ∀ th, s.threadAt s.ctx.core s.ctx.slot = some th →
    ∃ u, t.threadAt s.ctx.core s.ctx.slot = some u ∧ th.OnlyStreams u

namespace State.OnlyVector

theorem refl (s : State) : s.OnlyVector s := ⟨rfl, rfl, fun _ _ => rfl, rfl, fun _ _ => rfl, fun th h => ⟨th, h, .refl th⟩⟩

theorem trans {s t u : State} (h : s.OnlyVector t) (g : t.OnlyVector u) : s.OnlyVector u := by
  obtain ⟨gparts, gctx, gothers, gcore, gslots, gthread⟩ := g
  have hc : t.ctx.core = s.ctx.core := by rw [h.ctx]
  have hsl : t.ctx.slot = s.ctx.slot := by rw [h.ctx]
  rw [hc] at gothers gcore gslots gthread
  rw [hsl] at gslots gthread
  constructor
  case parts =>
    rw [gparts]
    simp only
    rw [h.parts]
  case ctx =>
    rw [gctx]
    simp only
    rw [h.ctx]
  case others => exact fun k hk => (gothers k hk).trans (h.others k hk)
  case core =>
    rw [gcore]
    simp only
    rw [h.core]
  case slots => exact fun sl hne => (gslots sl hne).trans (h.slots sl hne)
  case thread =>
    intro th hth
    obtain ⟨v, hv, hstreams⟩ := h.thread th hth
    obtain ⟨w, hw, hstreams'⟩ := gthread v hv
    exact ⟨w, hw, hstreams.trans hstreams'⟩

theorem of_onlyResults {s t : State} (h : s.OnlyResults t) : s.OnlyVector t := by
  obtain ⟨hparts, hctx, hothers, hcore⟩ := h
  have hthreads : (t.coreAt s.ctx.core).threads = (s.coreAt s.ctx.core).threads := by rw [hcore]
  have hat (sl : Nat) : t.threadAt s.ctx.core sl = s.threadAt s.ctx.core sl := congrArg (tget · sl) hthreads
  refine ⟨hparts, hctx, hothers, ?_, fun sl _ => hat sl, fun th hth => ⟨th, (hat _).trans hth, .refl th⟩⟩
  rw [hcore]

theorem addStep (s : State) (c : Nat) (e : Ev) : s.OnlyVector (s.at c e) :=
  ⟨rfl, rfl, fun _ _ => rfl, rfl, fun _ _ => rfl, fun th h => ⟨th, h, .refl th⟩⟩

theorem modCur (s : State) {f : Thread → Thread} (hf : ∀ t, Thread.OnlyStreams t (f t)) : s.OnlyVector (s.modCur f) := by
  refine ⟨rfl, rfl, fun k hk => ?_, ?_, fun sl hne => ?_, fun th hth => ⟨f th, ?_, hf th⟩⟩
  · exact State.coreAt_modCore_ne _ _ _ _ hk
  · simp only [State.modCur, State.modThread, State.coreAt_modCore_same]
  · exact s.threadAt_modThread_ne _ _ _ _ _ fun hsame => hne hsame.2
  · rw [State.modCur, State.threadAt_modThread_same, hth, Option.map_some]

theorem modUnits (s : State) {f : Core → Core} (hf : ∀ k, Core.OnlyUnits k (f k)) :
    s.OnlyVector (s.modCore s.ctx.core f) := by
  have hthreads : (f (s.coreAt s.ctx.core)).threads = (s.coreAt s.ctx.core).threads := by rw [hf]
  have hat (sl : Nat) : (s.modCore s.ctx.core f).threadAt s.ctx.core sl = s.threadAt s.ctx.core sl :=
    s.threadAt_modCore_keep _ _ _ _ hthreads
  refine ⟨rfl, rfl, fun k hk => ?_, ?_, fun sl _ => hat sl, fun th hth => ⟨th, (hat _).trans hth, .refl th⟩⟩
  · exact State.coreAt_modCore_ne _ _ _ _ hk
  · rw [State.coreAt_modCore_same, hf]

theorem holdVectorUnit (s : State) (n : Nat) : s.OnlyVector (s.modCore s.ctx.core fun k => { k with vecUntil := n }) :=
  modUnits s fun _ => rfl

theorem foldl {α : Type} {f : State → α → State} (hf : ∀ s a, State.OnlyVector s (f s a)) (l : List α) :
    ∀ s : State, s.OnlyVector (l.foldl f s) := by
  induction l with
  | nil => exact refl
  | cons a l ih => exact fun s => (hf s a).trans (ih _)

theorem addDue (s : State) (d : RegDst) (lat v m : Nat) (f : BitVec 5) : s.OnlyVector (s.addDue d lat v m f) :=
  of_onlyResults (.addDue s d lat v m f)

/-- A local access of the issuing thread takes a place in the queue, and is counted at its thread. -/
theorem localAccess (s : State) (off : Nat) (noundo : Bool) (op : LocalOp) : s.OnlyVector (s.localAccess off noundo op) := by
  have hcount (t : Thread) : t.OnlyStreams (if t.tid == s.me.tid then { t with localOut := t.localOut + 1 } else t) := by
    split
    · exact ⟨t.streams, _, rfl⟩
    · exact .refl t
  have hslots : s.OnlyVector (s.takeSlots s.ctx.core 1) := modUnits s fun _ => rfl
  exact hslots.trans ((addStep _ _ _).trans (modCur _ hcount))

theorem queueStreamRead (s : State) (r i : Nat) (x : Stream) : s.OnlyVector (s.queueStreamRead r i x) := by
  unfold State.queueStreamRead
  split
  · exact localAccess s _ _ _
  · exact refl s

theorem popStream (s : State) (r : Nat) : s.OnlyVector (s.popStream r) := by
  unfold State.popStream
  split
  · exact refl s
  · exact (modCur s fun t => .setStream t r _).trans (queueStreamRead _ _ _ _)

theorem take (u : VecUse) (s : State) : s.OnlyVector (u.take s) := by
  have hpop (s : State) (g : Nat × Nat) :
      s.OnlyVector (match s.streamOf g with | some _ => s.popStream g.1 | none => s) := by
    split
    · exact popStream s g.1
    · exact refl s
  have hpops := foldl hpop u.srcs s
  unfold VecUse.take
  split
  · exact hpops
  · exact hpops.trans ((holdVectorUnit _ _).trans (addStep _ _ _))

theorem reservePush (s : State) (r : Nat) : s.OnlyVector (s.reservePush r) := by
  refine modCur s fun t => ?_
  split
  · exact .setStream t r _
  · exact .refl t

theorem vresult (s : State) (u : VecUse) (val mask : Nat) (fl : BitVec 5) : s.OnlyVector (s.vresult u val mask fl) := by
  unfold State.vresult
  split
  · exact refl s
  · split
    · exact (reservePush s _).trans ((addDue _ _ _ _ _ _).trans (addStep _ _ _))
    · exact foldl (fun s _ => addDue s _ _ _ _ _) _ s

theorem cur {s t : State} (h : s.OnlyVector t) {th : Thread} (hc : s.cur = some th) :
    ∃ x n, t.cur = some { th with streams := x, localOut := n } := by
  obtain ⟨u, hu, x, n, rfl⟩ := h.thread th hc
  refine ⟨x, n, ?_⟩
  rw [State.cur, h.ctx]
  exact hu

theorem sameMemory {s t : State} (h : s.OnlyVector t) : s.SameMemory t := by
  have htiles (c : Nat) : (t.coreAt c).tiles = (s.coreAt c).tiles := by
    by_cases hc : c = s.ctx.core
    · rw [hc, h.core]
    · rw [h.others c hc]
  constructor
  case tiles => exact htiles
  all_goals rw [h.parts]

end State.OnlyVector

/-! The words. -/

/-- A word specification whose effect stays within the frame of the vector words. -/
def WordSpec.OnlyVector (w : WordSpec) : Prop := ∀ s : State, s.OnlyVector (w.effect s)

theorem vecSpec_onlyVector (u : VecUse) (f : State → List Nat → Nat → Nat × Nat × BitVec 5) : (vecSpec u f).OnlyVector :=
  fun s => (State.OnlyVector.take u s).trans (.vresult _ _ _ _ _)

theorem vrFloat_onlyVector (o : VR) (acc : Bool) (lat : Nat) (f : Fmt → Nat → Nat → Nat → Nat → Nat × BitVec 5) :
    (vrFloat o acc lat f).OnlyVector := by
  unfold vrFloat
  exact vecSpec_onlyVector _ _
theorem vrInt_onlyVector (o : VR) (f : Nat → Nat → Nat → Nat) : (vrInt o f).OnlyVector := by
  unfold vrInt
  exact vecSpec_onlyVector _ _
theorem vuFloat_onlyVector (o : VU) (lat : Nat) (f : Fmt → Nat → Nat × BitVec 5) : (vuFloat o lat f).OnlyVector := by
  unfold vuFloat
  exact vecSpec_onlyVector _ _
theorem vuInt_onlyVector (o : VU) (f : Nat → Nat → Nat) : (vuInt o f).OnlyVector := by
  unfold vuInt
  exact vecSpec_onlyVector _ _

/-- A scalar field beside the group changes what the word reads, not its effect. -/
theorem vecSpec_acc_onlyVector (u : VecUse) (f : State → List Nat → Nat → Nat × Nat × BitVec 5) (acc : State → Access) :
    WordSpec.OnlyVector { vecSpec u f with acc := acc } := vecSpec_onlyVector u f

theorem vcmpSpec_onlyVector (o : VC) (b n : Nat) (f : Nat → Nat → Bool × BitVec 5) : (vcmpSpec o b n f).OnlyVector :=
  fun s => (State.OnlyVector.take _ s).trans (.addDue _ _ _ _ _ _)

theorem maskSpec_onlyVector (md : BitVec 3) (ms : List Nat) (f : Thread → Word) : (maskSpec md ms f).OnlyVector :=
  fun s => .addDue s _ _ _ _ _

/-- An A-word of such a specification stays within the frame, whether its guard holds or not. -/
theorem runA_onlyVector {s t : State} {h : AHead} {w : WordSpec} (hw : w.OnlyVector) (hm : s.ctx.mode = .commit)
    (ht : runA h w s = .next t) : s.OnlyVector t := by
  have hword : s.OnlyVector (s.onWord true) := .of_onlyResults (.onWord s true)
  rcases runWord_commit_cases hm ht with rfl | rfl
  · exact hword
  · exact hword.trans ((hw _).trans (.of_onlyResults (.popAll _ _)))

/-- Every vector and lane-mask word stays within the frame: it takes its operands, and gives a group, a lane mask or a scalar
register its result. -/
theorem exec_onlyVector {i : Instr} {s t : State} (hi : vectorWord i = true) (hm : s.ctx.mode = .commit)
    (ht : exec i s = .next t) : s.OnlyVector t := by
  cases i with
  | vaddF h o | vsubF h o | vmulF h o | vfma h o | vfms h o | vminF h o | vmaxF h o =>
    exact runA_onlyVector (vrFloat_onlyVector o _ _ _) hm ht
  | vaddI h o | vsubI h o | vmulI h o | vminS h o | vminN h o | vmaxS h o | vmaxN h o | vand h o | vor h o | vxor h o
  | vshl h o | vshr h o | vsra h o => exact runA_onlyVector (vrInt_onlyVector o _) hm ht
  | vabsF h o | vnegF h o | vrcp h o | vrsq h o | vexp2 h o | vlog2 h o =>
    exact runA_onlyVector (vuFloat_onlyVector o _ _) hm ht
  | vabsI h o | vnegI h o | vmov h o => exact runA_onlyVector (vuInt_onlyVector o _) hm ht
  | vsel h o | vperm h o | vcompress h o | vexpand h o | vred h o | vcvt h o | vpackbx h o | vunpbx h o =>
    exact runA_onlyVector (vecSpec_onlyVector _ _) hm ht
  | vbcast h v x w | vins h o => exact runA_onlyVector (vecSpec_acc_onlyVector _ _ _) hm ht
  | vcmpF h o | vcmpI h o => exact runA_onlyVector (vcmpSpec_onlyVector o _ _ _) hm ht
  | mand h md ma mb | mor h md ma mb | mnot h md ma => exact runA_onlyVector (maskSpec_onlyVector md _ _) hm ht
  | vext h x v l w =>
    exact runA_onlyVector (fun s => (State.OnlyVector.take _ s).trans (.of_onlyResults (.result _ _ _ _ _))) hm ht
  | mpop h sd ma => exact runA_onlyVector (fun s => .of_onlyResults (.result s _ _ _ _)) hm ht
  | _ => cases hi

/-- Settles O20: a result is due to its registers or pushed to its stream, and every word stays within the frame. -/
theorem vectorResultAndFrame : Obligations.VectorResultAndFrame := by
  refine ⟨fun s u r n val mask fl hu => ⟨fun _ hr => ?registers, fun x y th hn hlo hhi hx hc hm hy => ?push⟩,
    fun i s t hi hm ht => ?frame⟩
  case registers =>
    rw [State.vresult_of_registers hu (State.streamOf_of_unbound hr)]
    exact State.foldl_addDue _ _ _ _ _ _ _
  case push =>
    subst hn
    rw [State.vresult_of_stream hu (x := x) hx hm]
    refine ⟨_, (State.threadAt_addDue _ _ _ _ _ _ _ _).trans (State.cur_reservePush hc hy), ?_, mem_agendaInsert _ _ _⟩
    exact vget_vset_same _ _ _ _ (by omega)
  case frame =>
    have h := exec_onlyVector hi hm ht
    exact ⟨h.sameMemory, h.others, h.slots, fun th hth => h.cur hth, h.parts, h.core⟩

end Sys2Proof.Machine
end

section
/-! SUPPORT. Queues, the threads of a core and monitors (R117, R232–R238): what each of their words does where it issues. -/

namespace Sys2Proof.Machine

/-- A C-word that issues does its effect, then its pops. -/
theorem runC_does {s t : State} {h : CHead} {w : WordSpec} {pops : List Nat} (hs : s.Issues h.neg h.grd)
    (htakes : w.takes (s.onWord false) = true) (hpops : (w.acc (s.onWord false)).pops = pops)
    (heffect : w.effect (s.onWord false) = t) : runC h w s = .next (t.popAll pops) := by
  rw [runC, runWord_issues hs, WordSpec.perform, htakes, if_pos rfl, hpops, heffect]

/-- While both words act, the reference of the issuing thread is that of the thread at issue. -/
theorem State.me_congr {s t : State} (hm : s.ctx.mode = .commit) (hc : t.ctx = { s.ctx with org := t.ctx.org }) :
    t.me = s.me := by
  have hmt : t.ctx.mode = .commit := by rw [hc]; exact hm
  rw [State.me, State.me, State.view_of_commit hm, State.view_of_commit hmt, hc]

/-- The segment set of a domain whose set its core has cached. -/
theorem State.segSet_of_cached {s : State} {c pdid : Nat} {l : List Seg} (hv : (s.domAt pdid).v = true)
    (hl : tget (s.coreAt c).segCache pdid = some l) : s.segSet c pdid = (s, some l) := by
  simp only [State.segSet, hv, hl, Bool.not_true, Bool.false_eq_true, if_false]

section Words
variable {s : State} {h : CHead} (hs : s.Issues h.neg h.grd)
include hs

/-! Queues and slots (R117, R233–R235). -/

theorem exec_qcfg (q : BitVec 4) (b : BitVec 5) : exec (.qcfg h q b) s = .next
    (((s.onWord false).modQueue s.ctx.core q.toNat fun x =>
      { x with cfg := s.sval b, entries := x.entries.filter (·.2.isNone) }).popAll (popsOf [b])) := by
  refine runC_does hs rfl rfl ?_
  simp only [State.sval_onWord hs.mode]
  rfl

theorem exec_spawn_full (a b c : BitVec 5) (hfree : s.curCore.freeSlot = none) : exec (.spawn h a b c) s = .next
    (((s.onWord false).resultTracked a 2 allOnes).popAll (popsOf [b, c])) := by
  refine runC_does hs rfl rfl ?_
  simp only [State.onWord_curCore, hfree]

theorem exec_spawn_placed (a b c : BitVec 5) {sl : Nat} {set : List Seg} (hfree : s.curCore.freeSlot = some sl)
    (hv : (s.domAt s.ctx.pre.pdid).v = true) (hset : tget s.curCore.segCache s.ctx.pre.pdid = some set) :
    exec (.spawn h a b c) s = .next
      ((((((s.onWord false).newTid s.ctx.core).1.setThread s.ctx.core sl
        (s.ctx.pre.spawned (s.newTid s.ctx.core).2 ((s.sval b).setWidth 32) (s.sval c [b]) (segRegs set) s.cycle)).modTask
          s.ctx.pre.task fun k => { k with live := k.live + 1 }).resultTracked a 2 (wd sl)).popAll (popsOf [b, c])) := by
  have hcached : (s.onWord false).segSet s.ctx.core s.ctx.pre.pdid = (s.onWord false, some set) :=
    State.segSet_of_cached hv hset
  refine runC_does hs rfl rfl ?_
  simp only [State.onWord_curCore, hfree, State.view_onWord hs.mode, State.sval_onWord hs.mode, State.onWord_core, hcached]
  rfl

theorem exec_wake (a : BitVec 5) : exec (.wake h a) s = .next
    (((s.onWord false).modThread s.ctx.core ((s.sval a).toNat % 16) fun u =>
      if u.run = .halted then { u with run := .running, earliest := Nat.max u.earliest (s.cycle + 1) } else u).popAll
        (popsOf [a])) := by
  refine runC_does hs rfl rfl ?_
  simp only [State.sval_onWord hs.mode, wbits_zero, beq_iff_eq]
  rfl

theorem exec_halt : exec (.halt h) s = .next
    (((s.onWord false).modCur fun u => { u with run := .halted }).leaveComb s.ctx.core s.ctx.slot) :=
  runC_does (pops := []) hs rfl rfl rfl

/-! Monitors (R236–R238). -/

theorem exec_marm (n : BitVec 2) (m : MemR) {x : Word} (hx : s.check (s.refR m) 1 true false 1 = .ok x)
    (hlocal : s.isLocal x = true) : exec (.marm h n m) s = .next
      (((s.onWord false).localAccess (x.toNat % 2 ^ 20) false (.arm n.toNat)).popAll (popsOf [m.idx])) := by
  have hcheck : (s.onWord false).check ((s.onWord false).refR m) 1 true false 1 = .ok x := by
    rw [State.check_onWord hs.mode, State.refR_onWord hs.mode, hx]
  have hhere : (s.onWord false).isLocal x = true := by
    rw [State.isLocal, State.homeOf_onWord]
    exact hlocal
  refine runC_does hs rfl rfl ?_
  simp only [LocalUse.spec, LocalUse.addr, hcheck, addrOf, hhere, if_true, offOf, wbits_zero]

theorem exec_mdisarm (n : BitVec 2) : exec (.mdisarm h n) s = .next ((s.onWord false).modCur fun u => { u with
    mon := vset u.mon n.toNat { vget ⟨false, 0, false⟩ u.mon n.toNat with armed := false, pend := false } }) :=
  runC_does (pops := []) hs rfl rfl rfl

/-- An `mwait` that completes: the wait and the events are over, and their bits, or bit 63 if none came, are due where the
first issue said. -/
theorem exec_mwait (a b : BitVec 5) {r : State × RegDst} (hr : (s.onWord false).mwaitDest a = r)
    (hctx : r.1.ctx = { s.ctx with org := r.1.ctx.org }) : exec (.mwait h a b) s = .next
      (((r.1.modCur fun u => { u with
          mwait := none
          mon := if s.ctx.pre.pends = 0 then u.mon else u.mon.map fun x => { x with pend := false } }).after 2
        (.trackedRegisterWrite ⟨s.me, r.2, if s.ctx.pre.pends = 0 then 2 ^ 63 else s.ctx.pre.pends, none⟩)).popAll
          (popsOf [b])) := by
  refine runC_does hs rfl rfl ?_
  have hme (f : Thread → Thread) : (r.1.modCur f).me = s.me := State.me_congr hs.mode hctx
  simp only [hr, State.view_onWord hs.mode, hme, bne_iff_ne, ne_eq, ite_not]

theorem exec_mwait_first (a b : BitVec 5) (hw : s.ctx.pre.mwait = none) :
    let d := (s.onWord false).track a
    exec (.mwait h a b) s = .next (((d.1.modCur fun u => { u with
        mwait := none
        mon := if s.ctx.pre.pends = 0 then u.mon else u.mon.map fun x => { x with pend := false } }).after 2
      (.trackedRegisterWrite ⟨s.me, d.2, if s.ctx.pre.pends = 0 then 2 ^ 63 else s.ctx.pre.pends, none⟩)).popAll
        (popsOf [b])) := by
  refine exec_mwait hs a b ?_ (State.ctx_track (s.onWord false) a)
  rw [State.mwaitDest, State.view_onWord hs.mode, hw]

theorem exec_mwait_again (a b : BitVec 5) {dl : Option Nat} {dst : RegDst} (hw : s.ctx.pre.mwait = some (dl, dst)) :
    exec (.mwait h a b) s = .next ((((s.onWord false).modCur fun u => { u with
        mwait := none
        mon := if s.ctx.pre.pends = 0 then u.mon else u.mon.map fun x => { x with pend := false } }).after 2
      (.trackedRegisterWrite ⟨s.me, dst, if s.ctx.pre.pends = 0 then 2 ^ 63 else s.ctx.pre.pends, none⟩)).popAll
        (popsOf [b])) := by
  refine exec_mwait hs a b (r := (s.onWord false, dst)) ?_ rfl
  rw [State.mwaitDest, State.view_onWord hs.mode, hw]

end Words

/-! The steps of timers and deadlines (R232, R238). -/

theorem queueTimerTick_pushes {s : State} (hv : ((s.coreAt s.subj.core).queue s.subj.n).cfg.getLsbD 8 = true)
    (heng : ((s.coreAt s.subj.core).queue s.subj.n).eng = 1)
    (hcyc : s.cycle % (((s.coreAt s.subj.core).queue s.subj.n).cfg.toNat / 2 ^ 32) = 0) :
    exec .queueTimerTick s = .next (s.modQueue s.subj.core s.subj.n (·.pushFull (wd s.cycle))) := by
  have hperiod : wbits ((s.coreAt s.subj.core).queue s.subj.n).cfg 32 32 =
      ((s.coreAt s.subj.core).queue s.subj.n).cfg.toNat / 2 ^ 32 :=
    Nat.mod_eq_of_lt (Nat.div_lt_of_lt_mul (BitVec.isLt _))
  show execQueueTimerTick s = _
  rw [execQueueTimerTick, if_pos]
  rw [Queue.valid, hv, heng, hperiod, hcyc]
  rfl

theorem mwaitDeadline_eq (s : State) : exec .mwaitDeadline s = .next (s.modThread s.subj.core s.subj.slot fun u =>
    match u.mwait with
    | some (some dl, _) => if dl ≤ s.cycle then { u with parked := false } else u
    | _ => u) := by
  have hover (u : Thread) : (if u.mwaitOver s.cycle then { u with parked := false } else u) =
      match u.mwait with
      | some (some dl, _) => if dl ≤ s.cycle then { u with parked := false } else u
      | _ => u := by
    unfold Thread.mwaitOver
    rcases u.mwait with _ | ⟨_ | dl, dst⟩ <;> simp only [decide_eq_true_eq, Bool.false_eq_true, if_false]
  exact congrArg (fun f => Host.Outcome.next (s.modThread s.subj.core s.subj.slot f)) (funext hover)

/-! The events of an `mwait` (R238). -/

/-- The sum of the powers of two that a predicate picks below `n` has exactly their bits. -/
theorem testBit_sum_two_pow (p : Nat → Bool) (n : Nat) :
    let v := (List.range n).foldl (fun m i => if p i then m + 2 ^ i else m) 0
    v < 2 ^ n ∧ ∀ i, v.testBit i = true ↔ i < n ∧ p i = true := by
  induction n with
  | zero => simp
  | succ n ih =>
    obtain ⟨hlt, hbits⟩ := ih
    simp only [List.range_succ, List.foldl_append, List.foldl_cons, List.foldl_nil]
    generalize (List.range n).foldl (fun m i => if p i then m + 2 ^ i else m) 0 = v at hlt hbits
    cases hp : p n with
    | false =>
      refine ⟨by simp only [Bool.false_eq_true, if_false]; omega, fun i => ?_⟩
      rw [if_neg Bool.false_ne_true, hbits]
      grind
    | true =>
      have hor : v + 2 ^ n = 2 ^ n ||| v := by
        have := Nat.two_pow_add_eq_or_of_lt hlt 1
        rwa [Nat.mul_one, Nat.add_comm] at this
      refine ⟨by rw [if_pos rfl]; omega, fun i => ?_⟩
      rw [if_pos rfl, hor, Nat.testBit_or, Nat.testBit_two_pow, Bool.or_eq_true, decide_eq_true_eq, hbits]
      grind

theorem Thread.testBit_pends (t : Thread) (i : Nat) :
    t.pends.testBit i = true ↔ i < 4 ∧ (vget ⟨false, 0, false⟩ t.mon i).pend = true :=
  (testBit_sum_two_pow (fun i => (vget (⟨false, 0, false⟩ : Mon) t.mon i).pend) 4).2 i

/-- Settles O30: each word's next state, the timer's tick, the deadline, and the bits an `mwait` answers. -/
theorem queuesMonitorsThreads : Obligations.QueuesMonitorsThreads := by
  intro s h q n a b c m x sl set hs
  refine ⟨exec_qcfg hs q b, ?tick, exec_spawn_full hs a b c, ?placed, exec_wake hs a, exec_halt hs, exec_marm hs n m,
    exec_mdisarm hs n, exec_mwait_first hs a b, fun dl dst => exec_mwait_again hs a b, s.ctx.pre.testBit_pends,
    mwaitDeadline_eq s⟩
  case tick => exact queueTimerTick_pushes
  case placed => exact fun hfree hv hset => exec_spawn_placed hs a b c hfree hv hset

end Sys2Proof.Machine
end

section
/-! SUPPORT. Integer vector words (R146–R148, R156, R158): every active lane is the operation on its lanes, and an order of
lanes is the order of the numbers they stand for. -/

namespace Sys2Proof.Machine

/-! The smaller and the larger of two lanes (R156). -/

/-- Lanes of one width that stand for the same signed number are the same. -/
theorem eq_of_sintOf_eq {x y b : Nat} (hx : x < 2 ^ b) (hy : y < 2 ^ b) (h : sintOf x b = sintOf y b) : x = y := by
  unfold sintOf at h
  rw [Nat.mod_eq_of_lt hx, Nat.mod_eq_of_lt hy] at h
  split at h <;> split at h <;> omega

theorem pickInt_signed_min (b x y : Nat) :
    pickInt true false b x y = if sintOf x b ≤ sintOf y b then x else y := by
  by_cases h : sintOf x b ≤ sintOf y b
  · simp [pickInt, h, Int.not_lt.2 h]
  · simp [pickInt, h, Int.not_le.1 h]

theorem pickInt_signed_max {b x y : Nat} (hx : x < 2 ^ b) (hy : y < 2 ^ b) :
    pickInt true true b x y = if sintOf x b ≤ sintOf y b then y else x := by
  rcases Int.lt_trichotomy (sintOf x b) (sintOf y b) with h | h | h
  · simp [pickInt, h, Int.le_of_lt h]
  · simp [pickInt, eq_of_sintOf_eq hx hy h]
  · simp [pickInt, Int.not_lt.2 (Int.le_of_lt h), Int.not_le.2 h]

theorem pickInt_unsigned_min (b x y : Nat) : pickInt false false b x y = if x ≤ y then x else y := by
  by_cases h : x ≤ y
  · simp [pickInt, h, Nat.not_lt.2 h]
  · simp [pickInt, h, Nat.not_le.1 h]

theorem pickInt_unsigned_max (b x y : Nat) : pickInt false true b x y = if x ≤ y then y else x := by
  rcases Nat.lt_trichotomy x y with h | rfl | h
  · simp [pickInt, h, Nat.le_of_lt h]
  · simp [pickInt]
  · simp [pickInt, Nat.not_lt.2 (Nat.le_of_lt h), Nat.not_le.2 h]

/-! The words. -/

section IntegerWords
variable {s : State} {h : AHead} {i : Instr} (hs : s.Issues h.neg h.grd)
include hs

/-- A two-source integer word applies to the active lanes any operation that is its own on numbers of the lane's width. -/
theorem State.lanesGive_vrInt {o : VR} {f : Nat → Nat → Nat → Nat} {g : Nat → Nat → Nat}
    (hi : exec i s = runA h (vrInt o f) s)
    (hf : ∀ x y, x < 2 ^ intWidth o.w → y < 2 ^ intWidth o.w → f (intWidth o.w) x y = g x y) :
    s.lanesGive i (vrUse o true false 2) (intWidth o.w) (2 ^ o.g.toNat * laneCount (intWidth o.w)) fun k =>
      if active (s.ctx.pre.mreg o.vm.toNat) (intWidth o.w) k then
        some (g (lane (s.vsrc (vrUse o true false 2).srcs 0) (intWidth o.w) k)
          (lane (s.vsrc (vrUse o true false 2).srcs 1) (intWidth o.w) k), 0)
      else none := by
  unfold vrInt at hi
  refine State.lanesGive_of_gather hs hi ?_
  simp only [State.view_onWord hs.mode, ← hf _ _ (lane_lt _ _ _) (lane_lt _ _ _)]
  rfl

/-- A one-source integer word applies its operation to the active lanes. -/
theorem State.lanesGive_vuInt {o : VU} {f : Nat → Nat → Nat} (hi : exec i s = runA h (vuInt o f) s) :
    s.lanesGive i (vuUse o true 2) (intWidth o.w) (2 ^ o.g.toNat * laneCount (intWidth o.w)) fun k =>
      if active (s.ctx.pre.mreg o.vm.toNat) (intWidth o.w) k then
        some (f (intWidth o.w) (lane (s.vsrc (vuUse o true 2).srcs 0) (intWidth o.w) k), 0)
      else none := by
  unfold vuInt at hi
  refine State.lanesGive_of_gather hs hi ?_
  simp only [State.view_onWord hs.mode]
  rfl

end IntegerWords

/-- Settles O16: each word's operation on numbers of the lane's width is the statement's, lane by lane. -/
theorem vectorIntegerLanes : Obligations.VectorIntegerLanes := by
  intro s h o q hs b u x y on two c w one
  have lanes {i : Instr} {f : Nat → Nat → Nat → Nat} {g : Nat → Nat → Nat} (hi : exec i s = runA h (vrInt o f) s)
      (hf : ∀ x y, x < 2 ^ b → y < 2 ^ b → f b x y = g x y) : two i g := State.lanesGive_vrInt hs hi hf
  have same {i : Instr} {f : Nat → Nat → Nat → Nat} (hi : exec i s = runA h (vrInt o f) s) : two i (f b) :=
    lanes hi fun _ _ _ _ => rfl
  refine ⟨?vadd, ?vsub, ?vmul, ?vminS, ?vmaxS, ?vminN, ?vmaxN, ?vand, ?vor, ?vxor, ?vshl, ?vshr, ?vsra, ?vabs, ?vneg, ?vmov⟩
  case vadd => exact (same (i := .vaddI h o) rfl :)
  case vsub => exact lanes (i := .vsubI h o) rfl fun x y _ hy => Nat.add_sub_assoc (Nat.le_of_lt hy) x
  case vmul => exact (same (i := .vmulI h o) rfl :)
  case vminS => exact lanes rfl fun x y _ _ => pickInt_signed_min _ x y
  case vmaxS => exact lanes rfl fun _ _ => pickInt_signed_max
  case vminN => exact lanes rfl fun x y _ _ => pickInt_unsigned_min _ x y
  case vmaxN => exact lanes rfl fun x y _ _ => pickInt_unsigned_max _ x y
  case vand => exact (same (i := .vand h o) rfl :)
  case vor => exact (same (i := .vor h o) rfl :)
  case vxor => exact (same (i := .vxor h o) rfl :)
  case vshl => exact (same (i := .vshl h o) rfl :)
  case vshr => exact (same (i := .vshr h o) rfl :)
  case vsra => exact (same (i := .vsra h o) rfl :)
  case vabs => exact (State.lanesGive_vuInt (i := .vabsI h q) hs rfl :)
  case vneg => exact (State.lanesGive_vuInt (i := .vnegI h q) hs rfl :)
  case vmov => exact (State.lanesGive_vuInt (i := .vmov h q) hs rfl :)

end Sys2Proof.Machine
end

section
/-! SUPPORT. Streams (R150, R152, R153, R155): what `sbind` and `srep` do where they issue, and the steps of the vector unit and
of streams. -/

namespace Sys2Proof.Machine

/-- An A-word that issues does its effect, then its pops. -/
theorem runA_does {s t : State} {h : AHead} {w : WordSpec} {pops : List Nat} (hs : s.Issues h.neg h.grd)
    (htakes : w.takes (s.onWord true) = true) (hpops : (w.acc (s.onWord true)).pops = pops)
    (heffect : w.effect (s.onWord true) = t) : runA h w s = .next (t.popAll pops) := by
  rw [runA, runWord_issues hs, WordSpec.perform, htakes, if_pos rfl, hpops, heffect]

/-! Setting up streams (R152, R155). -/

/-- The stream of a descriptor at position 0, with what the flags of its segment are at issue. -/
def State.streamFor (s : State) (d : Word) : Stream :=
  let g := s.ctx.pre.seg (wbits d 60 3)
  let a := g.addr (wbits d 0 32)
  ⟨d, a, tagOf a, g.tagx, g.noundo, 0, [], 0, s.cycle⟩

/-- A register of the issuing thread is bound to a stream, or unbound. -/
def State.bindStream (s : State) (v : BitVec 5) (y : Option Stream) : State :=
  (s.onWord true).modCur fun t => { t with streams := vset t.streams (v.toNat - 28) y }

/-- The reads of the first four granules of a stream, or of all it has. -/
def State.firstReads (s : State) (v : BitVec 5) (y : Stream) : List LocalAcc :=
  (List.range (if streamLen y.desc < 4 then streamLen y.desc else 4)).map fun i =>
    ⟨s.me, (s.onWord true).ctx.org, y.off i, false, .streamRead (v.toNat + 32 * s.cycle) i⟩

section Words
variable {s : State} {h : AHead} (hs : s.Issues h.neg h.grd)
include hs

theorem exec_sbind_zero (v x : BitVec 5) (hd : s.sval x = 0) :
    exec (.sbind h v x) s = .next ((s.bindStream v none).popAll (popsOf [x])) := by
  refine runA_does hs rfl rfl ?_
  simp only [State.sval_onWord hs.mode, hd, if_true]
  rfl

theorem exec_sbind_write (v x : BitVec 5) (hd : s.sval x ≠ 0) (hw : (s.sval x).getLsbD 63 = true) :
    exec (.sbind h v x) s = .next ((s.bindStream v (some (s.streamFor (s.sval x)))).popAll (popsOf [x])) := by
  refine runA_does hs rfl rfl ?_
  simp only [State.sval_onWord hs.mode, State.view_onWord hs.mode, hd, if_false, Stream.isWrite, hw, if_true]
  rfl

theorem exec_sbind_read (v x : BitVec 5) (hd : s.sval x ≠ 0) (hw : (s.sval x).getLsbD 63 = false) :
    exec (.sbind h v x) s = .next (((s.bindStream v (some (s.streamFor (s.sval x)))).queueLocal s.ctx.core
      (s.firstReads v (s.streamFor (s.sval x)))).popAll (popsOf [x])) := by
  have hme (y : Option Stream) : (s.bindStream v y).me = s.me := State.me_congr hs.mode rfl
  have hmin (n : Nat) : Nat.min 4 n = if n < 4 then n else 4 := by
    show min 4 n = _
    split <;> omega
  refine runA_does hs rfl rfl ?_
  simp only [State.sval_onWord hs.mode, State.view_onWord hs.mode, hd, if_false, Stream.isWrite, hw, Bool.false_eq_true, hmin]
  rw [State.firstReads, ← hme (some (s.streamFor (s.sval x)))]
  rfl

theorem exec_srep (x : BitVec 5) : exec (.srep h x) s = .next (((s.onWord true).modCur fun t =>
    { t with srep := some (if (s.sval x).toNat % 2 ^ 14 = 0 then t.restOfStream else (s.sval x).toNat % 2 ^ 14) }).popAll
      (popsOf [x])) := by
  refine runA_does hs rfl rfl ?_
  simp only [State.sval_onWord hs.mode, wbits_zero]

end Words

/-! What a step keeps of memory, and the thread it concerns (R283). -/

theorem State.SameMemory.modCore (s : State) (c : Nat) {f : Core → Core} (hf : ∀ k, (f k).tiles = k.tiles) :
    s.SameMemory (s.modCore c f) := by
  refine ⟨rfl, rfl, rfl, rfl, rfl, rfl, rfl, fun k => ?_⟩
  by_cases hk : k = c
  · rw [hk, State.coreAt_modCore_same, hf]
  · rw [State.coreAt_modCore_ne _ _ _ _ hk]

theorem State.SameMemory.addStep (s : State) (c : Nat) (e : Ev) : s.SameMemory (s.at c e) :=
  ⟨rfl, rfl, rfl, rfl, rfl, rfl, rfl, fun _ => rfl⟩

theorem State.SameMemory.modWho (s : State) (w : SlotRef) (f : Thread → Thread) : s.SameMemory (s.modWho w f) := by
  unfold State.modWho State.modThread
  exact .modCore s w.core fun _ => rfl

theorem State.SameMemory.trans {s t u : State} (h : s.SameMemory t) (g : t.SameMemory u) : s.SameMemory u :=
  ⟨g.spad.trans h.spad, g.spadTag.trans h.spadTag, g.hbm.trans h.hbm, g.hbmTag.trans h.hbmTag, g.host.trans h.host,
    g.istore.trans h.istore, g.marks.trans h.marks, fun c => (g.tiles c).trans (h.tiles c)⟩

theorem State.threadAt_modWho_same {s : State} {w : SlotRef} {th : Thread} (hth : s.threadAt w.core w.slot = some th)
    (hid : th.tid = w.tid) (f : Thread → Thread) : (s.modWho w f).threadAt w.core w.slot = some (f th) := by
  rw [State.modWho, State.threadAt_modThread_same, hth, Option.map_some, if_pos (beq_iff_eq.2 hid)]

/-! One access at the end of the local access queue (R120, R121). -/

theorem State.localSlot_eq (s : State) (c : Nat) : s.localSlot c =
    let free := if (s.coreAt c).localAt = s.cycle then (s.coreAt c).localFree - 1 else (s.coreAt c).localFree
    if s.cycle + 2 < free then free else s.cycle + 2 := by
  unfold State.localSlot
  dsimp only
  generalize (if (s.coreAt c).localAt = s.cycle then (s.coreAt c).localFree - 1 else (s.coreAt c).localFree) = free
  show max (s.cycle + 2) free = _
  split <;> omega

theorem State.localSlot_modWho (s : State) (w : SlotRef) (f : Thread → Thread) :
    (s.modWho w f).localSlot w.core = s.localSlot w.core := by
  simp only [State.localSlot, State.modWho, State.modThread, State.coreAt_modCore_same, State.modCore_cycle]

theorem State.queueLocal_one (s : State) (c : Nat) (a : LocalAcc) : s.queueLocal c [a] =
    ((s.takeSlots c 1).at (s.localSlot c) ⟨.localAccessPerformed c a, {}⟩).modWho a.who fun t =>
      { t with localOut := t.localOut + 1 } := rfl

theorem State.mem_agenda_queueLocal (s : State) (c : Nat) (a : LocalAcc) :
    (s.localSlot c, ⟨.localAccessPerformed c a, {}⟩) ∈ (s.queueLocal c [a]).agenda := by
  rw [State.queueLocal_one, State.modWho_agenda]
  exact mem_agendaInsert _ _ _

theorem State.SameMemory.queueLocal (s : State) (c : Nat) (a : LocalAcc) : s.SameMemory (s.queueLocal c [a]) := by
  have hslots : s.SameMemory (s.takeSlots c 1) := .modCore s c fun _ => rfl
  rw [State.queueLocal_one]
  exact hslots.trans ((State.SameMemory.addStep _ _ _).trans (.modWho _ _ _))

/-- The access is counted at its thread. -/
theorem State.threadAt_queueLocal_same {s : State} {a : LocalAcc} {th : Thread}
    (hth : s.threadAt a.who.core a.who.slot = some th) (hid : th.tid = a.who.tid) (c : Nat) :
    (s.queueLocal c [a]).threadAt a.who.core a.who.slot = some { th with localOut := th.localOut + 1 } := by
  rw [State.queueLocal_one]
  refine State.threadAt_modWho_same ?_ hid _
  rw [State.threadAt_at, State.takeSlots, State.threadAt_modCore_keep _ _ _ _ _ rfl, hth]

/-! The steps of streams (R153). -/

/-- A step named by the register and the cycle of its binding marks the granule of the stream bound then. -/
theorem streamReadAvailable_marks {s : State} {who : SlotRef} {r idx : Nat} {th : Thread} {x : Stream}
    (hth : s.threadAt who.core who.slot = some th) (hid : th.tid = who.tid) (hr : r < 32)
    (hx : vget none th.streams (r - 28) = some x) :
    ∃ t, exec (.streamReadAvailable who (r + 32 * x.gen) idx) s = .next t ∧ s.SameMemory t ∧
      t.threadAt who.core who.slot = some (th.setStream r
        (some { x with avail := x.avail.map fun a => if a.1 = idx then (a.1, a.2.1, true) else a })) := by
  have hreg : (r + 32 * x.gen) % 32 = r := by omega
  have hgen : (r + 32 * x.gen) / 32 = x.gen := by omega
  refine ⟨_, rfl, .modWho _ _ _, (State.threadAt_modWho_same hth hid _).trans ?_⟩
  simp only [hreg, hgen, hx, if_true, beq_iff_eq]

/-- A push gives back its place, enters the queue, and is counted. -/
theorem streamPushQueued_enters {s : State} {who : SlotRef} {r : Nat} {th : Thread} {x : Stream}
    (hth : s.threadAt who.core who.slot = some th) (hid : th.tid = who.tid)
    (hx : vget none th.streams (r - 28) = some x) (org : Origin) (p : PushAt) (val : VReg) (mask : Word) :
    ∃ t, exec (.streamPushQueued who org r p val mask) s = .next t ∧ s.SameMemory t ∧
      t.threadAt who.core who.slot =
        some { th.setStream r (some { x with pushes := x.pushes - 1 }) with localOut := th.localOut + 1 } ∧
      (s.localSlot who.core,
        ⟨.localAccessPerformed who.core ⟨who, org, p.off, p.noundo, .streamWrite r val mask p.tag⟩, {}⟩) ∈ t.agenda := by
  refine ⟨_, rfl, (State.SameMemory.modWho s who _).trans (.queueLocal _ _ _), ?thread, ?queued⟩
  case thread =>
    have hgiven (f : Thread → Thread) := State.threadAt_modWho_same hth hid f
    refine State.threadAt_queueLocal_same (a := ⟨who, org, p.off, p.noundo, .streamWrite r val mask p.tag⟩)
      (th := th.setStream r (some { x with pushes := x.pushes - 1 })) ((hgiven _).trans ?_) hid who.core
    simp only [hx]
  case queued =>
    rw [← s.localSlot_modWho who]
    exact State.mem_agenda_queueLocal _ _ _

/-- Settles O21: the two words by what they do where they issue, the three steps by what they do to the unit, the thread and the
queue. -/
theorem vectorStreams : Obligations.VectorStreams := by
  refine ⟨fun s h v x hs _ => ?words, fun s who org r idx off val mask th x hth hid hlo hhi hx => ⟨?unit, ?read, ?push⟩⟩
  case words =>
    intro d g a y set n
    have hy : s.streamFor d = y := by
      simp only [State.streamFor, wbits_zero]
      rfl
    refine ⟨exec_sbind_zero hs v x, fun hd hw => ?write, fun hd hw => ?load, exec_srep hs x⟩
    case write => rw [exec_sbind_write hs v x hd hw, hy]; rfl
    case load => rw [exec_sbind_read hs v x hd hw, hy]; rfl
  case unit =>
    refine ⟨_, rfl, .modCore s _ (fun _ => ?tiles), fun c sl => s.threadAt_modCore_keep _ _ _ _ ?threads, ?free⟩
    case tiles => split <;> rfl
    case threads => split <;> rfl
    case free =>
      rw [State.coreAt_modCore_same]
      split <;> rfl
  case read =>
    obtain ⟨t, ht, hmem, hthread⟩ := streamReadAvailable_marks (idx := idx) hth hid hhi hx
    exact ⟨t, _, ht, hmem, hthread, rfl, vget_vset_same _ _ _ _ (by omega)⟩
  case push =>
    intro nu tg k free
    obtain ⟨t, ht, hmem, hthread, hqueued⟩ := streamPushQueued_enters hth hid hx org ⟨off, nu, tg⟩ val mask
    rw [State.localSlot_eq] at hqueued
    exact ⟨t, _, ht, hmem, hthread, vget_vset_same _ _ _ _ (by omega), rfl, hqueued⟩

end Sys2Proof.Machine
end
